-- ==== Sys2Proof/Word.lean ====
section
/-! DEFINITION. The word types of the model. Quantities the manual counts (indices, lengths, LTIME, register
words numbered by bit) are natural numbers; bytes of memory are bit vectors. -/

namespace Sys2Proof

/-- One byte of any memory (R6). -/
abbrev Byte := BitVec 8

/-- A memory in its canonical form: (address, byte), addresses strictly rising, no entry equal to the byte an
unlisted address reads as. -/
abbrev Memory := List Host.Cell

/-- A table with sparse keys in rising order: an unlisted key holds the table's default. -/
abbrev Tbl (α : Type) := List (Nat × α)

end Sys2Proof
end

