-- ==== Sys2Proof/Syntax.lean ====
section
/-! DEFINITION. The commands: one constructor per row of spec/opcode_table.json, and the operand structures.
Every command carries `t`, the LTIME at which it takes place (R400). Operands are what reaches the device from
outside (the host, the node, the fabric, sensors, the errors found in memory words), and what the encodings that the
manual does not give would say (a Recipe's parameters). -/

namespace Sys2Proof

/-- A run of bank pairs on one Slice (R111, Table 18.5). -/
structure Run where
  slice : Nat
  first : Nat
  count : Nat
  deriving DecidableEq, Repr

/-- A 32-byte operation or command record as its four qwords (Tables 05.5, 06.3). -/
structure OpRec where
  q0 : Nat
  q1 : Nat
  q2 : Nat
  q3 : Nat
  deriving DecidableEq, Repr

/-- A record of a job program: a crumb operation record or an Oven command record (R153); `rows` is the number of
positions that an Oven record covers, which no field of the record states. -/
structure JobRec where
  crumb : Bool
  op : OpRec
  rows : Nat
  deriving DecidableEq, Repr

/-- A KV pool as the Recipe declares it (Table 07.1); formats by the codes of Table 07.4. -/
structure PoolInfo where
  tokens : Nat
  frame : Nat
  write : Nat
  minRead : Nat
  heads : Nat
  dim : Nat
  stateBytes : Nat
  runs : List Run
  slots : Nat
  base : Nat
  bench : Nat
  lowWater : Nat
  pattern : List Nat
  deriving DecidableEq, Repr

/-- A layer as the Recipe declares it: kind 1 global, 2 local with window, 3 recurrent state (Table 07.6); its query
heads. -/
structure LayerInfo where
  kind : Nat
  window : Nat
  pool : Nat
  kScale : Nat
  vScale : Nat
  queryHeads : Nat
  deriving DecidableEq, Repr

/-- An entry of the constants section, which a record's aux field names (Tables 05.5, 06.3): the bank its operand's
stream begins in (R104), the group an Oven record's operand lies over, which has no group field (none: the whole weight
set), the row its MX scales begin at in each pair, FP32 scales per channel (one: per tensor), bias,
norm weights, an FP32 constant, which function of NORM, ACT or POOL or how many experts of ROUTE, rotary frequencies
(R90), the softmax scale, cap and window of attention (R179), and the output tensor's index (R96). -/
structure ConstEntry where
  firstBank : Nat := 0
  group : Option Nat := none
  scaleRow : Nat := 0
  scales : List Nat := []
  bias : List Nat := []
  weights : List Nat := []
  value : Nat := 0
  which : Nat := 0
  freqs : List Nat := []
  c : Nat := 0x3F800000
  cap : Nat := 0x3F800000
  window : Nat := 0
  tensor : Nat := 0
  deriving DecidableEq, Repr

/-- A record that reads a streamed tensor, or works for one expert of a routed layer: program 0 main, 1 draft, 2 prefill,
3 embed; the route region and the expert's index (R233–R235). -/
structure TensorUse where
  program : Nat
  record : Nat
  stream : Option Nat
  expert : Option (Nat × Nat)
  deriving DecidableEq, Repr

/-- A resident tensor that a stream table entry may name as its shadow: length in 4 KiB, place, format, constants
(R235, R236). -/
structure Resident where
  length : Nat
  group : Nat
  base : Nat
  format : Nat
  const : Nat
  deriving DecidableEq, Repr

/-- A stream slot set: slot size in 4 KiB, slot count, the group its slots lie over, and their first row (R220). -/
structure SlotSet where
  size : Nat
  count : Nat
  group : Nat
  base : Nat
  deriving DecidableEq, Repr

/-- Where a run of the Loaf weight data goes: a Loaf location (R102) and a length. -/
structure WeightPlace where
  loc : Nat
  len : Nat
  deriving DecidableEq, Repr

/-- What a Recipe image's parameters, placement, pools and constants sections say. The manual gives these
sections' kinds (R245) and not their encoding, so their content stands here, decoded. -/
structure RecipeInfo where
  vocab : Nat
  eos : List Nat
  chunkMax : Nat
  seatNeed : Nat
  dMax : Nat
  weightRuns : List Run
  weightPattern : List Nat
  groups : List (List Run)
  weightPlaces : List WeightPlace
  regions : List (Nat × Nat)          -- seat-store region and the format written to it
  consts : List ConstEntry
  uses : List TensorUse
  mainRecords : Nat                   -- crumb records of the main program; the draft program follows
  pools : List PoolInfo
  layers : List LayerInfo
  prefillRecords : Nat
  embedRecords : Nat
  jobs : List (List JobRec)
  slotSets : List SlotSet
  residents : List Resident
  adapterFrames : Nat
  adapterBytes : Nat
  embedLead : List Nat
  embedTrail : List Nat
  embedBytes : Nat
  tokenIds : List Nat
  stochasticSeed : Nat
  deriving DecidableEq, Repr

/-- An error found in a Loaf word while it was read: `bad` is uncorrectable (R126, R127). -/
structure EccReport where
  slice : Nat
  bank : Nat
  row : Nat
  bad : Bool
  deriving DecidableEq, Repr

/-- A Pemos packet: the header fields of Table 14.3 and the payload bytes. -/
structure Pkt where
  dest : Nat
  src : Nat
  chan : Nat
  type : Nat
  attempt : Nat
  tag : Nat
  units : Nat
  status : Nat
  addr : Nat
  size : Nat
  readUnits : Nat
  seq : Nat
  ack : Nat
  neg : Bool
  credits : Nat
  payload : List Byte
  deriving DecidableEq, Repr

/-- A page the source of a handoff names in its manifest (R366): its layer, list index, format, owner tag check
and the global address of its image. -/
structure SentPage where
  layer : Nat
  index : Nat
  format : Nat
  tag : Nat
  addr : Nat
  deriving DecidableEq, Repr

/-- What a start meets outside the device: the LPDDR5X grade reached in MT/s, 0 when a channel failed at 8,533
(R440); what the settings migration table made of the blob (R392; the table's format is not given); and the image that
the fitted flash part holds, CONFIRMED, in bank A when the part was programmed outside the device, as at manufacture. -/
structure StartInput where
  fitted : Option (List Byte)
  grade : Nat
  migrated : Option (List (Nat × Nat))
  dropped : Nat
  deriving DecidableEq, Repr

/-- How a job record ended: its handshake count, the errors found in words it read, and, for a crumb record, what it left
in the crumb accumulators, since the manual does not say what a crumb record of a job takes as its input (R153). -/
structure RecordEnd where
  handshakes : Nat
  writes : List (Nat × List Byte)
  nans : Nat
  saturations : Nat
  ecc : List EccReport
  deriving DecidableEq, Repr

/-- What a move moves. -/
inductive MoveObj where
  | page (ctx layer index : Nat)      -- KV page or state slot, by page-list entry
  | tensor (recipe stream : Nat)      -- streamed tensor, by stream table entry
  | log (session : Nat)               -- token log with its record
  deriving DecidableEq, Repr

/-- The kinds of move (R224). -/
inductive MoveKind where
  | promote
  | evict
  | transfer
  deriving DecidableEq, Repr

/-- Who asks for a move (R224). -/
inductive Requester where
  | request (index incarnation : Nat)
  | step (n : Nat)
  | item (request : Nat)
  | handoff (session : Nat)
  deriving DecidableEq, Repr

/-- How a staging read ended: data, TARGET_DEAD poison, or uncorrectable data (R192). -/
inductive StageEnd where
  | ok
  | dead
  | bad
  deriving DecidableEq, Repr

/-- How a flash write ended (R382). -/
inductive FlashEnd where
  | done
  | mismatch
  | stopped
  deriving DecidableEq, Repr

/-- The commands. -/
inductive Instr where
  -- descriptors, doorbells
  | descriptorFetch (t ring : Nat)
  | descriptorFetchFailed (t ring : Nat)
  | submissionDoorbell (t ring width value : Nat) (visible : List (Nat × Byte))
  | completionDoorbell (t ring width value : Nat)
  | tokenStreamDoorbell (t ring width value : Nat)
  | eventDoorbell (t width value : Nat)
  | resyncDoorbell (t width addr : Nat) (visible : List (Nat × Byte))
  | nop (t ring : Nat)
  | generate (t ring : Nat)
  | cancel (t ring : Nat)
  | park (t ring : Nat)
  | modify (t ring : Nat)
  | handoff (t ring : Nat)
  | tenantSet (t ring : Nat)
  | mapInstall (t ring : Nat) (hostOk : Bool)
  | epochDrained (t : Nat)
  | jobGrant (t ring : Nat)
  | jobRevoke (t ring : Nat)
  | recipeLoad (t ring : Nat) (hostOk bankOk : Bool) (info : RecipeInfo)
  | recipeUnload (t ring : Nat)
  | adapterLoad (t ring : Nat) (hostOk : Bool)
  | adapterRetire (t ring : Nat)
  | grammarLoad (t ring : Nat) (hostOk : Bool)
  | grammarUnload (t ring : Nat)
  | embed (t ring : Nat) (hostOk : Bool)
  | embedRowGroupEnd (t : Nat) (ecc : List EccReport)
  | sift (t ring : Nat) (hostOk : Bool)
  | siftContextGrant (t : Nat)
  | siftQueryLimit (t ctx : Nat)
  | siftUpdate (t ring : Nat) (hostOk : Bool)
  | fwBlock (t ring : Nat) (hostOk flashOk : Bool)
  | fwCommit (t ring : Nat)
  | attest (t ring : Nat)
  | calWrite (t ring : Nat) (hostOk : Bool)
  | resync (t ring : Nat)
  -- requests and the Kneader
  | inputReadFailed (t request : Nat)
  | directoryRecordRead (t request : Nat)
  | millIntakeQuantum (t : Nat)
  | commit (t request : Nat)
  | demotionRecordWritten (t context : Nat)
  | bakeStepBoundary (t : Nat)
  | deadlineMissed (t request : Nat)
  | pagesExhausted (t request : Nat)
  | idleBoundary (t : Nat)
  | heldBoundary (t : Nat)
  | budgetPeriodEnd (t : Nat)
  | decodeEnd (t : Nat) (ecc : List EccReport) (storeBad : List Nat)
  | chunkEnd (t : Nat) (ecc : List EccReport)
  | frameZeroed (t recipe pool slot : Nat)
  | stagingComplete (t context layer index : Nat) (how : StageEnd)
  -- exclusive jobs
  | jobStart (t : Nat) (restoreOk : Bool)
  | jobCommandBoundary (t : Nat) (done : RecordEnd)
  | jobSliceEnd (t : Nat)
  | jobSaveDone (t : Nat) (saveOk : Bool)
  | commandOverrun (t handshakes : Nat)
  -- moves and streamed tensors
  | moveStart (t : Nat) (kind : MoveKind) (obj : MoveObj) (who : Requester) (dest : Nat)
  | moveCommit (t move : Nat) (poisoned : Bool) (ecc : List EccReport)
  | moveSourceRelease (t move : Nat)
  | moveAbort (t move : Nat)
  | streamNeedPoint (t recipe stream : Nat) (oven : Bool) (lanes : List Nat)
  | streamDeadline (t recipe stream : Nat) (noExpert : Bool)
  -- memory faults, pace, heat, pins
  | eccSummary (t : Nat)
  | sliceHang (t slice : Nat)
  | paceLow (t domain pace mv tj : Nat)
  | paceLowDeferred (t domain : Nat)
  | freeze (t domain mv : Nat)
  | thaw (t domain mv : Nat)
  | freezeLimit (t domain : Nat)
  | thermal (t domain tj : Nat)
  | thermalDeferred (t : Nat)
  | thermalFactorStep (t : Nat)
  | pwrWarn (t : Nat)
  | throttle (t : Nat) (asserted : Bool)
  | pwrWarnStuck (t pin : Nat)
  | inputStorm (t pin : Nat)
  | powerOn (t : Nat) (rstLow : Bool) (start : StartInput)
  | powerLoss (t : Nat)
  | fixedRailOutOfRange (t : Nat)
  | pinReset (t : Nat) (start : StartInput)
  | softReset (t : Nat) (i3c : Bool) (width value : Nat)
  | softStart (t : Nat) (start : StartInput)
  -- set-up registers
  | setupClose (t value : Nat)
  | ringEnable (t value : Nat)
  | apertureWrite (t value : Nat)
  | numstatClear (t : Nat) (oven : Bool) (value : Nat)
  | pinStatClear (t : Nat) (i3c : Bool) (value : Nat)
  | dmpCtlWrite (t offset width value : Nat)
  | gateArm (t outlet value : Nat)
  | gateDisarm (t outlet value : Nat)
  | gateTakeover (t outlet : Nat)
  | registerWrite (t : Nat) (i3c : Bool) (bar offset width value : Nat)
  | windowRead (t offset count : Nat) (uncorrectable : Bool)
  | windowWrite (t offset : Nat) (data : List Byte)
  | i3cDynamicAddress (t addr : Nat)
  -- host link, output
  | hostLinkDown (t : Nat)
  | hostLinkUp (t modules rate : Nat)
  | streamHoldTimeout (t request : Nat)
  | hostRecordWrite (t : Nat)
  | interruptTimeThreshold (t kind ring : Nat)
  | msixUnmask (t vector : Nat)
  -- Pemos
  | linkDown (t port : Nat) (up : Bool) (cause lanes : Nat)
  | portTrainTimeout (t port : Nat)
  | linkReplay (t port : Nat) (received : Bool)
  | link (t port : Nat) (p : Pkt)
  | read (t port : Nat) (p : Pkt)
  | write (t port : Nat) (p : Pkt)
  | add (t port : Nat) (p : Pkt)
  | smin (t port : Nat) (p : Pkt)
  | smax (t port : Nat) (p : Pkt)
  | umin (t port : Nat) (p : Pkt)
  | umax (t port : Nat) (p : Pkt)
  | cas (t port : Nat) (p : Pkt)
  | probe (t port : Nat) (p : Pkt)
  | openHandoff (t port : Nat) (p : Pkt) (session logLength epoch cls : Nat)
  | logDone (t port : Nat) (p : Pkt) (session logLength : Nat)
  | logFree (t port : Nat) (p : Pkt) (session header : Nat)
  | kvSend (t port : Nat) (p : Pkt) (session sentV shared tally : Nat) (pages : List SentPage)
  | release (t port : Nat) (p : Pkt) (image tag : Nat)
  | fabricResponse (t port : Nat) (p : Pkt)
  | responseTimeout (t tag : Nat)
  | reissueTimer (t tag : Nat)
  | nodeDead (t node : Nat)
  | fabricGiveUp (t tag : Nat)
  | replayEntryExpiry (t src tag : Nat)
  | alternateRouteProbe (t node : Nat) (answered : Bool)
  | deadSetProbe (t node : Nat) (answered : Bool)
  | portPacketBoundary (t port : Nat)
  | handoffTallyZero (t session : Nat)
  | handoffLimitExpiry (t session : Nat)
  | incomingRecordExpiry (t session : Nat)
  | flashWriteComplete (t : Nat) (how : FlashEnd)
  | siftComplete (t ctx : Nat) (localBad : List Nat) (blockBad : Bool)
  | patrolScrub (t slice bank : Nat) (errors : List (Option Bool))
  | pwrWarnRelease (t : Nat)
  | initiatorLimitRelease (t : Nat)
  | mailboxCommand (t opcode : Nat) (payload : List Byte)
  deriving DecidableEq, Repr

end Sys2Proof
end

