-- ==== Sys2Proof/Decode.lean ====
section
/-! DEFINITION. Decoding of a word of the table's bits. No row of the table gives bits (each command arrives by the
path its rule names), so no word spells a command. -/

namespace Sys2Proof

/-- The command a word spells by the bits of spec/opcode_table.json: none, for no row gives bits. -/
def decodeTableWord (nbits w : Nat) : Option Instr :=
  match nbits, w with
  | _, _ => none

end Sys2Proof
end

