-- ==== Sys2Proof/Machine/Bits.lean ====
section
/-! DEFINITION. Bit fields, little-endian bytes (R6, R7, R79), sparse tables, byte memories. -/

namespace Sys2Proof.Machine

/-- Bits [hi:lo] of x, both ends included (R7). -/
def bits (x hi lo : Nat) : Nat := (x >>> lo) % 2 ^ (hi + 1 - lo)

/-- Bit [n] of x (R7). -/
def bit (x n : Nat) : Bool := (x >>> n) % 2 == 1

/-- A Bool as a bit. -/
def b2n (b : Bool) : Nat := if b then 1 else 0

/-- x with bits [hi:lo] replaced by v. -/
def setBits (x hi lo v : Nat) : Nat :=
  let w := 2 ^ (hi + 1 - lo)
  (x / 2 ^ (hi + 1)) * 2 ^ (hi + 1) + (v % w) * 2 ^ lo + x % 2 ^ lo

/-- The smallest multiple of m at or above x. -/
def roundUp (x m : Nat) : Nat := (x + m - 1) / m * m

/-- ceil(a / b). -/
def ceilDiv (a b : Nat) : Nat := (a + b - 1) / b

/-- a lowered to a limit: a saturating counter. -/
def sat (limit a : Nat) : Nat := if a ≤ limit then a else limit

/-- The n low bytes of v, least significant first (R6). -/
def toBytes : Nat → Nat → List Byte
  | 0, _ => []
  | n + 1, v => BitVec.ofNat 8 (v % 256) :: toBytes n (v / 256)

/-- The number whose bytes, least significant first, are the list (R6). -/
def ofBytes : List Byte → Nat
  | [] => 0
  | b :: bs => b.toNat + 256 * ofBytes bs

/-- The number whose bytes, most significant first, are the list (RSA values and SHA-512 messages, R383). -/
def ofBytesBE (bs : List Byte) : Nat := bs.foldl (fun a b => a * 256 + b.toNat) 0

/-- The n low bytes of v, most significant first. -/
def toBytesBE (n v : Nat) : List Byte := (toBytes n v).reverse

/-- Bit count of v, over its w low bits. -/
def popCount : Nat → Nat → Nat
  | 0, _ => 0
  | w + 1, v => v % 2 + popCount w (v / 2)

/-- 32-bit and 64-bit limits. -/
def lim16 : Nat := 65535
def lim32 : Nat := 4294967295
def lim64 : Nat := 18446744073709551615

/-! ## Sparse tables -/

/-- The value at a key, or the default. -/
def tget {α : Type} (dflt : α) : Tbl α → Nat → α
  | [], _ => dflt
  | (k, v) :: r, key => if k = key then v else tget dflt r key

/-- The value at a key, if listed. -/
def tfind {α : Type} : Tbl α → Nat → Option α
  | [], _ => none
  | (k, v) :: r, key => if k = key then some v else tfind r key

/-- The table with a value placed at a key, keys rising. -/
def tset {α : Type} : Tbl α → Nat → α → Tbl α
  | [], key, v => [(key, v)]
  | (k, w) :: r, key, v =>
    if key < k then (key, v) :: (k, w) :: r
    else if key = k then (key, v) :: r
    else (k, w) :: tset r key v

/-- The table without a key. -/
def tdel {α : Type} : Tbl α → Nat → Tbl α
  | [], _ => []
  | (k, w) :: r, key => if k = key then tdel r key else (k, w) :: tdel r key

/-! ## Byte memories: `d` is what an unlisted address reads as -/

/-- Read one byte. -/
def mread (d : Byte) : Memory → Nat → Byte
  | [], _ => d
  | (k, v) :: r, a => if k = a then v else mread d r a

/-- Remove an address, if listed. -/
def mdrop : Memory → Nat → Memory
  | [], _ => []
  | (k, v) :: r, a => if k = a then mdrop r a else (k, v) :: mdrop r a

/-- List a byte at an address, keeping the addresses rising. -/
def mput : Memory → Nat → Byte → Memory
  | [], a, b => [(a, b)]
  | (k, v) :: r, a, b =>
    if a < k then (a, b) :: (k, v) :: r
    else if a = k then (a, b) :: r
    else (k, v) :: mput r a b

/-- Write one byte: writing what an unlisted address reads as removes the entry. -/
def mwrite (d : Byte) (m : Memory) (a : Nat) (b : Byte) : Memory :=
  if b = d then mdrop m a else mput m a b

/-- Write bytes at consecutive addresses. -/
def mwrites (d : Byte) : Memory → Nat → List Byte → Memory
  | m, _, [] => m
  | m, a, b :: bs => mwrites d (mwrite d m a b) (a + 1) bs

/-- Read n consecutive bytes. -/
def mreads (d : Byte) (m : Memory) : Nat → Nat → List Byte
  | _, 0 => []
  | a, n + 1 => mread d m a :: mreads d m (a + 1) n

/-- Read n bytes as a little-endian number (R6). -/
def mloadN (d : Byte) (m : Memory) (a n : Nat) : Nat := ofBytes (mreads d m a n)

/-- Write the n low bytes of v, little-endian (R6). -/
def mstoreN (d : Byte) (m : Memory) (a n v : Nat) : Memory := mwrites d m a (toBytes n v)

/-- Every byte of [lo, hi) made what an unlisted address reads as: zeroing of a region (R242), erase of flash. -/
def mclear (m : Memory) (lo hi : Nat) : Memory := m.filter (fun c => c.1 < lo || hi ≤ c.1)

/-- The canonical form: addresses strictly rising, no entry equal to the unlisted byte. -/
def Memory.wf (d : Byte) : Memory → Bool
  | [] => true
  | [c] => c.2 != d
  | c :: c' :: r => c.2 != d && c.1 < c'.1 && Memory.wf d (c' :: r)

/-- Bytes of a memory whose unlisted bytes are 0. -/
def rd (m : Memory) (a n : Nat) : Nat := mloadN 0 m a n
/-- Store into a memory whose unlisted bytes are 0. -/
def wr (m : Memory) (a n v : Nat) : Memory := mstoreN 0 m a n v

/-! ## Lists -/

/-- The first element for which p holds, and the list without it. -/
def takeFirst {α : Type} (p : α → Bool) : List α → Option (α × List α)
  | [] => none
  | x :: xs => if p x then some (x, xs)
    else match takeFirst p xs with
      | some (y, ys) => some (y, x :: ys)
      | none => none

/-- Insert into a list ordered by le, after equals. -/
def insertBy {α : Type} (le : α → α → Bool) (x : α) : List α → List α
  | [] => [x]
  | y :: ys => if le y x then y :: insertBy le x ys else x :: y :: ys

/-- Stable insertion sort. -/
def sortBy {α : Type} (le : α → α → Bool) (l : List α) : List α := l.foldl (fun acc x => insertBy le x acc) []

/-- The first least element under a strict order, if any. -/
def leastBy {α : Type} (lt : α → α → Bool) : List α → Option α
  | [] => none
  | x :: xs => match leastBy lt xs with
    | none => some x
    | some y => if lt y x then some y else some x

/-- 0, 1, ..., n - 1. -/
def upto (n : Nat) : List Nat := List.range n

/-- n copies of f applied in turn. -/
def iter {α : Type} (f : α → α) : Nat → α → α
  | 0, x => x
  | n + 1, x => iter f n (f x)

end Sys2Proof.Machine
end

