-- ==== Sys2Proof/Machine/Crypto.lean ====
section
/-! DEFINITION. SHA-512 (digests of R244, R272, R285, R380, R383, R393), CRC-32 (Table 14.3), RSASSA-PSS
verification (Table 16.2) and Philox4×32-10 (R259). -/

namespace Sys2Proof.Machine

/-! ## SHA-512 -/

/-- The round constants of SHA-512. -/
def shaK : List Nat :=
  [0x428A2F98D728AE22, 0x7137449123EF65CD, 0xB5C0FBCFEC4D3B2F, 0xE9B5DBA58189DBBC,
   0x3956C25BF348B538, 0x59F111F1B605D019, 0x923F82A4AF194F9B, 0xAB1C5ED5DA6D8118,
   0xD807AA98A3030242, 0x12835B0145706FBE, 0x243185BE4EE4B28C, 0x550C7DC3D5FFB4E2,
   0x72BE5D74F27B896F, 0x80DEB1FE3B1696B1, 0x9BDC06A725C71235, 0xC19BF174CF692694,
   0xE49B69C19EF14AD2, 0xEFBE4786384F25E3, 0x0FC19DC68B8CD5B5, 0x240CA1CC77AC9C65] ++
  [0x2DE92C6F592B0275, 0x4A7484AA6EA6E483, 0x5CB0A9DCBD41FBD4, 0x76F988DA831153B5,
   0x983E5152EE66DFAB, 0xA831C66D2DB43210, 0xB00327C898FB213F, 0xBF597FC7BEEF0EE4,
   0xC6E00BF33DA88FC2, 0xD5A79147930AA725, 0x06CA6351E003826F, 0x142929670A0E6E70,
   0x27B70A8546D22FFC, 0x2E1B21385C26C926, 0x4D2C6DFC5AC42AED, 0x53380D139D95B3DF,
   0x650A73548BAF63DE, 0x766A0ABB3C77B2A8, 0x81C2C92E47EDAEE6, 0x92722C851482353B] ++
  [0xA2BFE8A14CF10364, 0xA81A664BBC423001, 0xC24B8B70D0F89791, 0xC76C51A30654BE30,
   0xD192E819D6EF5218, 0xD69906245565A910, 0xF40E35855771202A, 0x106AA07032BBD1B8,
   0x19A4C116B8D2D0C8, 0x1E376C085141AB53, 0x2748774CDF8EEB99, 0x34B0BCB5E19B48A8,
   0x391C0CB3C5C95A63, 0x4ED8AA4AE3418ACB, 0x5B9CCA4F7763E373, 0x682E6FF3D6B2B8A3,
   0x748F82EE5DEFB2FC, 0x78A5636F43172F60, 0x84C87814A1F0AB72, 0x8CC702081A6439EC] ++
  [0x90BEFFFA23631E28, 0xA4506CEBDE82BDE9, 0xBEF9A3F7B2C67915, 0xC67178F2E372532B,
   0xCA273ECEEA26619C, 0xD186B8C721C0C207, 0xEADA7DD6CDE0EB1E, 0xF57D4F7FEE6ED178,
   0x06F067AA72176FBA, 0x0A637DC5A2C898A6, 0x113F9804BEF90DAE, 0x1B710B35131C471B,
   0x28DB77F523047D84, 0x32CAAB7B40C72493, 0x3C9EBE0A15C9BEBC, 0x431D67C49C100D4C,
   0x4CC5D4BECB3E42B6, 0x597F299CFC657E2A, 0x5FCB6FAB3AD6FAEC, 0x6C44198C4A475817]

/-- The initial hash value of SHA-512. -/
def shaH : List Nat :=
  [0x6A09E667F3BCC908, 0xBB67AE8584CAA73B, 0x3C6EF372FE94F82B, 0xA54FF53A5F1D36F1,
   0x510E527FADE682D1, 0x9B05688C2B3E6C1F, 0x1F83D9ABFB41BD6B, 0x5BE0CD19137E2179]

/-- Rotate a 64-bit word right. -/
def ror64 (x n : Nat) : Nat := (x >>> n) ||| ((x <<< (64 - n)) % 2 ^ 64)

/-- One new word of the message schedule, from the words 16, 15, 7 and 2 places before it. -/
def shaWord (w0 w1 w9 w14 : Nat) : Nat :=
  let s0 := ror64 w1 1 ^^^ ror64 w1 8 ^^^ (w1 >>> 7)
  let s1 := ror64 w14 19 ^^^ ror64 w14 61 ^^^ (w14 >>> 6)
  (w0 + s0 + w9 + s1) % 2 ^ 64

/-- The eight working words and the window of sixteen message words, oldest first. -/
structure ShaState where
  v : List Nat
  w : List Nat

/-- One round. -/
def shaRound (st : ShaState) (k : Nat) : ShaState :=
  match st.v with
  | [a, b, c, d, e, f, g, h] =>
    let s1 := ror64 e 14 ^^^ ror64 e 18 ^^^ ror64 e 41
    let ch := (e &&& f) ^^^ ((2 ^ 64 - 1 - e) &&& g)
    let s0 := ror64 a 28 ^^^ ror64 a 34 ^^^ ror64 a 39
    let mj := (a &&& b) ^^^ (a &&& c) ^^^ (b &&& c)
    (match st.w with
    | [w0, w1, w2, w3, w4, w5, w6, w7, w8, w9, w10, w11, w12, w13, w14, w15] =>
      let t1 := h + s1 + ch + k + w0
      ⟨[(t1 + s0 + mj) % 2 ^ 64, a, b, c, (d + t1) % 2 ^ 64, e, f, g],
        [w1, w2, w3, w4, w5, w6, w7, w8, w9, w10, w11, w12, w13, w14, w15, shaWord w0 w1 w9 w14]⟩
    | _ => ⟨[], []⟩)
  | _ => ⟨[], []⟩

/-- The sixteen big-endian words of a 128-byte block. -/
def shaBlockWords : Nat → List Byte → List Nat
  | 0, _ => []
  | n + 1, bs => ofBytesBE (bs.take 8) :: shaBlockWords n (bs.drop 8)

/-- Compress one block into the hash value. -/
def shaBlock (h : List Nat) (blk : List Byte) : List Nat :=
  List.zipWith (fun x y => (x + y) % 2 ^ 64) h (shaK.foldl shaRound ⟨h, shaBlockWords 16 blk⟩).v

/-- Compress n blocks. -/
def shaBlocks : Nat → List Nat → List Byte → List Nat
  | 0, h, _ => h
  | n + 1, h, bs => shaBlocks n (shaBlock h (bs.take 128)) (bs.drop 128)

/-- SHA-512 of a message, 64 bytes. -/
def sha512 (msg : List Byte) : List Byte :=
  let len := msg.length
  let pad := (128 - (len + 17) % 128) % 128
  let full := msg ++ [0x80] ++ List.replicate pad 0 ++ toBytesBE 16 (8 * len)
  ((shaBlocks (full.length / 128) shaH full).map (toBytesBE 8)).flatten

/-- SHA-512 read as a little-endian number: digest bytes as they lie in memory. -/
def sha512N (msg : List Byte) : Nat := ofBytes (sha512 msg)

/-! ## CRC-32 of IEEE 802.3 -/

/-- One bit step of the reflected CRC. -/
def crcStep (c : Nat) : Nat := if c % 2 = 1 then (c >>> 1) ^^^ 0xEDB88320 else c >>> 1

/-- CRC-32 over bytes (Table 14.3, Q3). -/
def crc32 (bs : List Byte) : Nat :=
  bs.foldl (fun c b => iter crcStep 8 (c ^^^ b.toNat)) 0xFFFFFFFF ^^^ 0xFFFFFFFF

/-! ## RSASSA-PSS verification: exponent 65,537, SHA-512, MGF1 with SHA-512, 64-byte salt -/

/-- x^65537 mod n. -/
def rsaPublic (x n : Nat) : Nat := (iter (fun y => y * y % n) 16 x) * x % n

/-- MGF1 with SHA-512, k blocks. -/
def mgf1 (seed : List Byte) : Nat → List Byte
  | 0 => []
  | k + 1 => mgf1 seed k ++ sha512 (seed ++ toBytesBE 4 k)

/-- Does the 512-byte signature verify for the message under the 512-byte modulus (both big-endian). -/
def pssVerify (modulus msg sig : List Byte) : Bool :=
  let n := ofBytesBE modulus
  let s := ofBytesBE sig
  if n = 0 || n ≤ s then false else
  let em := toBytesBE 512 (rsaPublic s n)
  -- emBits is one less than the modulus length in bits
  let emBits := n.log2
  let em := em.drop (512 - ceilDiv emBits 8)
  let dbLen := em.length - 65
  let masked := em.take dbLen
  let h := (em.drop dbLen).take 64
  let top := 8 * em.length - emBits
  let mask := (mgf1 h (ceilDiv dbLen 64)).take dbLen
  let db := toBytesBE dbLen ((ofBytesBE masked ^^^ ofBytesBE mask) % 2 ^ (8 * dbLen - top))
  let ps := db.take (dbLen - 65)
  let salt := db.drop (dbLen - 64)
  em.getLast? == some 0xBC && ofBytesBE masked < 2 ^ (8 * dbLen - top)
    && ps.all (· == 0) && (db.drop (dbLen - 65)).head? == some 1
    && sha512 (List.replicate 8 0 ++ sha512 msg ++ salt) == h

/-! ## Philox4×32-10 (R259) -/

/-- Counter (c0..c3) and key (k0, k1) of the generator. -/
structure Philox where
  c0 : Nat
  c1 : Nat
  c2 : Nat
  c3 : Nat
  k0 : Nat
  k1 : Nat
  deriving DecidableEq, Repr

/-- One round, then the key advance (the tenth round's advance does not reach the output). -/
def Philox.round (p : Philox) : Philox :=
  let p0 := p.c0 * 0xD2511F53
  let p1 := p.c2 * 0xCD9E8D57
  { c0 := (p1 / 2 ^ 32) ^^^ p.c1 ^^^ p.k0, c1 := p1 % 2 ^ 32,
    c2 := (p0 / 2 ^ 32) ^^^ p.c3 ^^^ p.k1, c3 := p0 % 2 ^ 32,
    k0 := (p.k0 + 0x9E3779B9) % 2 ^ 32, k1 := (p.k1 + 0xBB67AE85) % 2 ^ 32 }

/-- The output for a 64-bit key and a counter: x0..x3. -/
def philox (key c0 c1 c2 c3 : Nat) : Philox :=
  iter Philox.round 10
    ⟨c0 % 2 ^ 32, c1 % 2 ^ 32, c2 % 2 ^ 32, c3 % 2 ^ 32, key % 2 ^ 32, key / 2 ^ 32 % 2 ^ 32⟩

/-- The sampler's uniform numerator: u = this × 2^-24 (R260). -/
def drawUniform (seed who pos purpose : Nat) : Nat := (philox seed who pos purpose 0).c0 / 256

/-- The 16-bit draw of stochastic rounding (R261). -/
def draw16 (seed stream row element tensor : Nat) : Nat :=
  let p := philox seed stream row (element / 8) (2 ^ 31 + tensor)
  let x := p.c0 + p.c1 * 2 ^ 32 + p.c2 * 2 ^ 64 + p.c3 * 2 ^ 96
  bits x (16 * (element % 8) + 15) (16 * (element % 8))

end Sys2Proof.Machine
end

