-- ==== Sys2Proof/Config.lean ====
section
/-! DEFINITION. What the manual leaves open: the free values (no body, so nothing can be proved of one of them
but what holds for every value), and the constants of the part. -/

namespace Sys2Proof.Config

/-- FREE VALUE. Which of the words within 2 units in the last place a vector function returns for an operand (R89). -/
opaque ulpChoice : Nat → Nat → Nat
/-- FREE VALUE. An activation function of ACT whose steps the manual does not state, on an FP32 word: 0 SiLU, 1 GELU in
tanh form, 2 tanh (Table 05.4, R174). -/
opaque actF32 : Nat → Nat → Nat
/-- FREE VALUE. Which of −7 to 7 a KV4 element becomes when its effective scale rounds to 0 though its block scale is not 0,
from the source value and the scale: the quotient has no value (R84). -/
opaque kv4Quotient : Nat → Nat → Nat
/-- FREE VALUE. A statistic of a vector of FP32 words whose order of summation is not stated: 0 mean, 1 mean of squares,
2 variance, 3 sum of squares (Tables 05.4, 06.2). -/
opaque statF32 : Nat → List Nat → Nat
/-- FREE VALUE. The weight of the i-th of the selected experts under a Recipe's routing rule, from the router scores of
all that are selected (Table 05.4, R235). -/
opaque routeWeight : Nat → List Nat → Nat → Nat
/-- FREE VALUE. Does a rotary pair lie side by side, or half a head apart (R90 gives the angle only). -/
opaque ropeAdjacent : Bool
/-- FREE VALUE. Does SCAN round a × h + u once, or the product first (R118). -/
opaque scanFused : Bool
/-- FREE VALUE. The n-th 64-bit number drawn from Hearth's random source (R394, R252). -/
opaque randomSeed : Nat → Nat
/-- FREE VALUE. The n-th 512-byte signature that Hearth makes with the identity key, which never leaves it
(R394, R395), over the given message digest. -/
opaque identitySignature : Nat → Nat → Nat
/-- FREE VALUE. The 4,096-bit modulus of the identity key, generated in Hearth at manufacture (R380, R394). -/
opaque identityModulus : Nat
/-- FREE VALUE. The n-th answer of a CXL 3.1 mailbox command, which R418 names without stating. -/
opaque mailboxAnswer : Nat → Nat → Nat
/-- FREE VALUE. The Damper's estimate of an activity's mean draw, in W (R403, R404), at a moment. -/
opaque meanDraw : Nat → Nat → Nat
/-- FREE VALUE. The data byte that a poisoned read returns beside its poison; the manual does not state it (R45). -/
opaque poisonByte : Nat → Nat

/-- FREE VALUE. An address at another node that no field of the handoff protocol carries (R366). -/
opaque remoteAddress : Nat → Nat
/-- FREE VALUE. The 32-byte payload of a management command, whose layout Table 14.4 does not give. -/
opaque commandPayload : Nat → Nat

/-- FREE VALUE. The Kneader's queue link of a request entry in one of its lives (Table 03.1: meaningless to the driver). -/
opaque queueLink : Nat → Nat → Nat
/-- FREE VALUE. The handshakes that a job's record in progress has taken at a moment: LTIME, job, record (R154). -/
opaque runningCount : Nat → Nat → Nat → Nat
/-- FREE VALUE. Blocks of the flash write in progress that are done at a moment (Table 16.12). -/
opaque flashProgress : Nat → Nat

/-- 1,152 GiB of LPDDR5X (Table 00.2). -/
def lpBytes : Nat := 1152 * 2 ^ 30
/-- One GiB. -/
def gib : Nat := 2 ^ 30
/-- One MiB. -/
def mib : Nat := 2 ^ 20
/-- Request entries (R50). -/
def requestEntries : Nat := 1048576
/-- Context entries (R54). -/
def contextEntries : Nat := 65536
/-- Longest token log (Table 03.7). -/
def maxLog : Nat := 4194304
/-- Decode seats (Table 00.2). -/
def seatCount : Nat := 4096
/-- Largest class W backlog (R34). -/
def maxClassW : Nat := 4096
/-- Firmware image limit: 56 MiB less 64 KiB (R381). -/
def maxImage : Nat := 58654720
/-- Prefix index entries (R286). -/
def prefixEntries : Nat := 262144

end Sys2Proof.Config
end

