-- ==== Sys2Proof/Machine/Fp.lean ====
section
/-! DEFINITION. Number formats and arithmetic (04_number_formats): element formats, exact sums, rounding,
FP32 operations of the vector ALU, the MX and KV block writers, stochastic rounding. A number is its code. -/

namespace Sys2Proof.Machine

/-- A floating-point element format (Table 04.1). `maxCode` is the code of the largest finite magnitude. -/
structure Fmt where
  eb : Nat
  mb : Nat
  bias : Nat
  maxCode : Nat
  ieee : Bool          -- has infinities and NaNs above maxCode
  nanCode : Option Nat
  deriving DecidableEq, Repr

/-- The formats of Table 04.1. -/
def fE4M3 : Fmt := ⟨4, 3, 7, 0x7E, false, some 0x7F⟩
def fE5M2 : Fmt := ⟨5, 2, 15, 0x7B, true, some 0x7F⟩
def fE3M2 : Fmt := ⟨3, 2, 3, 0x1F, false, none⟩
def fE2M3 : Fmt := ⟨2, 3, 1, 0x1F, false, none⟩
def fE2M1 : Fmt := ⟨2, 1, 1, 0x7, false, none⟩
def fBF16 : Fmt := ⟨8, 7, 127, 0x7F7F, true, some 0x7FC0⟩
def fFP16 : Fmt := ⟨5, 10, 15, 0x7BFF, true, some 0x7E00⟩
def fFP32 : Fmt := ⟨8, 23, 127, 0x7F7FFFFF, true, some 0x7FC00000⟩

/-- The value of a code: m × 2^e, with its sign. -/
inductive FVal where
  | nan
  | inf (neg : Bool)
  | fin (neg : Bool) (m : Nat) (e : Int)
  deriving DecidableEq, Repr

/-- Width of a format in bits. -/
def Fmt.width (f : Fmt) : Nat := 1 + f.eb + f.mb

/-- The sign bit of a format's code. -/
def Fmt.signBit (f : Fmt) : Nat := 2 ^ (f.eb + f.mb)

/-- Read a code; subnormals are honoured (R78). -/
def Fmt.decode (f : Fmt) (c : Nat) : FVal :=
  let neg := bit c (f.eb + f.mb)
  let mag := c % f.signBit
  let ex := mag >>> f.mb
  let man := mag % 2 ^ f.mb
  if f.ieee && ex == 2 ^ f.eb - 1 then (if man = 0 then .inf neg else .nan)
  else if f.nanCode == some mag then .nan
  else if ex = 0 then .fin neg man (1 - (f.bias : Int) - f.mb)
  else .fin neg (2 ^ f.mb + man) ((ex : Int) - f.bias - f.mb)

/-- How a magnitude between two grid points is rounded: nearest even (R94), up (the KV4 scale, R84), or by a
16-bit draw (R96). -/
inductive Rnd where
  | near
  | up
  | draw (d : Nat)
  deriving DecidableEq, Repr

/-- q, or q + 1, by the discarded part r of 2^d. -/
def roundStep (md : Rnd) (q r d : Nat) : Nat :=
  match md with
  | .near => if 2 * r > 2 ^ d || (2 * r == 2 ^ d && q % 2 == 1) then q + 1 else q
  | .up => if r = 0 then q else q + 1
  | .draw n => if r * 65536 / 2 ^ d + n ≥ 65536 then q + 1 else q

/-- The magnitude code of m × 2^e on the format's grid, subnormal grid included; it may lie above maxCode. -/
def Fmt.roundMag (f : Fmt) (md : Rnd) (m : Nat) (e : Int) : Nat :=
  if m = 0 then 0 else
    let k : Int := (m.log2 : Int) + e
    let emin : Int := 1 - (f.bias : Int)
    let u : Int := (if k < emin then emin else k) - f.mb
    let q : Nat := if u ≤ e then m <<< (e - u).toNat
      else
        let d := (u - e).toNat
        roundStep md (m >>> d) (m % 2 ^ d) d
    ((u + f.mb + f.bias - 1).toNat) * 2 ^ f.mb + q

/-- The code of a sign and a magnitude code. -/
def Fmt.signed (f : Fmt) (neg : Bool) (mag : Nat) : Nat := if neg then f.signBit + mag else mag

/-- The FP32 NaN the device produces (R78). -/
def nan32 : Nat := 0x7FC00000

/-- FP32 code of a finite value, rounded to nearest even; beyond range it is infinite (IEEE 754). -/
def toF32 (neg : Bool) (m : Nat) (e : Int) : Nat :=
  let mag := fFP32.roundMag .near m e
  fFP32.signed neg (if mag > fFP32.maxCode then 0x7F800000 else mag)

/-- A signed dyadic number m × 2^e, exact. -/
structure Dy where
  m : Int
  e : Int
  deriving DecidableEq, Repr

/-- Exact sum. -/
def Dy.add (a b : Dy) : Dy :=
  if a.e ≤ b.e then ⟨a.m + b.m * 2 ^ (b.e - a.e).toNat, a.e⟩
  else ⟨a.m * 2 ^ (a.e - b.e).toNat + b.m, b.e⟩

/-- Exact product. -/
def Dy.mul (a b : Dy) : Dy := ⟨a.m * b.m, a.e + b.e⟩

/-- The dyadic number of a sign, magnitude and exponent. -/
def Dy.of (neg : Bool) (m : Nat) (e : Int) : Dy := ⟨if neg then -(m : Int) else m, e⟩

/-- FP32 code of an exact number, rounded once (R87); an exact zero is +0 (R78). -/
def Dy.toF32 (a : Dy) : Nat := Machine.toF32 (a.m < 0) a.m.natAbs a.e

/-- FP32 negation. -/
def fneg (a : Nat) : Nat := if bit a 31 then a - 2 ^ 31 else a + 2 ^ 31

/-- FP32 sum, round to nearest even. -/
def fadd (a b : Nat) : Nat :=
  match fFP32.decode a, fFP32.decode b with
  | .nan, _ => nan32
  | _, .nan => nan32
  | .inf x, .inf y => if x = y then a else nan32
  | .inf _, _ => a
  | _, .inf _ => b
  | .fin x m e, .fin y n g =>
    if m = 0 && n = 0 then (if x && y then 2 ^ 31 else 0)
    else ((Dy.of x m e).add (Dy.of y n g)).toF32

/-- FP32 difference. -/
def fsub (a b : Nat) : Nat := fadd a (fneg b)

/-- FP32 product, round to nearest even. -/
def fmul (a b : Nat) : Nat :=
  match fFP32.decode a, fFP32.decode b with
  | .nan, _ => nan32
  | _, .nan => nan32
  | .inf x, .inf y => fFP32.signed (x != y) 0x7F800000
  | .inf x, .fin y n _ => if n = 0 then nan32 else fFP32.signed (x != y) 0x7F800000
  | .fin x m _, .inf y => if m = 0 then nan32 else fFP32.signed (x != y) 0x7F800000
  | .fin x m e, .fin y n g => toF32 (x != y) (m * n) (e + g)

/-- FP32 quotient, round to nearest even. -/
def fdiv (a b : Nat) : Nat :=
  match fFP32.decode a, fFP32.decode b with
  | .nan, _ => nan32
  | _, .nan => nan32
  | .inf _, .inf _ => nan32
  | .inf x, .fin y _ _ => fFP32.signed (x != y) 0x7F800000
  | .fin x _ _, .inf y => fFP32.signed (x != y) 0
  | .fin x m e, .fin y n g =>
    if n = 0 then (if m = 0 then nan32 else fFP32.signed (x != y) 0x7F800000)
    else
      let sh := 64 + n.log2
      let q := (m <<< sh) / n
      let st := if (m <<< sh) % n = 0 then 0 else 1
      toF32 (x != y) (2 * q + st) (e - g - sh - 1)

/-- An FP32 code as an integer in numeric order; both zeros are 0. Not for a NaN. -/
def fkey (a : Nat) : Int := if bit a 31 then -((a % 2 ^ 31 : Nat) : Int) else (a : Int)

/-- Is the FP32 code a NaN. -/
def isNan (a : Nat) : Bool := a % 2 ^ 31 > 0x7F800000

/-- Is the FP32 code finite. -/
def isFinite32 (a : Nat) : Bool := a % 2 ^ 31 < 0x7F800000

/-- −∞, +∞, the largest finite value, 1.0. -/
def negInf : Nat := 0xFF800000
def posInf : Nat := 0x7F800000
def maxF32 : Nat := 0x7F7FFFFF
def oneF32 : Nat := 0x3F800000

/-- a < b, for codes that are not NaN. -/
def flt (a b : Nat) : Bool := fkey a < fkey b
/-- a ≤ b, for codes that are not NaN. -/
def fle (a b : Nat) : Bool := fkey a ≤ fkey b

/-- FP32 code of a natural number, rounded to nearest even. -/
def natF32 (n : Nat) : Nat := toF32 false n 0

/-! ## Narrowing (R94, Table 04.5) -/

/-- A code in a narrower format, and whether a saturation is counted (Table 04.5). `keep` is the tensor's
saturate flag. -/
def narrow (f : Fmt) (keep : Bool) (md : Rnd) (a : Nat) : Nat × Bool :=
  match fFP32.decode a with
  | .nan => ((f.nanCode.getD 0), false)
  | .inf s => if f.ieee then (f.signed s (2 ^ f.mb * (2 ^ f.eb - 1)), false) else (f.signed s f.maxCode, true)
  | .fin s m e =>
    let mag := f.roundMag md m e
    if mag ≤ f.maxCode then (f.signed s mag, false)
    else if f.ieee && f != fE5M2 && !keep then (f.signed s (2 ^ f.mb * (2 ^ f.eb - 1)), false)
    else (f.signed s f.maxCode, true)

/-- The integer nearest to (m × 2^e) / (n × 2^g), ties to even. -/
def rneRatio (m : Nat) (e : Int) (n : Nat) (g : Int) : Nat :=
  let num := if g ≤ e then m <<< (e - g).toNat else m
  let den := if g ≤ e then n else n <<< (g - e).toNat
  let q := num / den
  let r := num % den
  if 2 * r > den || (2 * r == den && q % 2 == 1) then q + 1 else q

/-- |m × 2^e| on the integer grid: nearest even, or by a draw (R94, R96). -/
def roundInt (md : Rnd) (m : Nat) (e : Int) : Nat :=
  if 0 ≤ e then m <<< e.toNat
  else roundStep md (m >>> (-e).toNat) (m % 2 ^ (-e).toNat) (-e).toNat

/-- INT8 or INT4 code (w bits) of an FP32 value (Table 04.5); the count is of values beyond the range. -/
def narrowIntBy (w : Nat) (md : Rnd) (a : Nat) : Nat × Bool :=
  match fFP32.decode a with
  | .nan => (0, true)
  | .inf s => (if s then 2 ^ (w - 1) else 2 ^ (w - 1) - 1, true)
  | .fin s m e =>
    let q := roundInt md m e
    if s then (if q > 2 ^ (w - 1) then (2 ^ (w - 1), true) else ((2 ^ w - q) % 2 ^ w, false))
    else (if q > 2 ^ (w - 1) - 1 then (2 ^ (w - 1) - 1, true) else (q, false))

/-- The same, rounded to nearest even. -/
def narrowInt (w a : Nat) : Nat × Bool := narrowIntBy w .near a

/-- Largest magnitude code among FP32 values that are not NaN. -/
def amax (vs : List Nat) : Nat :=
  vs.foldl (fun a v => let g := v % 2 ^ 31; if a < g then g else a) 0

/-- Largest power of two of an element format (R81, step 4). -/
def Fmt.emax (f : Fmt) : Int :=
  if f = fE4M3 then 8 else if f = fE5M2 then 15 else if f = fE3M2 then 4 else 2

/-- An MX block: its scale byte and its element codes (R81), element i rounded by `md i` (R96). -/
def mxBlockBy (f : Fmt) (md : Nat → Rnd) (vs : List Nat) : Nat × List Nat :=
  if vs.any (fun v => !isFinite32 v) then (0xFF, vs.map (fun _ => 0))
  else match fFP32.decode (amax vs) with
    | .fin _ 0 _ => (0, vs.map (fun _ => 0))
    | .fin _ m e =>
      let k : Int := (m.log2 : Int) + e - f.emax
      let k := if k < -127 then -127 else if k > 127 then 127 else k
      ((k + 127).toNat, vs.zipIdx.map (fun v =>
        match fFP32.decode v.1 with
        | .fin s m e =>
          let mag := f.roundMag (md v.2) m (e - k)
          f.signed s (if mag > f.maxCode then f.maxCode else mag)
        | _ => 0))
    | _ => (0xFF, vs.map (fun _ => 0))

/-- An MX block rounded to nearest even (R81). -/
def mxBlock (f : Fmt) (vs : List Nat) : Nat × List Nat := mxBlockBy f (fun _ => .near) vs

/-- A KV4 block of 16 values under page scale sp: the block scale, the element codes, and whether it counts a
saturation (R84). DESIGN CHOICE (log 109): where the scale rounds to 0 in FP32 though s_b is not 0, the quotient of a finite
value has no value, and its code is a free one within the clamp. -/
def kv4Block (sp : Nat) (vs : List Nat) : Nat × List Nat × Bool :=
  if vs.any isNan then (0x7F, vs.map (fun _ => 0), false)
  else
    let t := fdiv (amax vs) (fmul (natF32 7) sp)
    if amax vs = 0 then (0, vs.map (fun _ => 0), false)
    else
      let sb := match fFP32.decode t with
        | .fin _ m e => let c := fE4M3.roundMag .up m e; if c > fE4M3.maxCode then fE4M3.maxCode else c
        | _ => fE4M3.maxCode
      let past := flt (natF32 448) t
      let s := match fE4M3.decode sb with
        | .fin _ m e => fmul (toF32 false m e) sp
        | _ => nan32
      let qs := vs.map (fun v =>
        match fFP32.decode v, fFP32.decode s with
        | .fin x m e, .fin _ n g =>
          if sb = 0 then 0
          else if n = 0 then (Config.kv4Quotient v sp % 15 + 9) % 16
          else
            let q := rneRatio m e n g
            let q := if q > 7 then 7 else q
            if x then (16 - q) % 16 else q
        | .inf x, _ => if x then 9 else 7
        | _, _ => 0)
      (sb, qs, past)

/-- Sub-byte codes of n bits packed as one little-endian bit string (R79). -/
def packBits (n : Nat) (cs : List Nat) : Nat := cs.foldr (fun c acc => acc * 2 ^ n + c % 2 ^ n) 0

/-- Phase of a rotary angle: the low 32 bits of p × f (R90). -/
def rotaryPhase (p f : Nat) : Nat := p * f % 2 ^ 32

/-- The exact value of a finite code; none for a NaN or an infinity. -/
def Fmt.dy (f : Fmt) (c : Nat) : Option Dy :=
  match f.decode c with
  | .fin s m e => some (Dy.of s m e)
  | _ => none

/-- FP32 code of an element code, exactly. -/
def Fmt.to32 (f : Fmt) (c : Nat) : Nat :=
  match f.decode c with
  | .nan => nan32
  | .inf s => fFP32.signed s posInf
  | .fin s m e => toF32 s m e

end Sys2Proof.Machine
end

