-- ==== Sys2Proof/Machine/VecAlu.lean ====
section
/-! DEFINITION. The vector functions of both engines (R89): exp, log, reciprocal, reciprocal square root, sin, cos. The
manual fixes each result to within 2 units in the last place and no further: the words within that bound are computed
here, and which of them is returned is a free value of the function and its operand, the same on both engines. -/

namespace Sys2Proof.Machine

/-- The vector functions of R89. -/
inductive VecFn where
  | exp | log | recip | rsqrt | sin | cos
  deriving DecidableEq, Repr

/-- Number of a vector function, for its free choice. -/
def VecFn.num : VecFn → Nat
  | .exp => 0 | .log => 1 | .recip => 2 | .rsqrt => 3 | .sin => 4 | .cos => 5

/-- FP32 code of a place on the grid of magnitudes, counted from zero; negative places are negative words. -/
def gridCode (k : Int) : Nat :=
  let mag := if k.natAbs > 0x7F800000 then 0x7F800000 else k.natAbs
  if k < 0 then 2 ^ 31 + mag else mag

/-- The number at a place on the grid; past the largest finite word the grid goes on (its word is infinity). -/
def gridVal (k : Int) : Dy :=
  let n := k.natAbs
  let ex : Nat := n / 2 ^ 23
  let man : Nat := n % 2 ^ 23
  let m : Nat := if ex = 0 then man else 2 ^ 23 + man
  Dy.of (k < 0) m (if ex = 0 then -149 else (ex : Int) - 150)

/-- a ≤ b, exactly. -/
def Dy.le (a b : Dy) : Bool := decide ((a.add ⟨-b.m, b.e⟩).m ≤ 0)

/-- |a|. -/
def Dy.abs (a : Dy) : Dy := ⟨(a.m.natAbs : Int), a.e⟩

/-- The FP32 words within 2 units in the last place of ± m × 2^e (R89). -/
def near2 (neg : Bool) (m : Nat) (e : Int) : List Nat :=
  let c := fFP32.roundMag (.draw 0) m e
  let k : Int := (m.log2 : Int) + e
  let u : Int := (if m = 0 || k < -126 then -126 else k) - 23
  let c := if c > 0x7F800000 then 0x7F800000 else c
  let v := Dy.of false m e
  let places := ((upto 8).map (fun (i : Nat) => (c : Int) + i - 4)).filter (fun k =>
    Dy.le ((gridVal k).add ⟨-v.m, v.e⟩).abs ⟨2, u⟩)
  if places.isEmpty then [fFP32.signed neg 0x7F800000]
  else places.map (fun k => gridCode (if neg then -k else k))

/-- The word returned: a free choice among those the bound allows. -/
def vecPick (f : VecFn) (a : Nat) (ws : List Nat) : Nat := ws.getD (Config.ulpChoice f.num a % ws.length) (ws.headD 0)

/-- Bits behind the point of the fixed-point numbers below. -/
def fixBits : Nat := 192

/-- ln 2 and π/2 as fixed-point numbers. -/
def fixLn2 : Nat := 4350955369971217654477563090224794165364344896676135745069
def fixHalfPi : Nat := 9860048348863269281198066682114134445731725432595044866280

/-- The sum of x^n / n! in fixed point, n terms left, from `term` = x^k / k!. -/
def fixExp (x : Nat) : Nat → Nat → Nat → Nat → Nat
  | 0, _, _, acc => acc
  | n + 1, k, term, acc => fixExp x n (k + 1) (term * x / 2 ^ fixBits / (k + 1)) (acc + term)

/-- exp. exp(−∞) is 0 (R175, R255). -/
def fexp (a : Nat) : Nat :=
  match fFP32.decode a with
  | .nan => nan32
  | .inf s => if s then 0 else posInf
  | .fin s m e =>
    if (m.log2 : Int) + e ≥ 8 then vecPick .exp a (if s then near2 false 1 (-400) else [posInf])
    else
      let x : Nat := m <<< (e + fixBits).toNat
      let X : Int := if s then -(x : Int) else x
      let k := X.fdiv fixLn2
      let y := fixExp (X - k * fixLn2).toNat 50 0 (2 ^ fixBits) 0
      vecPick .exp a (near2 false y (k - fixBits))

/-- The sum of z^(2n+1) / (2n+1) in fixed point. -/
def fixAtanh (zz : Nat) : Nat → Nat → Nat → Nat → Nat
  | 0, _, _, acc => acc
  | n + 1, k, pow, acc => fixAtanh zz n (k + 2) (pow * zz / 2 ^ fixBits) (acc + pow / k)

/-- Natural logarithm. -/
def flog (a : Nat) : Nat :=
  match fFP32.decode a with
  | .nan => nan32
  | .inf s => if s then nan32 else posInf
  | .fin s m e =>
    if m = 0 then negInf else if s then nan32
    else
      let L := m.log2
      let z := (m - 2 ^ L) * 2 ^ fixBits / (m + 2 ^ L)
      let y : Int := ((e + L) * fixLn2) + ((2 * fixAtanh (z * z / 2 ^ fixBits) 80 1 z 0 : Nat) : Int)
      vecPick .log a (near2 (y < 0) y.natAbs (-fixBits))

/-- Reciprocal. -/
def frecip (a : Nat) : Nat :=
  match fFP32.decode a with
  | .nan => nan32
  | .inf s => fFP32.signed s 0
  | .fin s m e =>
    if m = 0 then fFP32.signed s posInf
    else vecPick .recip a (near2 s (2 ^ fixBits / m) (-(fixBits : Int) - e))

/-- The integer square root of n, bit by bit from 2^b down. -/
def isqrt (n : Nat) : Nat → Nat → Nat
  | 0, r => r
  | b + 1, r => let t := r + 2 ^ b; isqrt n b (if t * t ≤ n then t else r)

/-- Reciprocal square root. -/
def frsqrt (a : Nat) : Nat :=
  match fFP32.decode a with
  | .nan => nan32
  | .inf s => if s then nan32 else 0
  | .fin s m e =>
    if m = 0 then fFP32.signed s posInf else if s then nan32
    else
      let odd := e % 2 ≠ 0
      let m := if odd then 2 * m else m
      let e := if odd then e - 1 else e
      vecPick .rsqrt a (near2 false (isqrt (2 ^ 384 / m) 193 0) (-192 - e / 2))

/-- The alternating sum of term × x² / ((k+1)(k+2)) … in fixed point. -/
def fixTrig (xx : Nat) : Nat → Nat → Int → Int → Int
  | 0, _, _, acc => acc
  | n + 1, k, term, acc =>
    fixTrig xx n (k + 2) (-(term * (xx : Int) / 2 ^ fixBits / ((k + 1) * (k + 2) : Nat))) (acc + term)

/-- sin or cos of phase × 2π / 2^32 (R90). -/
def ftrig (f : VecFn) (phase : Nat) : Nat :=
  let r : Nat := phase % 2 ^ 30
  let q : Nat := phase / 2 ^ 30 % 4
  let th : Nat := r * fixHalfPi / 2 ^ 30
  let xx : Nat := th * th / 2 ^ fixBits
  let sn := fixTrig xx 40 1 (th : Int) 0
  let cs := fixTrig xx 40 0 ((2 ^ fixBits : Nat) : Int) 0
  let k := if f = .cos then q + 1 else q
  let v : Int := if k % 4 = 0 then sn else if k % 4 = 1 then cs else if k % 4 = 2 then -sn else -cs
  vecPick f phase (near2 (v < 0) v.natAbs (-fixBits))

end Sys2Proof.Machine
end

