-- ==== Sys2Proof/Machine/Mac.lean ====
section
/-! DEFINITION. The MAC arrays (R80, R86, R87, Table 04.4): vectors in the operand formats of Table 04.3, exact group
sums, the FP32 accumulator, and the narrowing of results (R81, R94, R96). A vector carries the poison of its words
(R95, R127), a sum the number of NaNs made (R100). -/

namespace Sys2Proof.Machine

/-! ## Exact values -/

/-- Exact product (IEEE 754 for what is not finite). -/
def FVal.mul : FVal → FVal → FVal
  | .nan, _ => .nan
  | _, .nan => .nan
  | .inf x, .inf y => .inf (x != y)
  | .inf x, .fin y n _ => if n = 0 then .nan else .inf (x != y)
  | .fin x m _, .inf y => if m = 0 then .nan else .inf (x != y)
  | .fin x m e, .fin y n g => .fin (x != y) (m * n) (e + g)

/-- A finite value as a dyadic number; 0 for the others. -/
def FVal.dy : FVal → Dy
  | .fin s m e => Dy.of s m e
  | _ => ⟨0, 0⟩

/-- Exact sum of values. -/
def sumVal (xs : List FVal) : FVal :=
  let up := xs.contains (.inf false)
  let down := xs.contains (.inf true)
  if xs.contains .nan || (up && down) then .nan
  else if up then .inf false
  else if down then .inf true
  else
    let d := xs.foldl (fun (a : Dy) x => a.add x.dy) ⟨0, 0⟩
    .fin (decide (d.m < 0)) d.m.natAbs d.e

/-- FP32 code of a value, rounded once. -/
def FVal.to32 : FVal → Nat
  | .nan => nan32
  | .inf s => fFP32.signed s posInf
  | .fin s m e => toF32 s m e

/-- An FP32 word with the number of NaNs that arithmetic made of operands that were none (R100). -/
structure Num where
  v : Nat := 0
  nans : Nat := 0
  deriving DecidableEq, Repr

/-- The result of one FP32 operation on operands: a NaN none of them is counts. -/
def Num.op (before : Nat) (operands : List Nat) (r : Nat) : Num :=
  ⟨r, before + b2n (isNan r && !operands.any isNan)⟩

/-- Add a word. -/
def Num.add (a : Num) (b : Nat) : Num := Num.op a.nans [a.v, b] (fadd a.v b)

/-- Multiply by a word. -/
def Num.mul (a : Num) (b : Nat) : Num := Num.op a.nans [a.v, b] (fmul a.v b)

/-- Split a list into lists of n, the last one what is left. -/
def blocksOf {α : Type} (n : Nat) : Nat → List α → List (List α)
  | 0, _ => []
  | k + 1, l => if l.isEmpty then [] else l.take n :: blocksOf n k (l.drop n)

/-- Split into blocks of n. -/
def blocks {α : Type} (n : Nat) (l : List α) : List (List α) := blocksOf n l.length l

/-! ## Operand formats (Table 04.3) -/

/-- Bits of an element. -/
def fmtBits (f : Nat) : Nat :=
  if f = 1 || f = 0xB then 4 else if f = 9 || f = 0xA then 6 else if f = 4 || f = 5 then 16 else if f = 6 then 32 else 8

/-- Is a format MX-scaled. -/
def isMx (f : Nat) : Bool := 7 ≤ f && f ≤ 0xB

/-- The floating-point element format of a code; none for the integers. -/
def fmtOf (f : Nat) : Option Fmt :=
  if f = 2 || f = 7 then some fE4M3 else if f = 3 || f = 8 then some fE5M2 else if f = 4 then some fBF16
  else if f = 5 then some fFP16 else if f = 6 then some fFP32 else if f = 9 then some fE2M3
  else if f = 0xA then some fE3M2 else if f = 0xB then some fE2M1 else none

/-- The value of an integer code of w bits (R77). -/
def intVal (w c : Nat) : FVal := if bit c (w - 1) then .fin true (2 ^ w - c) 0 else .fin false c 0

/-- The value of an element, its block scale left aside (Table 04.1). -/
def elemVal (f c : Nat) : FVal := match fmtOf f with
  | some x => x.decode c
  | none => intVal (fmtBits f) c

/-- The value of an E8M0 scale byte (Table 04.1). -/
def scaleVal (e : Nat) : FVal := if e = 255 then .nan else .fin false 1 ((e : Int) - 127)

/-- One, exactly. -/
def oneVal : FVal := .fin false 1 0

/-- A vector in an operand format: element codes, MX scale bytes, and 0 or the detail of Table 05.7 that poisons it. -/
structure Vec where
  fmt : Nat := 6
  el : List Nat := []
  sc : List Nat := []
  bad : Nat := 0
  deriving DecidableEq, Repr

/-- The block scale of the k-th run of 32 elements (R80). -/
def Vec.scaleOf (v : Vec) (k : Nat) : FVal := if isMx v.fmt then scaleVal (v.sc.getD k 255) else oneVal

/-- The elements' values with their block scales (R80: a scale of 0xFF makes its block NaN). -/
def Vec.values (v : Vec) : List FVal := v.el.zipIdx.map (fun x => (elemVal v.fmt x.1).mul (v.scaleOf (x.2 / 32)))

/-- The elements as FP32 words. -/
def Vec.words (v : Vec) : List Nat := v.values.map FVal.to32

/-- Bytes that n elements of a format take, elements first and then MX scales (R79, R80). -/
def vecBytes (f n : Nat) : Nat := ceilDiv (n * fmtBits f) 8 + (if isMx f then ceilDiv n 32 else 0)

/-- The bytes of a vector. -/
def Vec.bytes (v : Vec) : List Byte :=
  toBytes (ceilDiv (v.el.length * fmtBits v.fmt) 8) (packBits (fmtBits v.fmt) v.el)
    ++ (if isMx v.fmt then v.sc.map (BitVec.ofNat 8) else [])

/-- Element codes of n bits out of packed bytes (R79). -/
def unpack (w n : Nat) (bs : List Byte) : List Nat :=
  let x := ofBytes bs
  (upto n).map (fun i => x / 2 ^ (w * i) % 2 ^ w)

/-- The vector of n elements that lies in bytes. -/
def Vec.ofBytes (f n : Nat) (bs : List Byte) (bad : Nat) : Vec :=
  let k := ceilDiv (n * fmtBits f) 8
  ⟨f, unpack (fmtBits f) n (bs.take k), if isMx f then ((bs.drop k).take (ceilDiv n 32)).map (·.toNat) else [], bad⟩

/-! ## Products and accumulation (R87) -/

/-- Exact group size by engine and operands (Table 04.4). -/
def macGroup (oven : Bool) (w a : Nat) : Nat :=
  if isMx w || isMx a then 32
  else if w = 4 || w = 5 || a = 4 || a = 5 then (if oven then 32 else 8)
  else if oven then 128 else 32

/-- One group: its products summed exactly, times the product of the block scales, rounded once. -/
def groupSum (ps : List (FVal × FVal)) (scale : FVal) : Num :=
  let r := ((sumVal (ps.map (fun p => p.1.mul p.2))).mul scale).to32
  ⟨r, b2n (isNan r && !(scale == .nan || ps.any (fun p => p.1 == .nan || p.2 == .nan)))⟩

/-- Elements lo to lo + n − 1 of a vector with their scales; lo a multiple of 32. -/
def Vec.slice (v : Vec) (lo n : Nat) : Vec :=
  { v with el := (v.el.drop lo).take n, sc := (v.sc.drop (lo / 32)).take (ceilDiv n 32) }

/-- Group sums added into the FP32 accumulator in ascending reduction index. -/
def macAcc (oven : Bool) (acc : Num) (w a : Vec) : Num :=
  let g := macGroup oven w.fmt a.fmt
  let ps := (w.el.map (elemVal w.fmt)).zip (a.el.map (elemVal a.fmt))
  (blocks g ps).zipIdx.foldl (fun acc b =>
    let k := b.2 * g / 32
    let s := groupSum b.1 ((w.scaleOf k).mul (a.scaleOf k))
    { acc.add s.v with nans := (acc.add s.v).nans + s.nans }) acc

/-- Elements of a lane's activation chunk, at most 8 KiB (Table 05.3). -/
def chunkElems (f : Nat) : Nat := 65536 / fmtBits f / 128 * 128

/-- A reduction: in a crumb unit chunk by chunk in ascending reduction index, the accumulator kept (R108); in an Oven
cluster in one run (R135). -/
def macDot (oven : Bool) (w a : Vec) : Num :=
  if oven then macAcc true {} w a
  else
    let n := chunkElems a.fmt
    (upto (ceilDiv a.el.length n)).foldl (fun acc k => macAcc false acc (w.slice (n * k) n) (a.slice (n * k) n)) {}

/-! ## Narrowing a result (R81, R94, R96) -/

/-- A word in an unscaled format, and whether it counts a saturation (Table 04.5). -/
def narrowTo (f : Nat) (keep : Bool) (md : Rnd) (a : Nat) : Nat × Bool :=
  if f = 6 then (a, false)
  else match fmtOf f with
    | some x => narrow x keep md a
    | none => narrowIntBy (fmtBits f) md a

/-- FP32 words as a vector of a format, and the saturations counted; `md i` rounds element i. -/
def narrowVec (f : Nat) (keep : Bool) (md : Nat → Rnd) (xs : List Nat) (bad : Nat) : Vec × Nat :=
  if isMx f then
    let bs := (blocks 32 xs).zipIdx.map (fun b => mxBlockBy ((fmtOf f).getD fE4M3) (fun i => md (32 * b.2 + i)) b.1)
    (⟨f, (bs.map (·.2)).flatten, bs.map (·.1), bad⟩, 0)
  else
    let ys := xs.zipIdx.map (fun x => narrowTo f keep (md x.2) x.1)
    (⟨f, ys.map (·.1), [], bad⟩, (ys.filter (·.2)).length)

/-- Round to nearest even. -/
def nearest : Nat → Rnd := fun _ => .near

end Sys2Proof.Machine
end

