-- ==== Sys2Proof/Machine/Attend.lean ====
section
/-! DEFINITION. Attention (07: R173–R177, R179–R181; R84, R88, R98): stored K and V vectors, scores, per-page partials
and their merge, key visibility. One definition serves both engines. -/

namespace Sys2Proof.Machine

/-- A stored K or V head vector (Table 04.2): format 0 KV4, 1 KV8, 2 KV16; elements, block scales, the page scale of
KV4, and 0 or the detail that poisons it. -/
structure StoredVec where
  fmt : Nat := 2
  el : List Nat := []
  sc : List Nat := []
  sp : Nat := 0
  bad : Nat := 0
  deriving DecidableEq, Repr

/-- Elements under one block scale (Table 04.2). -/
def storedBlock (f : Nat) : Nat := if f = 0 then 16 else 32

/-- The effective scale of a block as an FP32 word: s_b × s_p for KV4 (R84), 2^(e − 127) for KV8 (R174); a NaN scale
makes its block NaN. -/
def StoredVec.eff (v : StoredVec) (k : Nat) : Nat :=
  if v.fmt = 0 then fmul (fE4M3.to32 (v.sc.getD k 0x7F)) v.sp
  else if v.fmt = 1 then (scaleVal (v.sc.getD k 255)).to32
  else oneF32

/-- The value of an element code, its scales left aside: INT4, with −8 read as −8 (R84), E4M3 or BF16. -/
def storedVal (f c : Nat) : FVal := if f = 0 then intVal 4 c else if f = 1 then fE4M3.decode c else fBF16.decode c

/-- What an element reads as (R84, R98): exact in the value that its scales give, rounded where they are applied. -/
def StoredVec.words (v : StoredVec) : List Nat :=
  v.el.zipIdx.map (fun x => let w := (storedVal v.fmt x.1).to32
    if v.fmt = 2 then w else fmul w (v.eff (x.2 / storedBlock v.fmt)))

/-- The score of a query vector with a stored K vector, before scaling (R174). -/
def rawScore (oven : Bool) (x : Vec) (k : StoredVec) : Num :=
  if k.fmt = 2 then macDot oven { fmt := 4, el := k.el } x
  else
    let ps := (k.el.map (storedVal k.fmt)).zip x.values
    (blocks (storedBlock k.fmt) ps).zipIdx.foldl (fun acc b =>
      let g := groupSum b.1 oneVal
      let t := g.mul (k.eff b.2)
      { acc.add t.v with nans := (acc.add t.v).nans + t.nans }) {}

/-- The constants of an attention record (R179): softmax scale, soft-cap, window. -/
structure AttConst where
  c : Nat
  cap : Nat
  window : Nat
  deriving DecidableEq, Repr

/-- Scaling and soft-cap of a score (R174). -/
def scaleScore (a : AttConst) (soft : Bool) (s : Num) : Num :=
  let s := s.mul a.c
  if soft then
    (let q := Num.op s.nans [s.v, a.cap] (fdiv s.v a.cap)
     (Num.op q.nans [q.v] (Config.actF32 2 q.v % 2 ^ 32)).mul a.cap)
  else s

/-- Is a key at k visible to a query at q (Table 07.7). -/
def visible (mode window q k qSeg kSeg : Nat) : Bool :=
  qSeg == kSeg && (mode == 2 || (k ≤ q && (mode == 0 || q < k + window)))

/-- A token of a page, for one KV head: position, segment, K and V. -/
structure KvTok where
  pos : Nat
  seg : Nat
  k : StoredVec
  v : StoredVec
  deriving DecidableEq, Repr

/-- The greater of two words; a NaN propagates (R95). -/
def fmax (a b : Nat) : Nat := if isNan a || isNan b then nan32 else if flt a b then b else a

/-- What ATT_SCORE leaves for one query, head and page (R175): m_P, l_P and p_t, 0 for a masked token. -/
structure PageProbs where
  index : Nat
  m : Nat
  l : Nat
  ps : List Nat
  seen : List Bool
  nans : Nat
  bad : Nat
  deriving DecidableEq, Repr

/-- The first poison detail of a list. -/
def firstBad (ds : List Nat) : Nat := (ds.find? (· != 0)).getD 0

/-- Scores and probabilities of one page (R174, R175). -/
def pageScores (oven : Bool) (a : AttConst) (soft : Bool) (see : KvTok → Bool) (x : Vec) (index : Nat)
    (ts : List KvTok) : PageProbs :=
  let ss := ts.map (fun t => if see t then scaleScore a soft (rawScore oven x t.k) else ⟨negInf, 0⟩)
  let m := ss.foldl (fun m s => fmax m s.v) negInf
  let ps := (ts.zip ss).map (fun y => if see y.1 && m != negInf then fexp (fsub y.2.v m) else 0)
  let l := ps.foldl (fun (acc : Num) p => acc.add p) {}
  ⟨index, m, l.v, ps, ts.map see, (ss.map (·.nans)).sum + l.nans,
    firstBad (x.bad :: (ts.filter see).map (fun t => t.k.bad))⟩

/-- o_P (R176): w = p × s rounded to FP32, each product exact, groups of 16 tokens of the page (for KV16 those of
Table 04.4) rounded once and added in ascending position. A masked token takes no part. -/
def pageValues (oven : Bool) (dim : Nat) (pp : PageProbs) (ts : List KvTok) : List Num :=
  (upto dim).map (fun d =>
    let ps := (ts.zip (pp.ps.zip pp.seen)).map (fun y =>
      let v := y.1.v
      if y.2.2 then
        (let w := if v.fmt = 2 then y.2.1 else fmul y.2.1 (v.eff (d / storedBlock v.fmt))
         (fFP32.decode w, storedVal v.fmt (v.el.getD d 0)))
      else (FVal.fin false 0 0, FVal.fin false 0 0))
    let g := match ts.head? with
      | some t => if t.v.fmt = 2 then macGroup oven 4 2 else 16
      | none => 16
    (blocks g ps).foldl (fun acc b =>
      let s := groupSum b oneVal
      { acc.add s.v with nans := (acc.add s.v).nans + s.nans }) {})

/-- The merge of page partials in ascending page index (R175). -/
def mergePages (dim : Nat) (parts : List (PageProbs × List Num)) : List Num :=
  let z : Nat × Num × List Num := (negInf, {}, (upto dim).map (fun _ => {}))
  let (_, l, o) := parts.foldl (fun (acc : Nat × Num × List Num) y =>
    let (m, l, o) := acc
    if y.1.m = negInf then acc
    else
      let n := fmax m y.1.m
      let a := fexp (fsub m n)
      let b := fexp (fsub y.1.m n)
      let mix := fun (u v : Num) =>
        let p := u.mul a
        let q := v.mul b
        { p.add q.v with nans := (p.add q.v).nans + q.nans }
      (n, mix l ⟨y.1.l, 0⟩, (o.zip y.2).map (fun z => mix z.1 z.2))) z
  o.map (fun x => if l.v % 2 ^ 31 = 0 then {} else x.mul (frecip l.v))

/-- The lane pairs of head-pair mode: the query heads of each KV head in pairs, the last one half when G is odd
(R173). -/
def headPairs (heads perHead : Nat) : List (Nat × Option Nat) :=
  ((upto heads).map (fun g => (upto (ceilDiv perHead 2)).map (fun i =>
    (g * perHead + 2 * i, if 2 * i + 1 < perHead then some (g * perHead + 2 * i + 1) else none)))).flatten

/-- Both lanes of every head pair in turn; a half pair's second lane is discarded. -/
def overHeads {α : Type} (heads perHead : Nat) (f : Nat → α) : List α :=
  ((headPairs heads perHead).map (fun p => match p.2 with
    | some b => [f p.1, f b]
    | none => [f p.1])).flatten

end Sys2Proof.Machine
end

