-- ==== Sys2Proof/Machine/State.lean ====
section
/-! DEFINITION. The state of the block, as plain data: `Env` (register storage, LTIME, set-up closed), `Device`
(all else), and the queue of waiting commands. Each field names the rule that gives it. -/

namespace Sys2Proof.Machine

/-- Faults of the model. -/
inductive Fault where
  /-- Raised by WINDOW_READ and WINDOW_WRITE for an offset outside the 64 GiB window (R45): no such address. Safe. -/
  | outsideWindow
  deriving DecidableEq, Repr

/-- Refusals of the model. -/
inductive Refusal where
  /-- Raised by a dispatch arm whose command has no meaning yet. Safe. -/
  | notModelled (mnemonic : String)
  deriving DecidableEq, Repr

/-! ## Host attachment (02) -/

/-- What the device is doing as a whole (Tables 16.7, 17.4, 17.5; R386, R408, R433, R440). -/
inductive Mode where
  | off            -- PWR_GOOD low, or no start yet since it fell
  | held           -- RST_N low, units stopped
  | running        -- a start has completed
  | halting        -- steps 1 to 3 of Table 17.4, while the bake step in progress completes
  | halted         -- step 7 of Table 17.4
  | recovery       -- R390
  | idleAlert      -- LPDDR5X training failed (R440)
  | waitGood       -- fixed rail out of range (R433)
  deriving DecidableEq, Repr

/-- A submission ring (R23, R25, R29, R421). -/
structure SubRing where
  head : Nat := 0
  tail : Nat := 0
  bad : Bool := false
  enabled : Bool := false
  stopped : Bool := false
  deriving DecidableEq, Repr

/-- A completion waiting to be written, with the descriptor (sequence number) and request it ends (Table 02.8). -/
structure Completion where
  seq : Nat
  ring : Nat
  cookie : Nat
  request : Option Nat
  status : Nat
  reason : Nat
  detail : Nat
  result : Nat
  quality : Nat
  quiet : Bool
  deriving DecidableEq, Repr

/-- A device-produced ring (R23, R24, R28, R44): `pend` holds, oldest first, index and LTIME of pending entries. -/
structure DevRing where
  next : Nat := 0
  phase : Bool := true
  lastHead : Nat := 0
  bad : Bool := false
  enabled : Bool := false
  withheld : Bool := false
  pend : List (Nat × Nat) := []
  held : List Completion := []
  deriving DecidableEq, Repr

/-- An event as raised (Table 02.10, without the ring's dropped count and phase). -/
structure Event where
  code : Nat
  ltime : Nat
  payA : Nat
  payB : Nat
  deriving DecidableEq, Repr

/-- A fetched descriptor: ring, or none for the resync doorbell (R47); sequence number; the eight qwords (R35). -/
structure Fetched where
  ring : Option Nat
  seq : Nat
  q : List Nat
  deriving DecidableEq, Repr

/-- A descriptor in flight: fetched, its completion not yet written (R30, R31, R34). -/
structure InFlight where
  seq : Nat
  ring : Nat
  cookie : Nat
  op : Nat
  quiet : Bool
  started : Bool
  deriving DecidableEq, Repr

/-- What the device last answered to a host read. -/
structure Answer where
  data : List Byte := []
  poison : Bool := false
  deriving DecidableEq, Repr

/-- Host interface registers and links (R21, R44, R418, R437, Table 18.3). -/
structure HostIf where
  linkUp : Bool := true
  modules : Nat := 0
  rate : Nat := 0
  enableRefused : Bool := false
  refusal : Nat := 0
  offender : Nat := 0
  winDrops : Nat := 0
  answer : Answer := {}
  msixTable : Tbl Nat := []          -- vector control dwords that differ from the reset mask; address and data words
  msixPending : List Nat := []
  msixSent : Tbl Nat := []
  i3cAddr : Option Nat := none
  mailbox : List Nat := []           -- opcode and answer of the last mailbox command
  dropped : Nat := 0                 -- events dropped since the last event entry
  heldEvents : List Event := []      -- R422
  deriving DecidableEq, Repr

/-! ## Requests (03, 10, 12) -/

/-- Request states (Table 03.2). -/
inductive ReqState where
  | free | admitted | intake | prefill | rebuild | ready | seated | waitPage | waitFetch | done | failed
  deriving DecidableEq, Repr

/-- A sampling block with its lists (Table 10.1, R253). FP32 values are codes. -/
structure Sampling where
  seed : Nat := 0
  temperature : Nat := 0x3F800000
  topK : Nat := 0
  ignoreEos : Bool := false
  scopeLog : Bool := false
  topP : Nat := 0x3F800000
  minP : Nat := 0
  repetition : Nat := 0x3F800000
  frequency : Nat := 0
  presence : Nat := 0
  window : Nat := 0
  draftMax : Nat := 0xFF
  bias : List (Nat × Nat) := []
  stops : List (List Byte) := []
  deriving DecidableEq, Repr

/-- One part of an input in span order: a text run (R301) or the token words of a span of type 2 or 3. -/
inductive Part where
  | text (tool : Bool) (bytes : List Byte)
  | words (ws : List Nat)
  deriving DecidableEq, Repr

/-- A token stream record as formed (Table 02.12): its index and phase are given when it is written (R378). -/
structure StreamRec where
  ring : Nat
  request : Nat
  cookie : Nat
  type : Nat
  last : Bool
  position : Nat
  tokens : Nat
  payload : List Byte
  deriving DecidableEq, Repr

/-- The Mill's output side for a request (R311–R314, R43). A byte carries the number of tokens that end with it. -/
structure OutText where
  held : List (Byte × Nat) := []       -- incomplete character
  withheld : List (Byte × Nat) := []   -- may begin a stop string
  cur : List Byte := []                -- payload of the record being formed
  curTokens : Nat := 0
  counted : Nat := 0                   -- tokens counted in earlier records
  since : Option Nat := none           -- LTIME of the record's oldest byte
  finished : Bool := false             -- the record with end set has been formed
  deriving DecidableEq, Repr

/-- Sampler state of a context (Table 10.2). -/
structure SamplerState where
  seed : Nat := 0
  draft : Nat := 0
  draftMax : Nat := 0
  stepsAtZero : Nat := 0
  drafted : Nat := 0
  accepted : Nat := 0
  lastToken : Nat := 0
  deriving DecidableEq, Repr

/-- Grammar area of a context (Table 12.7) with its stack (R318), bottom first. -/
structure GrammarState where
  handle : Nat := 0
  active : Bool := false
  state : Nat := 0
  stack : List Nat := []
  key : Nat := 0
  steps : Nat := 0
  deriving DecidableEq, Repr

/-- What admission changes of a resident context, as it was: a refusal after admission puts it back (R39, R58). -/
structure Standing where
  parked : Bool
  cls : Nat
  tenant : Nat
  fallbacks : List Nat
  sampler : SamplerState
  grammar : GrammarState
  deriving DecidableEq, Repr

/-- A request entry (Table 03.1) and the units' working state for it. -/
structure Request where
  state : ReqState := .free
  pin : Bool := false
  tokenMode : Bool := false
  ctxValid : Bool := false
  tenant : Nat := 0
  priority : Nat := 0
  recipe : Nat := 0
  cookie : Nat := 0
  session : Nat := 0
  context : Nat := 0
  sq : Nat := 0
  stream : Nat := 0
  deadline : Nat := 0
  admitted : Nat := 0
  adapter : Nat := 0
  version : Nat := 0
  grammar : Nat := 0
  epoch : Nat := 0
  incarnation : Nat := 0
  newLimit : Nat := 0
  logged : Nat := 0
  target : Nat := 0
  oven : Nat := 0
  endStatus : Nat := 0
  reason : Nat := 0
  detail : Nat := 0
  -- working state
  seq : Nat := 0                        -- its descriptor
  order : Nat := 0                      -- admission order
  desc : List Nat := []                 -- its descriptor's qwords
  bound : Bool := false                 -- standing found (R56)
  parts : List Part := []               -- input still to be tokenised or staged
  textLeft : Nat := 0                   -- bytes of text left to take in (R302)
  staged : List Nat := []               -- token words staged (R57)
  sampling : Sampling := {}
  stopSlot : Bool := false              -- R312
  out : OutText := {}
  genStart : Nat := 0                   -- log position of the first generated token
  baseLog : Nat := 0                    -- log length before commit
  lastToken : Nat := 0                  -- LTIME of the last token, or of entry into READY (R195)
  since : Nat := 0                      -- LTIME of entry into the present state
  waitFrom : Option Nat := none         -- start of a frame wait (R63)
  waitKind : Nat := 0                   -- detail of R186 for that wait
  pressure : Bool := false              -- CONTEXT_PRESSURE raised for this wait (R70)
  chunk : Option (Nat × Nat) := none    -- chunk posted or running
  slot : Bool := false                  -- holds a logits slot (R146)
  slotNo : Nat := 0                     -- which: slot n lies n MiB into the bench set (R423)
  kept : List Nat := []                 -- logits of L − 1 (R146)
  stop : Nat := 0                       -- reason of a met stop condition (R268)
  ending : Option (Nat × Nat) := none   -- status and detail to take at the next boundary
  pinRefused : Bool := false            -- R69
  noExtent : Bool := false              -- R279
  revivedMark : Bool := false           -- the revived flag is still to be set (Table 00.6)
  revivedDone : Bool := false
  draftNow : Nat := 0                   -- draft length of the step in progress
  firstFromKept : Bool := false         -- this step samples from kept logits (R59)
  reserved : Bool := false              -- holds a reservation of stagings (R189)
  postedAt : Nat := 0                   -- bake step number at which its chunk was posted (R240)
  prior : Option Standing := none       -- its resident context before it was bound
  deriving DecidableEq, Repr

/-- Directory area of a context (Table 11.2). -/
structure DirArea where
  slot : Nat := 0
  recordValid : Bool := false
  outgoing : Bool := false
  incoming : Bool := false
  phase : Nat := 0
  peer : Nat := 0
  epoch : Nat := 0
  sentV : Nat := 0
  pagesLeft : Nat := 0
  opened : Nat := 0
  deriving DecidableEq, Repr

/-- A page-list entry (Table 07.3), by layer and list index (page, ring slot or state slot). -/
structure Page where
  layer : Nat
  index : Nat
  frame : Nat            -- slot of the pool (tier 0), address / 4 KiB (tier 1), offset / 4 KiB (tier 2)
  shared : Bool
  tag : Nat
  format : Nat
  node : Nat
  tier : Nat
  first : Nat            -- first position of its current contents (Table 07.2)
  block : Nat            -- prefix index entry of a shared page
  moving : Bool          -- owned by a move record (R223)
  bad : Bool := false    -- moved with poisoned words (R230)
  deriving DecidableEq, Repr

/-- A context entry (Table 03.3) with its page lists. -/
structure Context where
  session : Nat := 0
  held : Bool := false
  pinned : Bool := false
  parked : Bool := false
  live : Bool := false
  recipe : Nat := 0
  adapter : Nat := 0
  version : Nat := 0
  request : Nat := 0
  cls : Nat := 0
  tenant : Nat := 0
  logBase : Nat := 0
  logLength : Nat := 0
  valid : Nat := 0
  prefixLen : Nat := 0
  lastUse : Nat := 0
  lastProgress : Nat := 0
  fallbacks : List Nat := [0, 0, 0, 0]   -- SHADOW, SKIP, NEXT_EXPERT, STALL
  pages : List Page := []
  sampler : SamplerState := {}
  grammar : GrammarState := {}
  dir : DirArea := {}
  incarnation : Nat := 0
  demoting : Bool := false               -- its record write is not complete (R68)
  noRecord : Bool := false               -- demoted without a record
  stateSlot : Nat := 0                   -- the current slot of its recurrent-state layers (R119)
  demoteDue : Bool := false              -- a PARK with demote now waits for the live request (R284)
  deriving DecidableEq, Repr

/-- A prefix index entry (Table 11.3) with its block's pages. -/
structure PrefixEntry where
  hash : Nat
  prior : Nat
  first : Bool
  recipe : Nat
  format : Nat
  refcount : Nat
  followers : Nat
  lastMatched : Nat
  localPresent : Nat
  pages : List Page
  adapter : Nat
  version : Nat
  scope : Nat
  gone : Bool := false      -- removed for a poisoned page, its frames held until no list names them (R128)
  deriving DecidableEq, Repr

/-! ## The Kneader (08) -/

/-- A tenant: policy, deficits, budget use, and its accounting record (R199–R204, Table 08.6). -/
structure Tenant where
  weight : Nat := 1
  held : Bool := false
  budget : Nat := 0
  used : Nat := 0            -- tokens and positions of this period
  carry : Nat := 0           -- overdraft carried into this period
  seatDeficit : Int := 0
  ovenDeficit : Nat := 0
  tokens : Nat := 0
  positions : Nat := 0
  seatSteps : Nat := 0
  queueWait : Nat := 0
  frameWait : Nat := 0
  preemptions : Nat := 0
  jobRun : Nat := 0
  jobPreempted : Nat := 0
  overruns : Nat := 0
  deriving DecidableEq, Repr

/-- A change read since the last boundary (R14, R194). -/
inductive Change where
  | cancel (f : Fetched) (request incarnation : Nat)
  | park (f : Fetched) (request incarnation : Nat)
  | modify (f : Fetched) (request incarnation : Nat)
  | tenantSet (f : Fetched)
  deriving DecidableEq, Repr

/-- A node entry of a composition map (R291). -/
structure MapNode where
  node : Nat
  role : Nat
  state : Nat
  interactive : Nat
  bulk : Nat
  deriving DecidableEq, Repr

/-- A live epoch with its map (R292). -/
structure Epoch where
  num : Nat := 0
  threshold : Nat := 0
  nodes : List MapNode := []
  deriving DecidableEq, Repr

/-- Where an exclusive job stands (Tables 08.1, 08.2). -/
inductive JobState where
  | queued | taking | running | saving | saved
  deriving DecidableEq, Repr

/-- An exclusive job (R205–R214). `remaining` is the next slice in ns. -/
structure Job where
  seq : Nat
  ring : Nat
  cookie : Nat
  tenant : Nat
  recipe : Nat
  program : Nat
  slice : Nat
  argAddr : Nat
  argLen : Nat
  packed : Bool
  ready : Nat
  order : Nat
  state : JobState
  slot : Option Nat
  next : Nat
  saves : Nat
  remaining : Int
  sliceEnd : Nat
  began : Nat
  preempt : Bool
  revoked : Bool
  fault : Bool            -- its Recipe needs re-placement
  deriving DecidableEq, Repr

/-- A handoff in progress on this node (R294–R297, R366). -/
structure Handoff where
  session : Nat
  peer : Nat
  outgoing : Bool
  phase : Nat
  epoch : Nat
  opened : Nat
  step : Nat              -- the step of Table 11.4 reached
  mode : Nat              -- KV mode: 0 MOVE, 1 REMOTE, 2 DROP
  tally : Option Nat      -- index of the tally word taken at step 6
  since : Nat             -- LTIME of step 6
  tallyAddr : Nat         -- global address of the source's tally word
  seq : Nat               -- HANDOFF descriptor, 0 once completed
  deriving DecidableEq, Repr

/-- An Oven work item (R136). -/
inductive Item where
  | chunk (request start stop : Nat)
  | rows (seq positions : Nat) (records : List Nat)
  deriving DecidableEq, Repr

/-- An EMBED in flight: its row groups still to post and records still to write (R151, R152). -/
structure EmbedJob where
  seq : Nat
  ring : Nat
  cookie : Nat
  tenant : Nat
  priority : Nat
  recipe : Nat
  adapter : Nat
  version : Nat
  order : Nat
  admitted : Nat
  out : Nat
  parts : List Part          -- items whose text waits for the Mill
  textLeft : Nat
  tokens : List (List Nat)   -- each item's token words, with the control tokens its Recipe adds (R151)
  groups : List (Nat × List Nat)  -- positions and item numbers of each group to post
  left : Nat                 -- groups not yet ended
  postedAt : List Nat        -- bake step numbers at which its posted groups were posted
  items : Nat
  capacity : Nat
  packed : Bool
  deriving DecidableEq, Repr

/-- Scheduling state of the Kneader (08), its accumulators of events, and the demotions counter. -/
structure Kneader where
  seats : Tbl Nat := []              -- seat index to request
  decoding : Bool := false
  step : Nat := 0
  tenants : Tbl Tenant := []
  ovenPtr : Nat := 0
  credited : Bool := false
  changes : List Change := []
  older : Epoch := {}
  newer : Epoch := {}
  twoLive : Bool := false
  install : Option (Fetched × Epoch) := none
  installWait : List (Fetched × Epoch) := []  -- MAP_INSTALLs of other rings that wait behind it
  jobs : List Job := []
  released : Nat := 0                -- LTIME at which the chip was last released, or set-up closed (R206)
  withdrawn : Option Item := none
  handoffs : List Handoff := []
  handoffWait : List Fetched := []
  demotions : Nat := 0
  order : Nat := 0                   -- admissions made
  reclaimed : Nat := 0               -- R187
  reclaimedCtx : Nat := 0
  blocksDropped : Nat := 0
  unseated : Nat := 0
  waited : Nat := 0
  growTries : List Nat := []         -- requests in WAIT_PAGE, in order of need
  lost : List (Nat × Nat × Nat × Nat × Nat) := []   -- HANDOFF_REBUILD still to raise
  probesDue : List Nat := []         -- dead nodes to probe after a MAP_INSTALL (R363)
  workAt : Nat := 0                  -- LTIME at which the decode, or the job's record, in progress began (R125)
  budgetAt : Nat := 0                -- LTIME of the last budget period's end (R204)
  deriving DecidableEq, Repr

/-! ## Engines and memories (05, 06, 07, 09, 12, 13) -/

/-- Who holds a frame. -/
inductive Owner where
  | none
  | ctx (context : Nat)
  | block (entry : Nat)
  | stage (context layer index : Nat) (ready : Bool)
  deriving DecidableEq, Repr

/-- A frame of a KV pool: its owner, owner tag (R166), whether it is being zeroed, and a staging's last use. -/
structure Frame where
  owner : Owner := .none
  tag : Nat := 0
  zeroing : Bool := false
  lastUse : Nat := 0
  asked : Bool := false              -- the fabric READs of its staging are issued
  deriving DecidableEq, Repr

/-- A list frame (R167, R168, R286): whose it is, what it holds (0 directory, 1 level-1 list and 2 level-2 list of a global
layer, 3 ring list, 4 state list, 5 a part of a block's list), its layer and part, and whether it is being zeroed. -/
structure ListFrame where
  owner : Owner
  kind : Nat
  layer : Nat
  part : Nat
  zeroing : Bool
  deriving DecidableEq, Repr

/-- Error counts of a bank: LTIMEs of correctable errors in the window, rows with uncorrectable errors (R129). -/
structure BankErr where
  times : List Nat := []
  rows : List Nat := []
  deriving DecidableEq, Repr

/-- Loaf health (R126–R132, Tables 05.10, 05.12). Bank b of Slice s is numbered 2,048 s + b. -/
structure Health where
  generation : Nat := 0
  out : List Nat := []               -- banks not in the census
  soft : List Nat := []              -- softly retired, still in the census
  pending : List Nat := []           -- retirements not yet written to flash
  banks : Tbl BankErr := []
  corrected : Tbl Nat := []          -- per Slice since start
  badRows : Tbl Nat := []            -- per Slice since start
  sinceCe : Nat := 0
  sinceRows : List Nat := []         -- rows with uncorrectable errors since the last summary
  sinceBanks : Tbl Nat := []
  lastSummary : Nat := 0
  scrub : Tbl Nat := []              -- row pointer per bank
  crbSat : Nat := 0
  crbNan : Nat := 0
  ovnSat : Nat := 0
  ovnNan : Nat := 0
  deriving DecidableEq, Repr

/-- A region of the seat store: the vector it holds for a lane slot of a request (position 0 to k of the main program, or
round of the draft program), the attention partials that ATT_SCORE leaves by query head, and the tag of the result that
wrote it: operation and pair (R114, R120, R122). -/
structure SeatVec where
  request : Nat
  slot : Nat
  region : Nat
  vec : Vec
  probs : List (List PageProbs)
  op : Nat
  pair : Nat
  deriving DecidableEq, Repr

/-- A scoreboard entry (R122): the operation's input beats are accepted and its results written for a pair. -/
structure Mark where
  op : Nat
  pair : Nat
  deriving DecidableEq, Repr

/-- What a crumb unit holds (Table 05.3): the current reduction chunk of each lane, scale beats, accumulator words of
each lane. -/
structure CrumbUnit where
  act : List (List Byte) := []
  scale : List Byte := []
  acc : List (List Nat) := []
  deriving DecidableEq, Repr

/-- A logits slot of the bench set in use by a step: its request, main position or drafted position, FP32 logits
(R117, R146), in slot `n`. -/
structure LogitsSlot where
  n : Nat
  request : Nat
  draft : Bool
  pos : Nat
  vals : List Nat
  bad : Nat
  deriving DecidableEq, Repr

/-- An entry of the chunk staging buffer: the token word, with its segment, the position, and the item it belongs to; none
at a padded position (R136, R151). -/
structure Staged where
  word : Nat
  pos : Nat
  item : Option Nat
  deriving DecidableEq, Repr

/-- The working stores of the engines (Tables 05.3, 06.1): seat store, scoreboard, crumb units by Slice × 1,024 + pair,
logits slots in use, chunk staging buffer by item, trays and accumulators of the item in the Oven. -/
structure Engine where
  seatStore : List SeatVec := []
  marks : List Mark := []
  units : Tbl CrumbUnit := []
  logits : List LogitsSlot := []
  staged : List (List Staged) := []
  tray : Memory := []
  deriving DecidableEq, Repr

/-- The Oven's queue and counters (R136, Table 06.6). -/
structure Oven where
  items : List Item := []            -- running first, then the posted one
  ended : Nat := 0                   -- items that have left the queue from its front
  recordCount : Nat := 0
  chunks : Nat := 0
  embeds : List EmbedJob := []
  deriving DecidableEq, Repr

/-- A stream table entry (Table 09.6). -/
structure StreamEntry where
  q0 : Nat
  q1 : Nat
  q2 : Nat
  q3 : Nat
  deriving DecidableEq, Repr

/-- A Recipe slot (R244–R247). -/
structure RecipeSlot where
  loaded : Bool
  replace : Bool
  info : RecipeInfo
  digest : Nat
  area : Nat                         -- its block in the Recipe area
  length : Nat
  mill : List Byte
  crumbRecords : Nat
  ovenRecords : Nat
  weights : List Byte                -- sections as written to the weight set and the program stores
  crumb : List Byte
  ovenCode : List Byte
  streams : List StreamEntry
  deriving DecidableEq, Repr

/-- An adapter slot: its Recipe slot, current version, and loaded versions with frames held (R270–R275). -/
structure AdapterSlot where
  recipe : Nat
  current : Option Nat
  versions : List (Nat × Nat)        -- version, frames
  data : List (Nat × List Byte)      -- version, its data in the adapter frames
  deriving DecidableEq, Repr

/-- A grammar handle: its Recipe slot, image in the Stencil store, draining (R315, R316). -/
structure Grammar where
  recipe : Nat
  image : List Byte
  draining : Bool
  deriving DecidableEq, Repr

/-- A reader that may have begun on a move's source before its commit (R226): the decode of a step, the Oven item in
progress (by the items ended before it), a staging read into a bench frame. -/
inductive Reader where
  | decode (step : Nat)
  | item (ended : Nat)
  | staging (frame : Nat)
  deriving DecidableEq, Repr

/-- A move record (R224, R225). `committed`: false copying, true waiting for the source's readers. -/
structure Move where
  kind : MoveKind
  obj : MoveObj
  who : List Requester
  dest : Nat
  destTier : Nat
  source : Nat                       -- source frame as the home entry named it
  sourceTier : Nat
  committed : Bool
  order : Nat
  node : Nat                         -- node and owner tag of a tier-2 source, for its RELEASE
  tag : Nat
  bad : Bool                         -- poisoned words were copied (R230)
  bench : Option Nat                 -- the bench-set bank through which it goes to a remote destination (R225, R230)
  readers : List Reader              -- in progress at the commit
  deriving DecidableEq, Repr

/-- A streamed tensor at run time: slot of its set, requesters that pin it, last use, and the decision of the
present step or item (R233–R235). -/
structure Residency where
  slot : Option Nat := none
  pins : List Requester := []
  lastUse : Nat := 0
  needAt : Option Nat := none
  lanes : List Nat := []
  oven : Bool := false
  late : Bool := false
  decided : Bool := false
  fell : Nat := 0                    -- the decision: 0 used, else the fallback applied (Table 09.7)
  bad : Bool := false                -- promoted with poisoned words (R230)
  deriving DecidableEq, Repr

/-- The Peel (09): moves, waiting moves, stream decisions and their events. -/
structure Peel where
  moves : Tbl Move := []
  waiting : List (MoveKind × MoveObj × Requester × Nat) := []
  order : Nat := 0
  peak : Nat := 0
  cancelled : Nat := 0
  resident : Tbl Residency := []     -- recipe × 65,536 + stream index
  decisions : Nat := 0               -- decisions logged (R240)
  firstDecision : Option (Nat × Nat × Nat × Bool) := none
  shadow : Nat := 0
  skip : Nat := 0
  nextExpert : Nat := 0
  lateStall : Nat := 0
  tier1 : List (Nat × Nat) := []     -- tier-1 blocks in use: address, length
  images : List (Nat × Nat) := []    -- images named to another node and not released: address, owner tag
  promoted : Nat := 0                -- KV promotions started since the boundary (R231)
  logBlocks : List (Nat × Nat) := [] -- log area blocks in use (R279)
  deriving DecidableEq, Repr

/-- The Mill and the Stencil (12). -/
structure Mill where
  replacements : Nat := 0
  lastServed : Nat := 0              -- admission order last served (R302)
  hits : Nat := 0
  misses : Nat := 0
  dead : Nat := 0
  cache : List (Nat × Nat × Bool) := []  -- mask cache, most recently used first (R321)
  deriving DecidableEq, Repr

/-- A SIFT or SIFT_UPDATE waiting for or holding a query context (R338). -/
structure Query where
  seq : Nat
  ring : Nat
  cookie : Nat
  order : Nat
  update : Bool
  q : List Nat
  handle : Nat
  ctx : Option Nat
  since : Nat
  block : List Byte                  -- query block, or update block, as read
  got : List (Nat × StageEnd × List Byte)  -- answers to its READs of vectors at other nodes, by global address
  deriving DecidableEq, Repr

/-- The Sifter (13). -/
structure Sifter where
  queries : List Query := []
  completed : Nat := 0
  sketches : Nat := 0
  deriving DecidableEq, Repr

/-! ## Pemos and the Proofer (14, 15) -/

/-- What a fabric operation serves. -/
inductive FabUser where
  | openHandoff (session : Nat)
  | logWrite (session : Nat)
  | logDone (session : Nat)
  | logFree (session : Nat)
  | kvSend (session : Nat)
  | tally (session : Nat)
  | release
  | move (m : Nat)
  | stage (context layer index : Nat)
  | vector (ctx : Nat)
  deriving DecidableEq, Repr

/-- An outstanding fabric operation (R357–R363). -/
structure FabOp where
  pkt : Pkt
  once : Bool
  issued : Nat
  last : Nat
  probed : Bool
  probedAt : Nat           -- LTIME of the last probe for it
  user : FabUser
  kind : Nat               -- traffic kind (Table 15.1)
  deriving DecidableEq, Repr

/-- A Pemos port (R347–R349, R355, Table 14.13) with its class queues (R369). -/
structure Port where
  state : Nat := 0
  lanes : Nat := 0
  replays : Nat := 0
  sinceUp : Nat := 0                 -- replays since the port last came up
  trainAt : Nat := 0                 -- LTIME at which its training last began
  corrected : Nat := 0
  uncorrectable : Nat := 0
  txSeq : Nat := 0
  rxSeq : Nat := 0
  nack : Bool := false
  unacked : List Pkt := []
  replay : List Pkt := []
  streak : Nat := 0                  -- replays of the oldest packet without acknowledgement
  credits : List Nat := [2048, 2048, 16384, 128]
  freed : List Nat := [0, 0, 0, 0]   -- credit to return, by channel
  mgmt : List Pkt := []
  queues : Tbl (List Pkt) := []
  credit : Tbl Int := []             -- shaper credit by class, in 1/1,000 byte
  creditAt : Nat := 0
  sent : Option Pkt := none          -- the packet last put on the wire
  wire : List Byte := []             -- its bytes, CRC included (Table 14.3)
  busyUntil : Nat := 0               -- in 1/100 ns
  guardHeld : Bool := false
  deriving DecidableEq, Repr

/-- An entry of the replay store (R360): attempt, result, LTIME of application. -/
structure ReplayEntry where
  src : Nat
  tag : Nat
  attempt : Nat
  result : Nat
  status : Nat
  at_ : Nat
  deriving DecidableEq, Repr

/-- Pemos (14). -/
structure Pemos where
  ports : Tbl Port := []
  alternate : List Nat := []         -- nodes whose route is on its alternate
  dead : List Nat := []
  ops : List FabOp := []
  waiting : List FabOp := []
  recent : List (Nat × Nat × Nat × Bool) := []   -- node, tag, LTIME of last attempt, once (R358)
  nextTag : Nat := 0
  store : List ReplayEntry := []
  applied : List (Nat × Nat) := []   -- (source, tag) bits of the applied map
  uncertain : Nat := 0
  served : Nat := 0
  expired : Nat := 0
  faultRecords : Nat := 0
  lastResponse : Option Pkt := none
  deriving DecidableEq, Repr

/-- The gate control and shaper of one outlet (R372–R376, Table 15.6). Bank entries are 32-bit words. -/
structure Gate where
  pending : Tbl Nat := []
  pendingLen : Nat := 0
  active : Tbl Nat := []
  activeLen : Nat := 0
  bankB : Bool := false
  armed : Bool := false
  error : Bool := false
  takeover : Nat := 0
  at_ : Nat := 0                     -- takeover instant X
  base : Nat := 0                    -- cycle base B
  holds : Nat := 0
  takeovers : Nat := 0
  deriving DecidableEq, Repr

/-- The Proofer (15): gates of outlets 0–8 and the host outlet's queue and credits. -/
structure Proofer where
  gates : Tbl Gate := []
  hostQueue : List StreamRec := []   -- in order of forming
  hostCredit : Tbl Int := []         -- in 1/1,000 byte
  hostCreditAt : Nat := 0
  deriving DecidableEq, Repr

/-! ## The Damper and Hearth (16, 17) -/

/-- The Damper, sensors and pins (17, Tables 17.10, 17.11). Domains 0–11 are Slices, 12 the logic die. -/
structure Damper where
  level : Nat := 0
  thermalFactor : Nat := 16
  tj : Nat := 0
  tjDomain : Nat := 0
  lastThermal : Option Nat := none
  heldLevel : Bool := false          -- a level change held by the 10-ms limit
  reported : Nat := 0                -- level last reported
  throttlePin : Bool := false
  warnPin : Bool := false
  throttleSince : Option Nat := none
  warnSince : Option Nat := none
  throttleAfter : Bool := false      -- the assertion was recognised after set-up closed
  warnAfter : Bool := false
  stuckLast : Tbl Nat := []          -- pin to LTIME of the last PWR_WARN_STUCK
  frozen : List Nat := []
  frozenAt : Tbl Nat := []
  pace : Tbl Nat := []
  paceMin : Nat := 0                 -- least logic 1-ms mean in the last 1 s
  supply : Tbl Nat := []             -- mV
  below : List Nat := []             -- domains whose pace is below the floor
  lastPace : Tbl Nat := []           -- LTIME of the last PACE_LOW
  heldPace : Tbl (Nat × Nat × Nat) := []
  pulses : Tbl Nat := []
  storm : List Nat := []             -- pins whose INPUT_STORM has been raised
  stormHeld : List Nat := []         -- raised at the close of set-up
  cause : Nat := 0
  haltPending : Option Nat := none   -- a frozen logic die halts at its thaw
  warnsDue : List (Nat × Bool) := [] -- PWR_WARNs to raise at step 6: live requests, flash write, at recognition
  soft : Bool := false               -- a soft start is due
  alert : Bool := false
  deriving DecidableEq, Repr

/-- The fuses (R380). Key slots: digest and revoked. -/
structure Fuses where
  unitId : Nat := 1
  grade : Nat := 0
  keys : List (Nat × Bool) := [(0, false), (0, false), (0, false), (0, false)]
  rollback : Nat := 0
  deriving DecidableEq, Repr

/-- A firmware bank in flash (Table 16.6). `outside`: programmed outside the device, with an image that its fuses'
keys sign. -/
structure Bank where
  state : Nat := 0xFF
  seq : Nat := 0
  length : Nat := 0
  image : List Byte := []
  outside : Bool := false
  deriving DecidableEq, Repr

/-- A flash write waiting or in progress (R382). -/
inductive FlashOp where
  | commit (f : Fetched) (bankB : Bool) (image : List Byte)
  | calibration (f : Fetched) (half : Bool) (set : List Byte)
  | settings (copy : Bool) (blob : List Byte)
  | census (bank : Nat)
  deriving DecidableEq, Repr

/-- Hearth (16): flash by regions (Table 16.1), what was booted, staging and pending writes. -/
structure Hearth where
  fuses : Fuses := {}
  bankA : Bank := {}
  bankB : Bank := {}
  settings0 : List Byte := []        -- empty: invalid
  settings1 : List Byte := []
  cal0 : List Byte := []
  cal1 : List Byte := []
  calSet : List Byte := []           -- the set in use since the start; empty: none
  census : List Nat := []            -- retirements recorded
  certificate : List Byte := []
  bootB : Bool := false
  version : Nat := 0
  bootHeader : List Byte := []       -- header and table of the booted image
  trial : Bool := false
  settingsApplied : Bool := false
  appliedBlob : List Byte := []
  migrationFailed : Bool := false
  migration : Option (Nat × Nat × Nat × Nat × Nat) := none   -- blob version, image version, cause, applied, dropped
  resyncMigration : Bool := false    -- the next RESYNC reports the failure
  granules : List Nat := []          -- 4 KiB granules staged since the last block at offset 0
  recoveryNext : Nat := 0
  recoveryImage : List Byte := []
  ops : List FlashOp := []           -- first one in progress
  stopped : Nat := 0
  grade : Nat := 0                   -- LPDDR5X grade in MT/s
  deriving DecidableEq, Repr

/-! ## The whole -/

/-- Register storage, LTIME, set-up closed. `regs` maps the BAR0 offset of a qword to its stored RW and RWL bits,
listing only qwords that have been written. -/
structure Env where
  regs : Tbl Nat := []
  now : Nat := 0
  closed : Bool := false
  deriving DecidableEq, Repr

/-- Everything else the manual gives the device. -/
structure Device where
  mode : Mode := .running
  host : Memory := []
  lp : Memory := []
  lpBad : List Nat := []             -- poisoned 32-byte units of LPDDR5X
  loaf : Memory := []
  jobMem : Memory := []              -- trays, accumulators and Sifter memory, at the offsets of Table 08.3
  hif : HostIf := {}
  sq : Tbl SubRing := []
  cq : Tbl DevRing := []
  ts : Tbl DevRing := []
  eq : DevRing := {}
  fetched : List Fetched := []
  inflight : List InFlight := []
  nextSeq : Nat := 1
  resync : List Fetched := []        -- RESYNC waiting for a boundary
  resyncDb : Option Nat := none      -- address kept from the resync doorbell
  reqs : Tbl Request := []
  fresh : Nat := 0                   -- request indices never used: from here up
  freed : List Nat := []             -- FREE again, least recently freed first
  ctxs : Tbl Context := []
  blocks : Tbl PrefixEntry := []
  kn : Kneader := {}
  recipes : Tbl RecipeSlot := []
  adapters : Tbl AdapterSlot := []
  grammars : Tbl Grammar := []
  frames : Tbl Frame := []
  lists : Tbl ListFrame := []        -- list frames by number: held, or being zeroed
  health : Health := {}
  oven : Oven := {}
  eng : Engine := {}
  peel : Peel := {}
  mill : Mill := {}
  sift : Sifter := {}
  pem : Pemos := {}
  prf : Proofer := {}
  dmp : Damper := {}
  hearth : Hearth := {}
  free : Nat := 0                    -- the counter of free values
  deriving DecidableEq, Repr

/-- The state: environment, device, waiting commands. -/
structure State where
  env : Env
  dev : Device
  pending : List Instr
  deriving DecidableEq, Repr

/-- The machine right after reset: every register at its Reset column, set-up open, LTIME 0, memories zero (R415),
flash erased, no command waiting. -/
def State.reset : State := { env := {}, dev := {}, pending := [] }

end Sys2Proof.Machine
end

