-- ==== Sys2Proof/Machine/RegMap.lean ====
section
/-! DEFINITION. The set-up register map (18, Table 18.2 and the field maps it names): which bits of which BAR0
qword are stored, their access code, reset value and range; reading and writing stored fields by R9 and R419. -/

namespace Sys2Proof.Machine

/-- A stored field: bits [hi:lo], RWL (else RW), reset value, least and greatest value, and step. -/
structure RField where
  hi : Nat
  lo : Nat
  locked : Bool
  reset : Nat
  min : Nat
  max : Nat
  step : Nat
  deriving DecidableEq, Repr

/-- An RWL field with a range. -/
def rwlR (hi lo reset min max : Nat) : RField := ⟨hi, lo, true, reset, min, max, 1⟩
/-- An RWL field that takes any value. -/
def rwl (hi lo reset : Nat) : RField := ⟨hi, lo, true, reset, 0, 2 ^ (hi + 1 - lo) - 1, 1⟩

/-- Is o one of n registers of a size from base on. -/
def inBlock (o base size n : Nat) : Bool := base ≤ o && o < base + size * n

/-- The moderation register of Table 18.4. -/
def modFields : List RField := [rwlR 8 0 1 1 256, rwl 35 16 0]

/-- The stored fields of the qword at BAR0 offset o (a multiple of 8). Gate banks, PRF_GATE_CTL and PRF_TAKEOVER
are held by the Proofer, not here. -/
def ringFields (o : Nat) : List RField :=
  if inBlock o 0x1000 16 256 then
    (if o % 16 = 0 then [rwl 63 12 0] else [rwlR 4 0 4 4 16, rwl 5 5 0, rwl 11 6 0, rwl 23 12 0])
  else if inBlock o 0x2000 32 64 then
    (if o % 32 = 0 then [rwl 63 12 0] else if o % 32 = 8 then [rwlR 4 0 6 6 20, rwl 15 5 0]
     else if o % 32 = 16 then modFields else [])
  else if inBlock o 0x2800 32 64 then
    (if o % 32 = 0 then [rwl 63 12 0] else if o % 32 = 8 then [rwlR 4 0 6 6 16, rwl 15 5 0, rwl 35 16 0]
     else if o % 32 = 16 then modFields else [])
  else if o = 0x3000 then [rwl 63 12 0]
  else if o = 0x3008 then [rwlR 4 0 8 8 16, rwl 15 5 0]
  else if o = 0x3010 then modFields
  else []

/-- HIF_ and KND_ registers outside the ring blocks (Tables 18.3, 08.7–08.9, 11.6, 11.7, 18.7). -/
def kndFields (o : Nat) : List RField :=
  if o = 0x10 then [rwl 10 0 0]
  else if o = 0x30 then [⟨10, 0, false, 578, 0, 2047, 1⟩]
  else if o = 0x10000 then [rwl 0 0 0, rwlR 15 8 16 1 255, rwlR 31 16 1000 1 65535, rwlR 41 32 1000 10 1000]
  else if o = 0x10008 then [rwl 12 0 0, rwlR 20 16 2 0 16, rwl 47 32 10000]
  else if o = 0x10010 then [rwl 17 0 0]
  else if o = 0x10018 then [rwlR 10 0 0 0 1151, rwl 26 16 1, rwlR 42 32 64 1 1152]
  else if o = 0x10020 then [rwlR 14 0 64 0 16384, rwl 15 15 0]
  else if o = 0x10028 then [rwlR 15 0 10000 1 60000]
  else if o = 0x10030 then [rwl 15 0 16384]
  else if o = 0x10038 then [rwl 9 0 0]
  else if o = 0x10040 then [rwl 11 0 0]
  else []

/-- LOAF_, CRB_, OVN_, PEL_, MIL_, STN_, SFT_ registers (Tables 18.5, 09.15–09.18, 05.11, 06.5, 18.6, 12.8, 12.10,
13.7, 13.8). -/
def engineFields (o : Nat) : List RField :=
  if inBlock o 0x20000 8 32 then [rwl 3 0 0, rwl 13 4 0, rwlR 24 14 0 0 1024]
  else if o = 0x20100 then [rwlR 20 0 16384 1024 1048576]
  else if o = 0x20108 then [rwl 23 0 0]
  else if o = 0x30060 then
    [rwlR 31 0 1024 1 4294967295, rwlR 35 32 2 1 15, rwlR 47 36 60 1 3600, rwlR 55 48 10 1 100]
  else if o = 0x40000 then [⟨13, 0, true, 8192, 256, 8192, 256⟩, rwlR 28 16 256 16 4096, rwl 32 32 1]
  else if o = 0x50000 then [rwl 10 0 0, rwlR 26 16 0 0 1152, rwl 42 32 0, rwlR 58 48 0 0 1152]
  else if o = 0x50008 then [rwl 7 0 0, rwl 30 16 0, rwl 31 31 0]
  else if o = 0x50020 then [rwl 63 0 0]
  else if o = 0x50028 then [rwl 63 0 0xAAAAAAAA55555555]
  else if o = 0x60000 then [rwlR 16 0 65536 0 65536, rwl 52 32 0]
  else if o = 0x70000 then [rwlR 11 0 64 16 2048, rwlR 27 16 256 16 2048]
  else if o = 0x80000 then [rwl 10 0 0, rwlR 26 16 0 0 1152]
  else if o = 0x80008 then [rwlR 15 0 1000 1 65535]
  else []

/-- PMS_, PRF_, DMP_, HTH_ registers (Tables 14.9–14.12, 15.2–15.5, 17.7–17.9, 16.11). -/
def fabricFields (o : Nat) : List RField :=
  if o = 0x90000 then [rwl 5 0 0, rwl 15 8 0, rwlR 31 16 10000 10 65535]
  else if o = 0x90008 then [rwl 10 0 0, rwlR 26 16 0 0 1152, rwl 52 32 0]
  else if o = 0x90010 then [rwl 23 0 0]
  else if inBlock o 0x90100 8 64 then [rwl 2 0 0, rwl 3 3 0, rwl 5 4 0, rwl 8 6 0, rwl 9 9 0, rwl 11 10 0]
  else if o = 0xA0000 then [rwl 20 0 0x10AB9F]
  else if inBlock o 0xA0008 8 4 then [rwl 47 0 0]
  else if inBlock o 0xA1000 0x1000 9 then
    (let r := (o - 0xA1000) % 0x1000
     if r < 64 then [rwlR 16 0 0 0 100000, rwlR 47 32 64 1 65535]
     else if r = 64 then [rwl 7 0 0] else [])
  else if o = 0xB0000 then [rwl 15 0 510, rwl 31 16 380, rwl 47 32 160, rwl 63 48 150]
  else if o = 0xB0008 then
    [rwlR 10 0 1200 600 1200, rwlR 15 11 8 4 16, rwlR 22 16 95 60 100, rwlR 29 23 100 70 103, rwlR 41 32 100 1 1000]
  else if o = 0xB0010 then [rwl 15 0 1000, rwl 31 16 600]
  else if o = 0xC0020 then [rwl 14 0 0, rwl 15 15 0, rwl 39 16 0]
  else []

/-- The stored fields of a qword of BAR0. -/
def regFields (o : Nat) : List RField :=
  if o < 0x10000 then (if 0x1000 ≤ o then ringFields o else kndFields o)
  else if o < 0x20000 then kndFields o
  else if o < 0x90000 then engineFields o
  else fabricFields o

/-- The reset value of a qword's stored bits. -/
def regReset (o : Nat) : Nat := (regFields o).foldl (fun a f => a + f.reset * 2 ^ f.lo) 0

/-- The stored bits of a qword. -/
def regWord (e : Env) (o : Nat) : Nat := match tfind e.regs o with
  | some v => v
  | none => regReset o

/-- A stored field by its bits. -/
def reg (e : Env) (o hi lo : Nat) : Nat := bits (regWord e o) hi lo

/-- Is v in the field's stated range (R419). -/
def RField.ok (f : RField) (v : Nat) : Bool := f.min ≤ v && v ≤ f.max && v % f.step = 0

/-- A write of w to the bits [hi:lo] of one qword, field by field: a locked field ignores it after the close, an
out-of-range value leaves its field (R9, R419). A field lying only partly in the written bits is written where
they cover it. -/
def writeFields (closed : Bool) (lo hi w old : Nat) : List RField → Nat
  | [] => old
  | f :: fs =>
    let rest := writeFields closed lo hi w old fs
    if closed && f.locked then rest
    else if f.hi < lo || hi < f.lo then rest
    else
      let merged := (if lo = 0 && hi = 63 then w
        else if lo = 0 then (old / 2 ^ 32) * 2 ^ 32 + w % 2 ^ 32
        else (w % 2 ^ 32) * 2 ^ 32 + old % 2 ^ 32)
      let v := bits merged f.hi f.lo
      if f.ok v then setBits rest f.hi f.lo v else rest

/-- DMP_CTL keeps throttle above warn: when a write would break it both fields keep their values (R417). -/
def dmpGuard (old new : Nat) : Nat :=
  if bits new 29 23 > bits new 22 16 then new
  else setBits (setBits new 22 16 (bits old 22 16)) 29 23 (bits old 29 23)

/-- HIF_APERTURE: the directory range, or the Sifter range in the search configuration (R45, R424). -/
def chanGroup (e : Env) (c : Nat) : Nat :=
  bits (if c < 32 then regWord e 0x50020 else regWord e 0x50028) (2 * (c % 32) + 1) (2 * (c % 32))

/-- Channels in a group of PEL_CHAN_MAP. -/
def groupSize (e : Env) (g : Nat) : Nat := ((upto 64).filter (fun c => chanGroup e c == g)).length

/-- Bytes of a group's range (R424): 18,368 MiB of each channel. -/
def groupBytes (e : Env) (g : Nat) : Nat := groupSize e g * 18368 * 2 ^ 20

/-- Base and end of the stream (0), directory (1) and Sifter (2) ranges (R424). In the search configuration the
areas of the first two lie in the Sifter range. -/
def groupRange (e : Env) (g : Nat) : Nat × Nat :=
  let s := groupBytes e 0
  let d := groupBytes e 1
  let f := groupBytes e 2
  let base := 4 * 2 ^ 30
  if groupSize e 2 = 64 then (base, base + f)
  else if g = 0 then (base, base + s)
  else if g = 1 then (base + s, base + s + d)
  else (base + s + d, base + s + d + f)

/-- May the aperture start at this many GiB (R45). -/
def apertureOk (e : Env) (g : Nat) : Bool :=
  let (lo, hi) := groupRange e 1
  lo ≤ g * 2 ^ 30 && (g + 16) * 2 ^ 30 ≤ hi

/-- A write to a stored qword, over bits [hi:lo]. -/
def regStore (e : Env) (o lo hi w : Nat) : Env :=
  let old := regWord e o
  let new := writeFields e.closed lo hi w old (regFields o)
  let new := if o = 0xB0008 then dmpGuard old new else new
  let new := if o = 0x30 && !apertureOk e (bits new 10 0) then old else new
  if new = old then e else { e with regs := tset e.regs o new }

/-! ## Named settings -/

/-- Submission ring n: base, entries, privileged, bound completion ring, bound tenant (Table 18.4). -/
def sqBase (e : Env) (n : Nat) : Nat := regWord e (0x1000 + 16 * n)
def sqSize (e : Env) (n : Nat) : Nat := 2 ^ reg e (0x1008 + 16 * n) 4 0
def sqPriv (e : Env) (n : Nat) : Bool := bit (regWord e (0x1008 + 16 * n)) 5
def sqCq (e : Env) (n : Nat) : Nat := reg e (0x1008 + 16 * n) 11 6
def sqTenant (e : Env) (n : Nat) : Nat := reg e (0x1008 + 16 * n) 23 12
/-- The kinds of device-produced ring. -/
inductive RingKind where
  | cq | ts | eq
  deriving DecidableEq, Repr
def devOff (k : RingKind) (n : Nat) : Nat := match k with
  | .cq => 0x2000 + 32 * n
  | .ts => 0x2800 + 32 * n
  | .eq => 0x3000
def devBase (e : Env) (k : RingKind) (n : Nat) : Nat := regWord e (devOff k n)
def devSize (e : Env) (k : RingKind) (n : Nat) : Nat := 2 ^ reg e (devOff k n + 8) 4 0
def devVector (e : Env) (k : RingKind) (n : Nat) : Nat := reg e (devOff k n + 8) 15 5
def devCount (e : Env) (k : RingKind) (n : Nat) : Nat := reg e (devOff k n + 16) 8 0
def devTime (e : Env) (k : RingKind) (n : Nat) : Nat := reg e (devOff k n + 16) 35 16
def devEntry (k : RingKind) : Nat := match k with
  | .ts => 64
  | _ => 32
def tsHold (e : Env) (n : Nat) : Nat := reg e (devOff .ts n + 8) 35 16
def winBase (e : Env) : Nat := reg e 0x10 10 0 * 2 ^ 30
def aperture (e : Env) : Nat := reg e 0x30 10 0 * 2 ^ 30
def tokenBudgetMode (e : Env) : Bool := reg e 0x10000 0 0 == 1
def prefillQuantum (e : Env) : Nat := reg e 0x10000 15 8
def budgetPeriod (e : Env) : Nat := reg e 0x10000 31 16 * 1000000
def idleInterval (e : Env) : Nat := reg e 0x10000 41 32 * 1000
def saveBase (e : Env) : Nat := reg e 0x10008 12 0 * 2 ^ 28
def saveSlots (e : Env) : Nat := reg e 0x10008 20 16
def jobGap (e : Env) : Nat := reg e 0x10008 47 32 * 1000
def acctBase (e : Env) : Nat := reg e 0x10010 17 0 * 2 ^ 18
def dirBase (e : Env) : Nat := reg e 0x10018 10 0 * 2 ^ 30
def logArea (e : Env) : Nat := reg e 0x10018 26 16 * 2 ^ 30
def logSize (e : Env) : Nat := reg e 0x10018 42 32 * 2 ^ 30
def publishLimit (e : Env) : Nat := reg e 0x10020 14 0
def crossTenant (e : Env) : Bool := reg e 0x10020 15 15 == 1
def frameWaitMax (e : Env) : Nat := reg e 0x10028 15 0 * 1000000
def pinLimit (e : Env) : Nat := reg e 0x10030 15 0
def reqMirror (e : Env) : Nat := reg e 0x10038 9 0 * 2 ^ 26
def ctxMirror (e : Env) : Nat := reg e 0x10040 11 0 * 2 ^ 24
def tableRun (e : Env) (i : Nat) : Run :=
  let w := regWord e (0x20000 + 8 * i)
  ⟨bits w 3 0, bits w 13 4, bits w 24 14⟩
def benchRun (e : Env) (i : Nat) : Run := tableRun e (16 + i)
def listFrames (e : Env) : Nat := reg e 0x20100 20 0
def censusMap (e : Env) : Nat := reg e 0x20108 23 0 * 4096
def ceLimit (e : Env) : Nat := reg e 0x30060 31 0
def ueLimit (e : Env) : Nat := reg e 0x30060 35 32
def summaryInterval (e : Env) : Nat := reg e 0x30060 47 36 * 1000000000
/-- CRB_HANG_LIMIT, in ns. -/
def hangLimit (e : Env) : Nat := reg e 0x30060 55 48 * 1000000
def chunkLimit (e : Env) : Nat := reg e 0x40000 13 0
def logitsSlots (e : Env) : Nat := reg e 0x40000 28 16
def stochasticOn (e : Env) : Bool := reg e 0x40000 32 32 == 1
def recipeArea (e : Env) : Nat := reg e 0x50000 10 0 * 2 ^ 30
def recipeSize (e : Env) : Nat := reg e 0x50000 26 16 * 2 ^ 30
def tier1Base (e : Env) : Nat := reg e 0x50000 42 32 * 2 ^ 30
def tier1Size (e : Env) : Nat := reg e 0x50000 58 48 * 2 ^ 30
def promoteLimit (e : Env) : Nat := reg e 0x50008 7 0
def fallbackLog (e : Env) : Nat := reg e 0x50008 30 16 * 2 ^ 21
def fallbackOn (e : Env) : Bool := reg e 0x50008 31 31 == 1
def stopSlots (e : Env) : Nat := reg e 0x60000 16 0
def stopBase (e : Env) : Nat := reg e 0x60000 52 32 * 2 ^ 20
def millStore (e : Env) : Nat := reg e 0x70000 11 0 * 2 ^ 20
def stencilStore (e : Env) : Nat := reg e 0x70000 27 16 * 2 ^ 20
def siftBase (e : Env) : Nat := reg e 0x80000 10 0 * 2 ^ 30
def siftSize (e : Env) : Nat := reg e 0x80000 26 16 * 2 ^ 30
def queryLimit (e : Env) : Nat := reg e 0x80008 15 0 * 1000000
def nodeNumber (e : Env) : Nat := reg e 0x90000 5 0
def portEnabled (e : Env) (p : Nat) : Bool := bit (regWord e 0x90000) (8 + p)
def handoffLimit (e : Env) : Nat := reg e 0x90000 31 16 * 1000000
def exportBase (e : Env) : Nat := reg e 0x90008 10 0 * 2 ^ 30
def exportSize (e : Env) : Nat := reg e 0x90008 26 16 * 2 ^ 30
def tallyBase (e : Env) : Nat := reg e 0x90008 52 32 * 2 ^ 20
def faultLog (e : Env) : Nat := reg e 0x90010 23 0 * 4096
def routeWord (e : Env) (n : Nat) : Nat := regWord e (0x90100 + 8 * n)
def kindClass (e : Env) (k : Nat) : Nat := reg e 0xA0000 (3 * k + 2) (3 * k)
def hostClass (e : Env) (r : Nat) : Nat := reg e (0xA0008 + 8 * (r / 16)) (3 * (r % 16) + 2) (3 * (r % 16))
def shapeRate (e : Env) (p c : Nat) : Nat := reg e (0xA1000 + 0x1000 * p + 8 * c) 16 0
def shapeBurst (e : Env) (p c : Nat) : Nat := reg e (0xA1000 + 0x1000 * p + 8 * c) 47 32 * 64
def portOverhead (e : Env) (p : Nat) : Nat := reg e (0xA1040 + 0x1000 * p) 7 0
def damperShare (e : Env) (a : Nat) : Nat := reg e 0xB0000 (16 * a + 15) (16 * a)
def envelope (e : Env) : Nat := reg e 0xB0008 10 0
def throttleFraction (e : Env) : Nat := reg e 0xB0008 15 11
def warnAt (e : Env) : Nat := reg e 0xB0008 22 16
def throttleAt (e : Env) : Nat := reg e 0xB0008 29 23
def freezeLimitNs (e : Env) : Nat := reg e 0xB0008 41 32 * 1000000
def paceFloor (e : Env) (d : Nat) : Nat := if d = 12 then reg e 0xB0010 15 0 else reg e 0xB0010 31 16
def stageBase (e : Env) : Nat := reg e 0xC0020 14 0 * 2 ^ 26
def saveBlob (e : Env) : Bool := reg e 0xC0020 15 15 == 1
def calCopy (e : Env) : Nat := reg e 0xC0020 39 16 * 4096

end Sys2Proof.Machine
end

