-- ==== Sys2Proof/Machine/Rings.lean ====
section
/-! DEFINITION. The clock, host memory, rings, interrupts, events (02; R400, R422): the operations that every
command uses. An effect is a function of the environment and the device. -/

namespace Sys2Proof.Machine

/-! ## Clock -/

/-- LTIME at a command's moment: never backwards (R400). -/
def Env.tick (e : Env) (t : Nat) : Env := { e with now := sat lim64 (if e.now ≤ t then t else e.now) }

/-- A command that takes place at t and changes only the device. -/
def State.act (s : State) (t : Nat) (f : Env → Device → Device) : Host.Outcome State Fault Refusal :=
  .next { s with env := s.env.tick t, dev := f (s.env.tick t) s.dev }

/-- A command that takes place at t and changes the environment and the device. -/
def State.actEnv (s : State) (t : Nat) (f : Env → Device → Env × Device) : Host.Outcome State Fault Refusal :=
  let r := f (s.env.tick t) s.dev
  .next { s with env := r.1, dev := r.2 }

/-- An effect under a condition; nothing otherwise. -/
def Device.iff (d : Device) (c : Bool) (f : Device → Device) : Device := if c then f d else d

/-- The logic die is frozen (R401). -/
def Device.logicFrozen (d : Device) : Bool := d.dmp.frozen.contains 12

/-- The units may start work: a start has completed, set-up is closed, no halt, the logic die not frozen. -/
def Device.serving (d : Device) (e : Env) : Bool := e.closed && d.mode == .running && !d.logicFrozen

/-- The host interface answers: running, halted (R412 step 7) or recovery (R390). -/
def Device.hostUp (d : Device) : Bool :=
  d.mode == .running || d.mode == .halting || d.mode == .halted || d.mode == .recovery

/-- Counters read and advanced for free values (log 2). -/
def Device.draw (d : Device) : Nat × Device := (d.free, { d with free := d.free + 1 })

/-! ## Host memory -/

/-- A posted write to host memory (R20). -/
def Device.hostWrite (d : Device) (a : Nat) (bs : List Byte) : Device := { d with host := mwrites 0 d.host a bs }
/-- Bytes of host memory. -/
def Device.hostRead (d : Device) (a n : Nat) : List Byte := mreads 0 d.host a n
/-- A little-endian number of host memory. -/
def Device.hostNat (d : Device) (a n : Nat) : Nat := rd d.host a n

/-- The driver's stores that became visible before a doorbell (R26, log 4). -/
def Device.visible (d : Device) (v : List (Nat × Byte)) : Device :=
  { d with host := v.foldl (fun m c => mwrite 0 m (c.1 % 2 ^ 64) c.2) d.host }

/-! ## Rings -/

def Device.sqr (d : Device) (n : Nat) : SubRing := tget {} d.sq n
def Device.setSq (d : Device) (n : Nat) (r : SubRing) : Device := { d with sq := tset d.sq n r }

/-- A device-produced ring. -/
def Device.ring (d : Device) (k : RingKind) (n : Nat) : DevRing :=
  match k with
  | .cq => tget {} d.cq n
  | .ts => tget {} d.ts n
  | .eq => d.eq
def Device.setRing (d : Device) (k : RingKind) (n : Nat) (r : DevRing) : Device :=
  match k with
  | .cq => { d with cq := tset d.cq n r }
  | .ts => { d with ts := tset d.ts n r }
  | .eq => { d with eq := r }

/-- Entries pending: (tail − head) mod size (R23). -/
def DevRing.used (r : DevRing) (size : Nat) : Nat := (r.next + size - r.lastHead) % size
/-- Free entries: a ring holds at most size − 1 (R23). -/
def DevRing.free (r : DevRing) (size : Nat) : Nat := size - 1 - r.used size

/-- An entry with its phase bit, the last bit of the entry (R24). -/
def withPhase (p : Bool) (bs : List Byte) : List Byte :=
  bs.dropLast ++ [(bs.getLastD 0) % 128 + (if p then 128 else 0)]

/-! ## Interrupts (R44) -/

/-- Is a vector masked in the MSI-X table; masks are set at reset (log 6). -/
def Device.masked (d : Device) (v : Nat) : Bool := bit (tget 1 d.hif.msixTable (4 * v + 3)) 0

/-- A message on a vector: sent, or its pending bit set under a mask. -/
def Device.message (d : Device) (v : Nat) : Device :=
  if d.masked v then
    (if d.hif.msixPending.contains v then d
     else { d with hif := { d.hif with msixPending := v :: d.hif.msixPending } })
  else { d with hif := { d.hif with msixSent := tset d.hif.msixSent v (tget 0 d.hif.msixSent v + 1) } }

/-- A ring's message: it covers every entry pending at that moment, once it is sent. -/
def Device.interrupt (e : Env) (k : RingKind) (n : Nat) (d : Device) : Device :=
  let v := devVector e k n
  let d' := d.message v
  if d.masked v then d' else d'.setRing k n { d'.ring k n with pend := [] }

/-- Write one entry to a device-produced ring (R24, R27) and count it for interrupts. -/
def Device.putEntry (e : Env) (k : RingKind) (n : Nat) (bs : List Byte) (counted urgent : Bool) (d : Device) :
    Device :=
  let r := d.ring k n
  let size := devSize e k n
  let d := d.hostWrite (devBase e k n + devEntry k * r.next) (withPhase r.phase bs)
  let wrap := r.next + 1 == size
  let r' := { r with next := if wrap then 0 else r.next + 1, phase := if wrap then !r.phase else r.phase,
                     pend := if counted then r.pend ++ [(r.next, e.now)] else r.pend }
  let d := d.setRing k n r'
  if counted && (r'.pend.length ≥ devCount e k n || devTime e k n = 0 || urgent) then d.interrupt e k n else d

/-- Room to write an entry now: the link is up (R21), the ring enabled and not full. -/
def Device.canPut (e : Env) (k : RingKind) (n : Nat) (d : Device) : Bool :=
  d.hif.linkUp && (d.ring k n).enabled && (d.ring k n).free (devSize e k n) > 0

/-! ## Events (R40, R41, R422) -/

/-- The bytes of an event entry, phase aside (Table 02.10). -/
def Event.bytes (ev : Event) (dropped : Nat) : List Byte :=
  toBytes 8 (ev.code + dropped * 2 ^ 16) ++ toBytes 8 ev.ltime ++ toBytes 8 ev.payA ++ toBytes 8 (ev.payB % 2 ^ 63)

/-- Write an event, or drop and count it (R28, R21). -/
def Device.writeEvent (e : Env) (ev : Event) (d : Device) : Device :=
  if d.canPut e .eq 0 then
    let d' := d.putEntry e .eq 0 (ev.bytes d.hif.dropped) true false
    { d' with hif := { d'.hif with dropped := 0 } }
  else { d with hif := { d.hif with dropped := sat lim16 (d.hif.dropped + 1) } }

/-- Raise an event: written when the event ring is enabled, held up to 16 before that (R422). Nothing is raised
before the close of set-up. -/
def Device.raise (e : Env) (code payA payB : Nat) (d : Device) : Device :=
  let ev : Event := ⟨code, e.now, payA, payB⟩
  if !e.closed then d
  else if d.eq.enabled then d.writeEvent e ev
  else if d.hif.heldEvents.length < 16 then
    { d with hif := { d.hif with heldEvents := d.hif.heldEvents ++ [ev] } }
  else { d with hif := { d.hif with dropped := sat lim16 (d.hif.dropped + 1) } }

/-- Events held until the event ring is enabled, written in order (R422). -/
def Device.flushEvents (e : Env) (d : Device) : Device :=
  let evs := d.hif.heldEvents
  evs.foldl (fun d ev => d.writeEvent e ev) { d with hif := { d.hif with heldEvents := [] } }

/-! ## Interrupt covers and head doorbells -/

/-- A head doorbell's move: entries passed are free, and no longer pending (R44). A head that would pass the tail
sets bad doorbell (R25). -/
def Device.moveHead (e : Env) (k : RingKind) (n v : Nat) (d : Device) : Device :=
  let r := d.ring k n
  let size := devSize e k n
  if v ≥ size || (v + size - r.lastHead) % size > r.used size then d.setRing k n { r with bad := true }
  else
    let keep := fun (x : Nat × Nat) => (x.1 + size - v) % size < (r.next + size - v) % size
    d.setRing k n { r with lastHead := v, pend := r.pend.filter keep }

end Sys2Proof.Machine
end

