-- ==== Sys2Proof/Machine/Gates.lean ====
section
/-! DEFINITION. Gate lists and credit shaping of the Proofer's outlets (15: R372–R375), below the units that queue on
them. -/

namespace Sys2Proof.Machine

/-! ## Gate lists (R374, R375) -/

/-- A list of n entries of a bank: open mask and duration. -/
def gateList (bank : Tbl Nat) (n : Nat) : List (Nat × Nat) :=
  (upto n).map (fun i => let w := tget 0 bank i; (bits w 31 24, bits w 23 0))

/-- Cycle length C. -/
def cycleLen (l : List (Nat × Nat)) : Nat := (l.map (·.2)).sum

/-- The entry at an offset into the list: its mask, and how long it goes on. -/
def locate : Nat → List (Nat × Nat) → Nat × Nat
  | _, [] => (255, 0)
  | o, (m, d) :: r => if o < d then (m, d - o) else locate (o - d) r

/-- The mask open at t under a list whose cycle starts at b, and the time to the entry's end; none for a list that
never changes. -/
def maskAt (l : List (Nat × Nat)) (b t : Nat) : Nat × Option Nat :=
  let C := cycleLen l
  if C = 0 then (255, none) else (let x := locate ((t - b) % C) l; (x.1, some x.2))

def Gate.actives (g : Gate) : List (Nat × Nat) := gateList g.active g.activeLen
def Gate.pendings (g : Gate) : List (Nat × Nat) := gateList g.pending g.pendingLen

/-- The mask open at t, by the active list and, from its takeover instant on, an armed pending one. -/
def Gate.view (g : Gate) (t : Nat) : Nat × Option Nat :=
  if g.armed && g.at_ ≤ t then maskAt g.pendings g.at_ t
  else
    let (m, r) := maskAt g.actives g.base t
    if g.armed then
      (let k := g.at_ - t
       (m, some (match r with
         | none => k
         | some n => if n < k then n else k)))
    else (m, r)

/-- Is a class open at t. -/
def Gate.isOpen (g : Gate) (t c : Nat) : Bool := bit (g.view t).1 c

/-- Does a class stay open from t for `need` hundredths of a ns (R373)? -/
def Gate.openFor (g : Gate) (c : Nat) : Nat → Nat → Nat → Bool
  | 0, _, need => need == 0
  | fuel + 1, t, need =>
    let (m, r) := g.view t
    if !bit m c then false
    else match r with
      | none => true
      | some k => if need ≤ 100 * k then true else g.openFor c fuel (t + k) (need - 100 * k)

/-- Open time of a class in the first o ns of a list. -/
def openIn (c : Nat) : Nat → List (Nat × Nat) → Nat
  | _, [] => 0
  | o, (m, d) :: r => (if bit m c then (if o < d then o else d) else 0) + openIn c (o - d) r

/-- Open time of a class in [b, t) under a list whose cycle starts at b. -/
def openSince (l : List (Nat × Nat)) (b t c : Nat) : Nat :=
  let C := cycleLen l
  if C = 0 then t - b else (t - b) / C * openIn c C l + openIn c ((t - b) % C) l

/-- Open time of a class in [a, b). -/
def Gate.openBetween (g : Gate) (c a b : Nat) : Nat :=
  let act := fun (t : Nat) => openSince g.actives g.base t c
  if g.armed && g.at_ ≤ b then
    let x := if g.at_ < a then a else g.at_
    (act x - act a) + (openSince g.pendings g.at_ b c - openSince g.pendings g.at_ x c)
  else act b - act a

/-! ## Credit (R372), in 1/1,000 byte -/

/-- A class's credit after it grew for an open time: to the burst limit while it holds a packet, to 0 while not. -/
def grow (rate burst : Nat) (holds : Bool) (time : Nat) (c : Int) : Int :=
  let cap : Int := if holds then (burst * 1000 : Nat) else 0
  let c' := c + (rate * time : Nat)
  if c ≥ cap then c else if c' > cap then cap else c'

/-- All credits of an outlet brought up to now. -/
def settleCredit (e : Env) (p : Nat) (g : Gate) (holds : Nat → Bool) (since : Nat) (cr : Tbl Int) : Tbl Int :=
  (upto 8).foldl (fun cr c =>
    let rate := shapeRate e p c
    if rate = 0 then cr
    else tset cr c (grow rate (shapeBurst e p c) (holds c) (g.openBetween c since e.now) (tget 0 cr c))) cr

/-- May a class start by its credit. -/
def creditOk (e : Env) (p c : Nat) (cr : Tbl Int) : Bool := shapeRate e p c = 0 || decide (0 ≤ tget 0 cr c)

/-- The credit after a start of length n, the queue empty afterwards or not. -/
def chargeCredit (e : Env) (p c n : Nat) (empty : Bool) (cr : Tbl Int) : Tbl Int :=
  if shapeRate e p c = 0 then cr
  else
    let v := tget 0 cr c - (n * 1000 : Nat)
    tset cr c (if empty && decide (0 < v) then 0 else v)

def Device.gate (d : Device) (p : Nat) : Gate := tget {} d.prf.gates p
def Device.setGate (d : Device) (p : Nat) (g : Gate) : Device :=
  { d with prf := { d.prf with gates := tset d.prf.gates p g } }

def Device.port (d : Device) (p : Nat) : Port := tget {} d.pem.ports p
def Device.setPort (d : Device) (p : Nat) (x : Port) : Device :=
  { d with pem := { d.pem with ports := tset d.pem.ports p x } }
def Device.modPort (d : Device) (p : Nat) (f : Port → Port) : Device := d.setPort p (f (d.port p))

/-- The class of a record. -/
def recClass (e : Env) (r : StreamRec) : Nat := hostClass e r.ring

/-- Bring an outlet's credits up to now: before anything that changes what its classes hold or its gates. -/
def Device.settleOutlet (e : Env) (d : Device) (p : Nat) : Device :=
  let g := d.gate p
  if p = 8 then
    let q := d.prf.hostQueue
    let cr := settleCredit e 8 g (fun c => q.any (fun r => recClass e r == c)) d.prf.hostCreditAt d.prf.hostCredit
    { d with prf := { d.prf with hostCredit := cr, hostCreditAt := e.now } }
  else
    let x := d.port p
    let cr := settleCredit e p g (fun c => !(tget [] x.queues c).isEmpty) x.creditAt x.credit
    d.setPort p { x with credit := cr, creditAt := e.now }

end Sys2Proof.Machine
end

