-- ==== Sys2Proof/Machine/Pages.lean ====
section
/-! DEFINITION. KV pools, frames, page lists, shared prefixes (07; R285–R289), tier-1 blocks: the data of contexts
and the operations that take, fill and release their pages. -/

namespace Sys2Proof

open Machine

/-- Element width of a KV format code (Table 07.4). -/
def kvBits (f : Nat) : Nat := if f = 0 then 4 else if f = 1 then 8 else 16

/-- Element bytes E of a page (R158). -/
def PoolInfo.elemBytes (p : PoolInfo) : Nat :=
  if p.write ≥ 3 then p.stateBytes else p.tokens * p.heads * 2 * p.dim * kvBits p.write / 8

/-- Scale-record bytes S (R158). -/
def PoolInfo.scaleBytes (p : PoolInfo) : Nat :=
  if p.write = 0 then 256 * ceilDiv (128 + p.tokens * p.heads * 2 * p.dim / 16) 256
  else if p.write = 1 then 256 * ceilDiv (128 + p.tokens * p.heads * 2 * p.dim / 32) 256
  else 256

/-- Bytes of a slot, element area and scale record. -/
def PoolInfo.slotBytes (p : PoolInfo) : Nat := p.frame + p.scaleBytes

/-- Length of a frame's image outside the Loaf (R162). -/
def PoolInfo.imageBytes (p : PoolInfo) : Nat := roundUp p.slotBytes 4096

/-- Pairs in a list of runs. -/
def runPairs (rs : List Run) : Nat := (rs.map (·.count)).sum

/-- The i-th pair of a list of runs: Slice and pair. -/
def pairAt : List Run → Nat → Option (Nat × Nat)
  | [], _ => none
  | r :: rs, i => if i < r.count then some (r.slice, r.first + i) else pairAt rs (i - r.count)

/-- Slots of a pool: pairs × n. Slots are numbered pair by pair in run order. -/
def PoolInfo.total (p : PoolInfo) : Nat := runPairs p.runs * p.slots

/-- Slots that are granted to contexts; the last `bench` slots are the bench frames (log 12). -/
def PoolInfo.grantable (p : PoolInfo) : Nat := p.total - p.bench

/-- A Loaf location (R102). -/
def loafAddr (slice bank off : Nat) : Nat := slice * 2 ^ 32 + bank * 2 ^ 21 + off

/-- The location of byte i of a slot (R159). -/
def PoolInfo.byteAt (p : PoolInfo) (slot i : Nat) : Nat :=
  match pairAt p.runs (slot / p.slots) with
  | none => 0
  | some (s, pr) =>
    let k := i / 128
    loafAddr s (2 * pr + k % 2) (p.base + (slot % p.slots) * (p.slotBytes / 2) + 128 * (k / 2) + i % 128)

/-- The two banks of a slot's pair, as numbers 2,048 s + b. -/
def PoolInfo.banksOf (p : PoolInfo) (slot : Nat) : List Nat :=
  match pairAt p.runs (slot / p.slots) with
  | none => []
  | some (s, pr) => [2048 * s + 2 * pr, 2048 * s + 2 * pr + 1]

/-- The frame field of a tier-0 entry (Table 07.5). -/
def PoolInfo.frameField (p : PoolInfo) (slot : Nat) : Nat :=
  match pairAt p.runs (slot / p.slots) with
  | none => 0
  | some (s, pr) => s * 2 ^ 28 + pr * 2 ^ 18 + (slot % p.slots) * 2 ^ 8

def noPool : PoolInfo := ⟨16, 16384, 2, 2, 1, 32, 0, [], 1, 0, 0, 0, []⟩

def RecipeInfo.pool (i : RecipeInfo) (p : Nat) : PoolInfo := i.pools.getD p noPool

def noLayer : LayerInfo := ⟨0, 1, 0, 0, 0, 0⟩

def RecipeInfo.layer (i : RecipeInfo) (l : Nat) : LayerInfo := i.layers.getD l noLayer

/-- The page scale of K or V in a layer (R84). -/
def LayerInfo.scale (l : LayerInfo) (part : Nat) : Nat := if part = 0 then l.kScale else l.vScale

/-- The pool of a layer. -/
def RecipeInfo.layerPool (i : RecipeInfo) (l : Nat) : PoolInfo := i.pool (i.layer l).pool

/-- Ring slots of a local layer (R169). -/
def RecipeInfo.ringN (i : RecipeInfo) (l : Nat) : Nat := ceilDiv (i.layer l).window (i.layerPool l).tokens + 1

/-- List index of a position in a layer (R168, R169). -/
def RecipeInfo.indexOf (i : RecipeInfo) (l pos : Nat) : Nat :=
  let k := pos / (i.layerPool l).tokens
  if (i.layer l).kind = 2 then k % i.ringN l else k

end Sys2Proof

namespace Sys2Proof.Machine

/-! ## Recipes, frames -/

def Device.recipe (d : Device) (r : Nat) : Option RecipeSlot := tfind d.recipes r

/-- No declarations. -/
def noRecipe : RecipeInfo :=
  ⟨0, [], 0, 0, 0, [], [], [], [], [], [], [], 0, [], [], 0, 0, [], [], [], 0, 0, [], [], 0, [], 0⟩

/-- The Recipe's declarations; an empty one for an empty slot. -/
def Device.info (d : Device) (r : Nat) : RecipeInfo :=
  match tfind d.recipes r with
  | some s => s.info
  | none => noRecipe

def frameKey (r p slot : Nat) : Nat := (r * 65536 + p) * 2 ^ 24 + slot

def Device.frame (d : Device) (r p slot : Nat) : Frame := tget {} d.frames (frameKey r p slot)

def Device.setFrame (d : Device) (r p slot : Nat) (f : Frame) : Device :=
  { d with frames := tset d.frames (frameKey r p slot) f }

/-- The owner tag after a grant: incremented, 0 skipped (R166). -/
def nextTag (t : Nat) : Nat := if t ≥ 4095 then 1 else t + 1

/-- Is a slot free and zeroed, and its banks still granting frames (Table 05.8). -/
def Device.slotFree (d : Device) (r : Nat) (p : PoolInfo) (pi slot : Nat) : Bool :=
  let f := d.frame r pi slot
  f.owner == .none && !f.zeroing &&
    (p.banksOf slot).all (fun b => !d.health.out.contains b && !d.health.soft.contains b)

/-- Free zeroed grantable slots, lowest first (log 12). -/
def Device.freeSlots (d : Device) (r pi : Nat) : List Nat :=
  let p := (d.info r).pool pi
  (upto p.grantable).filter (d.slotFree r p pi)

/-- Slots being zeroed in a pool. -/
def Device.zeroingSlots (d : Device) (r pi : Nat) : List Nat :=
  let p := (d.info r).pool pi
  (upto p.grantable).filter (fun s => (d.frame r pi s).zeroing)

/-- Bytes of a slot in the Loaf, in the order of R159. -/
def Device.slotRead (d : Device) (p : PoolInfo) (slot i n : Nat) : List Byte :=
  (upto n).map (fun k => mread 0 d.loaf (p.byteAt slot (i + k)))

/-- Write bytes of a slot. -/
def slotWrite (p : PoolInfo) (slot : Nat) (m : Memory) (i : Nat) (bs : List Byte) : Memory :=
  (bs.foldl (fun (a : Memory × Nat) b => (mwrite 0 a.1 (p.byteAt slot a.2) b, a.2 + 1)) (m, i)).1

/-- Zero every byte of a slot (R242). -/
def slotClear (p : PoolInfo) (slot : Nat) (m : Memory) : Memory :=
  match pairAt p.runs (slot / p.slots) with
  | none => m
  | some (s, pr) =>
    let o := p.base + (slot % p.slots) * (p.slotBytes / 2)
    let a := loafAddr s (2 * pr) o
    let b := loafAddr s (2 * pr + 1) o
    mclear (mclear m a (a + p.slotBytes / 2)) b (b + p.slotBytes / 2)

/-- The frame header's bytes 0x00–0x0F (Table 07.2). -/
def headerBytes (ks vs first tag format layer : Nat) : List Byte :=
  toBytes 4 ks ++ toBytes 4 vs ++ toBytes 4 (first % 2 ^ 22) ++ toBytes 2 (tag % 4096 + format * 4096) ++ toBytes 2 layer

/-- Grant a slot to a context's page: tag, header, list entry (R161, R166). The header's first position is written with
the first token of a lap; `first` is the position the entry's contents begin at. -/
def Device.grantPage (d : Device) (r pi slot ctx layer index first : Nat) : Device × Page :=
  let info := d.info r
  let p := info.pool pi
  let tag := nextTag (d.frame r pi slot).tag
  let l := info.layer layer
  let (ks, vs) := if p.write = 0 then (l.kScale, l.vScale) else (0, 0)
  let d := d.setFrame r pi slot { owner := .ctx ctx, tag := tag }
  let d := { d with loaf := slotWrite p slot d.loaf p.frame (headerBytes ks vs 0 tag p.write layer) }
  (d, { layer := layer, index := index, frame := slot, shared := false, tag := tag, format := p.write, node := 0,
        tier := 0, first := first, block := 0, moving := false })

/-- Release a frame: the Peel zeroes it; it is free once zeroed (R185, R241). -/
def Device.releaseFrame (d : Device) (r pi slot : Nat) : Device :=
  let f := d.frame r pi slot
  d.setFrame r pi slot { f with owner := .none, zeroing := true }

/-! ## Tier-1 blocks -/

/-- The lowest address at or above lo, aligned, where len bytes meet no block in use and end by hi. -/
def lowestFree (used : List (Nat × Nat)) (align len hi : Nat) : Nat → Nat → Option Nat
  | 0, _ => none
  | fuel + 1, a =>
    let a := roundUp a align
    if a + len > hi then none
    else match used.find? (fun b => b.1 < a + len && a < b.1 + b.2) with
      | none => some a
      | some b => lowestFree used align len hi fuel (b.1 + b.2)

/-- A tier-1 block for an image (R243): lowest address first (log 12). -/
def Device.tier1Alloc (e : Env) (d : Device) (len : Nat) : Option (Nat × Device) :=
  match lowestFree d.peel.tier1 4096 len (tier1Base e + tier1Size e) (d.peel.tier1.length + 1) (tier1Base e) with
  | none => none
  | some a => some (a, { d with peel := { d.peel with tier1 := (a, len) :: d.peel.tier1 } })

/-- Zero LPDDR5X bytes lo to hi − 1; rewritten units are no longer uncorrectable (R242). -/
def Device.lpClear (d : Device) (lo hi : Nat) : Device :=
  { d with lp := mclear d.lp lo hi, lpBad := d.lpBad.filter (fun u => u * 32 < lo || hi < u * 32 + 32) }

/-- Free a tier-1 block: zeroed, then free (Table 09.9). -/
def Device.tier1Free (d : Device) (a : Nat) : Device :=
  match d.peel.tier1.find? (fun b => b.1 == a) with
  | none => d
  | some b =>
    let d := d.lpClear a (a + b.2)
    let used := d.peel.tier1.filter (fun x => x.1 != a)
    { d with peel := { d.peel with tier1 := used, images := d.peel.images.filter (fun x => x.1 != a) } }

/-! ## Streamed tensors (R233) -/

/-- Key of a streamed tensor. -/
def streamKey (recipe stream : Nat) : Nat := recipe * 65536 + stream

/-- A requester asks for a streamed tensor: pinned when it is committed in tier 0, else its promotion is asked for. -/
def Device.wantTensor (d : Device) (recipe stream : Nat) (who : Requester) : Device :=
  let k := streamKey recipe stream
  let x := tget {} d.peel.resident k
  let leaving := d.peel.moves.any (fun m => !m.2.committed && m.2.kind == .evict && m.2.obj == .tensor recipe stream)
  if x.slot.isSome && !leaving then
    let y := { x with pins := if x.pins.contains who then x.pins else who :: x.pins }
    { d with peel := { d.peel with resident := tset d.peel.resident k y } }
  else
    let w : MoveKind × MoveObj × Requester × Nat := (.promote, .tensor recipe stream, who, 0)
    if d.peel.waiting.contains w then d else { d with peel := { d.peel with waiting := d.peel.waiting ++ [w] } }

/-! ## Contexts -/

def Device.ctx (d : Device) (c : Nat) : Context := tget {} d.ctxs c

def Device.setCtx (d : Device) (c : Nat) (x : Context) : Device := { d with ctxs := tset d.ctxs c x }

def Device.modCtx (d : Device) (c : Nat) (f : Context → Context) : Device := d.setCtx c (f (d.ctx c))

/-- The resident context of a session (not anonymous). -/
def Device.ctxOf (d : Device) (session : Nat) : Option Nat :=
  if session = 0 then none
  else (d.ctxs.find? (fun c => c.2.held && c.2.session == session)).map (·.1)

/-- A context's entry for a layer and list index. -/
def Context.page (c : Context) (layer index : Nat) : Option Page :=
  c.pages.find? (fun p => p.layer == layer && p.index == index)

/-- Put an entry into a context's lists, replacing the one at its place. -/
def Context.putPage (c : Context) (p : Page) : Context :=
  let rest := c.pages.filter (fun q => !(q.layer == p.layer && q.index == p.index))
  { c with pages := insertBy (fun a b => a.layer < b.layer || (a.layer == b.layer && a.index ≤ b.index)) p rest }

/-- Clear entries. -/
def Context.dropPages (c : Context) (which : Page → Bool) : Context :=
  { c with pages := c.pages.filter (fun p => !which p) }

/-- The kv format code of a context (R164). -/
def Context.format (c : Context) : Nat :=
  (c.pages.filter (fun p => p.format < 3)).foldl (fun a p => if p.format < a then p.format else a) 0xF

/-- KV frames held, shared pages not counted (Table 03.3). -/
def Context.frames (c : Context) : Nat := (c.pages.filter (fun p => !p.shared && p.tier == 0)).length

/-- Distinct elements counted. -/
def distinct (l : List Nat) : Nat := l.eraseDups.length

/-- The list frames that hold these entries, by kind, layer and part (R167, R168): the directory, per layer a list frame,
and for a global layer its level-2 frames. -/
def listRoles (info : RecipeInfo) (ps : List Page) : List (Nat × Nat × Nat) :=
  if ps.isEmpty then []
  else
    (0, 0, 0) :: (((ps.map (·.layer)).eraseDups).map (fun l =>
      let k := (info.layer l).kind
      if k = 1 then (1, l, 0) :: (((ps.filter (fun p => p.layer == l)).map (fun p => p.index / 512)).eraseDups).map (fun j => (2, l, j))
      else [(if k = 2 then 3 else 4, l, 0)])).flatten

/-- How many. -/
def listFramesOf (info : RecipeInfo) (ps : List Page) : Nat := (listRoles info ps).length

/-- List frames of a prefix index entry (R286). -/
def PrefixEntry.listFrames (b : PrefixEntry) : Nat := ceilDiv b.pages.length 512

/-- List frames in use: held, or being zeroed. -/
def Device.listUsed (d : Device) : Nat := d.lists.length

/-- List frames free. -/
def Device.listFree (e : Env) (d : Device) : Nat := listFrames e - d.listUsed

/-- Every list frame that the page lists and blocks require. -/
def Device.listsWanted (d : Device) : List ListFrame :=
  (d.ctxs.map (fun c => (listRoles (d.info c.2.recipe) c.2.pages).map (fun r => (⟨.ctx c.1, r.1, r.2.1, r.2.2, false⟩ : ListFrame)))).flatten
    ++ (d.blocks.map (fun b => (upto b.2.listFrames).map (fun j => (⟨.block b.1, 5, 0, j, false⟩ : ListFrame)))).flatten

/-- The lowest list frame number from lo on that is not in use. -/
def freeList (used : Tbl ListFrame) : Nat → Nat → Nat
  | 0, n => n
  | k + 1, n => if (tfind used n).isSome then freeList used k (n + 1) else n

/-- List frames follow the page lists: those no longer required go to the Peel for zeroing, those required are allocated,
lowest number first (R167, R241); number 0 names no list frame of a block (Table 11.3). -/
def Device.syncLists (d : Device) : Device :=
  let want := d.listsWanted
  let held : Tbl ListFrame := d.lists.map (fun f =>
    if f.2.zeroing || want.contains f.2 then f else (f.1, { f.2 with owner := .none, zeroing := true }))
  { d with lists := (want.filter (fun w => !held.any (fun f => f.2 == w))).foldl (fun t w =>
      tset t (freeList t (t.length + 1) (if w.kind = 5 then 1 else 0)) w) held }

/-- The number of the list frame that plays a role; 0 for none. -/
def Device.listOf (d : Device) (w : ListFrame) : Nat := match d.lists.find? (fun f => f.2 == w) with
  | some f => f.1
  | none => 0

/-- A page-list entry's 64 bits (Tables 07.3, 07.5): `own` is the device's node number, which stands for tiers 0 and 1. -/
def Page.word (own : Nat) (info : RecipeInfo) (p : Page) : Nat :=
  (if p.tier = 0 then (info.layerPool p.layer).frameField p.frame else p.frame % 2 ^ 32)
    + b2n p.shared * 2 ^ 38 + 2 ^ 39 + p.tag % 4096 * 2 ^ 40 + p.format % 16 * 2 ^ 52
    + (if p.tier ≤ 1 then own else p.node) % 64 * 2 ^ 56 + p.tier % 4 * 2 ^ 62

/-- The word at an index of a list frame (Tables 07.3, 07.6; R168, R286): 0 where no entry is valid. -/
def Device.listWord (own : Nat) (d : Device) (n i : Nat) : Nat :=
  match tfind d.lists n with
  | none => 0
  | some f => if f.zeroing then 0 else match f.owner with
    | .ctx c =>
      let x := d.ctx c
      let info := d.info x.recipe
      let at_ := fun (l j : Nat) => match x.pages.find? (fun p => p.layer == l && p.index == j) with
        | some p => p.word own info
        | none => 0
      if f.kind = 0 then
        (if x.pages.any (fun p => p.layer == i) then
          (let k := (info.layer i).kind
           d.listOf ⟨.ctx c, if k = 1 then 1 else if k = 2 then 3 else 4, i, 0, false⟩
             + (info.layer i).pool * 2 ^ 32 + k * 2 ^ 36 + (if k = 2 then info.ringN i - 1 else 0) * 2 ^ 38 + 2 ^ 63)
         else 0)
      else if f.kind = 1 then
        (if x.pages.any (fun p => p.layer == f.layer && p.index / 512 == i) then d.listOf ⟨.ctx c, 2, f.layer, i, false⟩ + 2 ^ 63
         else 0)
      else if f.kind = 2 then at_ f.layer (512 * f.part + i)
      else at_ f.layer i
    | .block b => (match tfind d.blocks b with
      | some x => (match x.pages[512 * f.part + i]? with
        | some p => p.word own (d.info x.recipe)
        | none => 0)
      | none => 0)
    | _ => 0

/-- Blocks removed for a poisoned page go with the last list that names them, their frames released (R128). -/
def Device.dropGone (d : Device) : Device :=
  let named := fun (b : Nat) => d.ctxs.any (fun c => c.2.pages.any (fun p => p.shared && p.block == b))
  let out := d.blocks.filter (fun b => b.2.gone && !named b.1)
  out.foldl (fun (d : Device) b => b.2.pages.foldl (fun (d : Device) p =>
      d.releaseFrame b.2.recipe ((d.info b.2.recipe).layer p.layer).pool p.frame) d)
    { d with blocks := d.blocks.filter (fun b => !(b.2.gone && !named b.1)) }

/-- Refcounts and followers of the prefix index, counted from the lists that name its blocks (Table 11.3), and the list
frames that the lists require. -/
def Device.recount (d : Device) : Device :=
  let d := d.dropGone
  let d : Device := { d with blocks := d.blocks.map (fun b => (b.1, { b.2 with
      refcount := (d.ctxs.filter (fun c => c.2.pages.any (fun p => p.shared && p.block == b.1))).length,
      followers := (d.blocks.filter (fun x => !x.2.first && x.2.prior == b.1)).length })) }
  d.syncLists

/-- A RELEASE to the home of an image at another node, its address and owner tag check in one unit (R353). -/
def Device.askRelease (d : Device) (node addr tag : Nat) : Device :=
  let k : Pkt := ⟨node, 0, 3, 0x25, 0, 0, 1, 0, node * 2 ^ 42 + addr, 0, 0, 0, 0, false, 0, toBytes 8 addr ++ toBytes 24 tag⟩
  { d with pem := { d.pem with waiting := d.pem.waiting ++ [⟨k, false, 0, 0, false, 0, .release, 0⟩] } }

/-- Release a page's home: frame, tier-1 block, or the home at another node by a release message (Table 09.9).
A shared page's reference ends with its entry. -/
def Device.releaseHome (d : Device) (r : Nat) (p : Page) : Device :=
  if p.shared then d
  else if p.tier = 0 then d.releaseFrame r ((d.info r).layer p.layer).pool p.frame
  else if p.tier = 1 then d.tier1Free (p.frame * 4096)
  else
    d.askRelease p.node (p.frame * 4096) p.tag

/-- Operations that serve nothing any more: waiting ones go, issued ones stay outstanding for their answers. -/
def Device.loseOps (d : Device) (mine : FabOp → Bool) : Device :=
  { d with pem := { d.pem with ops := d.pem.ops.map (fun (o : FabOp) => if mine o then { o with user := .release } else o),
                               waiting := d.pem.waiting.filter (fun o => !mine o) } }

/-- Cancel moves whose object meets a condition: destination zeroed and freed, record freed (R229). -/
def Device.cancelMoves (d : Device) (which : Move → Bool) : Device :=
  let gone := d.peel.moves.filter (fun m => which m.2 && !m.2.committed)
  let d := gone.foldl (fun d m =>
    match m.2.obj with
    | .page c l _ => if m.2.destTier = 0 then d.releaseFrame (d.ctx c).recipe ((d.info (d.ctx c).recipe).layer l).pool m.2.dest
        else if m.2.destTier = 1 then d.tier1Free (m.2.dest * 4096) else d
    | _ => d) d
  let mine := fun (o : FabOp) => match o.user with
    | .move m => gone.any (fun g => g.1 == m)
    | _ => false
  let d := d.loseOps mine
  { d with peel := { d.peel with moves := d.peel.moves.filter (fun m => !(which m.2 && !m.2.committed)),
                                 cancelled := sat lim32 (d.peel.cancelled + gone.length) } }

/-- Stagings of a context (R190), dropped with its entries. -/
def Device.dropStagings (d : Device) (which : Nat → Nat → Nat → Bool) : Device :=
  let d := d.loseOps (fun o => match o.user with
    | .stage c l i => which c l i
    | _ => false)
  { d with frames := d.frames.map (fun f => match f.2.owner with
      | .stage c l i _ => if which c l i then (f.1, { f.2 with owner := .none, zeroing := true }) else f
      | _ => f) }

/-- Entries of a context are about to go: moves on them are cancelled, stagings dropped. -/
def Device.detach (d : Device) (c : Nat) (ps : List Page) : Device :=
  let hit := fun (l i : Nat) => ps.any (fun p => p.layer == l && p.index == i)
  (d.cancelMoves (fun m => match m.obj with
    | .page c' l i => c' == c && hit l i
    | _ => false)).dropStagings (fun c' l i => c' == c && hit l i)

/-- Clear entries that name frames of others (R166): no home is released. -/
def Device.clearPages (d : Device) (c : Nat) (which : Page → Bool) : Device :=
  ((d.detach c ((d.ctx c).pages.filter which)).modCtx c (fun y => y.dropPages which)).recount

/-- Replace entries of a context by new ones: homes released, moves on them cancelled, stagings dropped, references
counted. -/
def Device.swapPages (d : Device) (c : Nat) (which : Page → Bool) (new : List Page) : Device :=
  let x := d.ctx c
  let ps := x.pages.filter which
  if ps.isEmpty && new.isEmpty then d else
  let d := ps.foldl (fun d p => d.releaseHome x.recipe p) (d.detach c ps)
  (d.modCtx c (fun y => new.foldl (fun y p => y.putPage p) (y.dropPages which))).recount

/-- Release entries of a context. -/
def Device.releasePages (d : Device) (c : Nat) (which : Page → Bool) : Device := d.swapPages c which []

/-- Does the context hold, as shared pages, what a local layer's window before position 256 m needs (R287). -/
def windowHeld (info : RecipeInfo) (has : Nat → Nat → Bool) (m : Nat) : Bool :=
  (upto info.layers.length).all (fun l =>
    (info.layer l).kind != 2 ||
      (let w := (info.layer l).window
       let lo := (256 * m - (w - 1)) / 256
       (upto m).all (fun j => j < lo || has l j)))

/-- Shared-prefix coverage that the context's lists still hold. -/
def Device.sharedCover (d : Device) (c : Nat) : Nat :=
  let x := d.ctx c
  let info := d.info x.recipe
  let has := fun (l j : Nat) =>
    let T := (info.layerPool l).tokens
    (upto (256 / T)).all (fun k =>
      let pg := j * (256 / T) + k
      x.pages.any (fun p => p.layer == l && p.index == pg % info.ringN l && p.shared && p.first == pg * T))
  let rec go : Nat → Nat
    | 0 => 0
    | m + 1 => if windowHeld info has (m + 1) then 256 * (m + 1) else go m
  go (x.prefixLen / 256)

/-- Drop a context's own pages: V falls to its shared-prefix coverage (R70, R183). -/
def Device.dropOwn (d : Device) (c : Nat) : Device :=
  let d := d.releasePages c (fun p => !p.shared)
  let cover := d.sharedCover c
  d.modCtx c (fun x => { x with valid := if cover < x.valid then cover else x.valid, prefixLen := cover })

/-- Drop all KV of a context: own pages and references (R68, R247, R248). -/
def Device.dropAll (d : Device) (c : Nat) : Device :=
  (d.releasePages c (fun _ => true)).modCtx c (fun x => { x with valid := 0, prefixLen := 0 })

/-! ## Writing KV (R83–R85, R158–R161, R170) -/

/-- The stored bytes of one head vector: elements and block scales, and saturations counted (R81, R84); `keep` is the
saturate flag of a BF16 target (Table 04.5). -/
def encodeVec (p : PoolInfo) (keep : Bool) (scale : Nat) (vs : List Nat) : List Byte × List Byte × Nat :=
  let rec blocks (n : Nat) : Nat → List Nat → List (List Nat)
    | 0, _ => []
    | k + 1, l => l.take n :: blocks n k (l.drop n)
  if p.write = 0 then
    let bs := (blocks 16 (p.dim / 16) vs).map (kv4Block scale)
    (toBytes (p.dim / 2) (packBits 4 (bs.map (fun b => b.2.1)).flatten),
     bs.map (fun b => BitVec.ofNat 8 b.1), (bs.filter (fun b => b.2.2)).length)
  else if p.write = 1 then
    let bs := (blocks 32 (p.dim / 32) vs).map (mxBlock fE4M3)
    (toBytes p.dim (packBits 8 (bs.map (fun b => b.2)).flatten), bs.map (fun b => BitVec.ofNat 8 b.1), 0)
  else
    let cs := vs.map (narrow fBF16 keep .near)
    (toBytes (2 * p.dim) (packBits 16 (cs.map (·.1))), [], (cs.filter (·.2)).length)

/-- Saturations of an engine: of the Crumb array or of the Oven (R100). -/
def Device.countSat (d : Device) (crumb : Bool) (n : Nat) : Device :=
  { d with health := if crumb then { d.health with crbSat := sat lim32 (d.health.crbSat + n) }
                     else { d.health with ovnSat := sat lim32 (d.health.ovnSat + n) } }

/-- One K (part 0) or V (part 1) head vector at a position, as FP32 words given to the KV writer (R85); `saturate` is the
flag of the record that writes it, for a BF16 target (Tables 04.5, 06.3). -/
structure KvVec where
  layer : Nat
  pos : Nat
  head : Nat
  part : Nat
  saturate : Bool
  vals : List Nat
  deriving DecidableEq, Repr

/-- Write a recurrent state of FP32 words into a state slot of its layer, in the pool's format (R118, R119). -/
def Device.writeState (d : Device) (crumb : Bool) (c layer slot : Nat) (saturate : Bool) (vals : List Nat) : Device :=
  let x := d.ctx c
  let p := (d.info x.recipe).layerPool layer
  match x.page layer slot with
  | none => d
  | some pg =>
    if pg.shared || pg.tier != 0 || p.write < 3 then d else
    let cs := vals.map (narrow fBF16 saturate .near)
    let bs := if p.write = 3 then (vals.map (toBytes 4)).flatten else (cs.map (fun w => toBytes 2 w.1)).flatten
    ({ d with loaf := slotWrite p pg.frame d.loaf 0 (bs.take p.stateBytes) } : Device).countSat crumb
      (if p.write = 3 then 0 else (cs.filter (·.2)).length)

/-- Put stored bytes of one K or V head vector into the context's own tier-0 page (R160); the first token of a lap sets
the header's first position (R170). -/
def Device.putKv (d : Device) (c layer pos head part : Nat) (el sc : List Byte) : Device :=
  let x := d.ctx c
  let info := d.info x.recipe
  let p := info.layerPool layer
  match x.page layer (info.indexOf layer pos) with
  | none => d
  | some pg =>
    if pg.shared || pg.tier != 0 || p.write ≥ 3 then d else
    let i := pos % p.tokens
    let row := (2 * head + part) * p.tokens + i
    let m := slotWrite p pg.frame d.loaf (row * p.dim * kvBits p.write / 8) el
    let b := if p.write = 0 then 16 else 32
    let m := slotWrite p pg.frame m (p.frame + 128 + row * p.dim / b) sc
    let lap := i = 0
    let m := if lap then slotWrite p pg.frame m (p.frame + 8) (toBytes 4 pos) else m
    let d := { d with loaf := m }
    if lap then d.modCtx c (fun y => y.putPage { pg with first := pos }) else d

/-- Encode and write one head vector; `crumb` says that the Crumb array writes it, not the Oven. -/
def Device.writeKv (d : Device) (crumb : Bool) (c : Nat) (v : KvVec) : Device :=
  let info := d.info (d.ctx c).recipe
  let (el, sc, n) := encodeVec (info.layerPool v.layer) v.saturate ((info.layer v.layer).scale v.part) v.vals
  (d.putKv c v.layer v.pos v.head v.part el sc).countSat crumb n

/-! ## Needs (R182, R143) -/

/-- The (layer, index, first position) of frames needed to write positions lo to hi − 1. -/
def Context.needs (x : Context) (info : RecipeInfo) (lo hi : Nat) : List (Nat × Nat × Nat) :=
  ((upto info.layers.length).map (fun l =>
    let ly := info.layer l
    let T := (info.layerPool l).tokens
    if ly.kind = 1 || ly.kind = 2 then
      let n := info.ringN l
      let kLo := lo / T
      let kHi := (hi + T - 1) / T
      let kLo := if ly.kind = 2 && kHi - kLo > n then kHi - n else kLo
      ((upto (kHi - kLo)).map (fun j =>
        let k := kLo + j
        let idx := if ly.kind = 2 then k % n else k
        match x.page l idx with
        | some p => if p.shared || p.tier != 0 then [(l, idx, k * T)] else []
        | none => [(l, idx, k * T)])).flatten
    else if ly.kind = 3 then
      ((upto (info.dMax + 1)).map (fun j =>
        match x.page l j with
        | some p => if p.tier != 0 then [(l, j, 0)] else []
        | none => [(l, j, 0)])).flatten
    else [])).flatten

/-- Frames needed in each pool. -/
def needPools (info : RecipeInfo) (ns : List (Nat × Nat × Nat)) : List (Nat × Nat) :=
  ((upto info.pools.length).map (fun pi => (pi, (ns.filter (fun n => (info.layer n.1).pool == pi)).length))).filter
    (fun x => x.2 > 0)

/-- List frames that entering these pages adds. -/
def Context.listNeed (x : Context) (info : RecipeInfo) (ns : List (Nat × Nat × Nat)) : Nat :=
  let more := ns.foldl (fun (ps : List Page) n =>
    if ps.any (fun p => p.layer == n.1 && p.index == n.2.1) then ps
    else ⟨n.1, n.2.1, 0, false, 0, 0, 0, 0, n.2.2, 0, false, false⟩ :: ps) x.pages
  listFramesOf info more - listFramesOf info x.pages

/-- Can the needs be granted now: free zeroed frames and list frames suffice. -/
def Device.canGrant (e : Env) (d : Device) (c : Nat) (ns : List (Nat × Nat × Nat)) : Bool :=
  let x := d.ctx c
  let info := d.info x.recipe
  (needPools info ns).all (fun n => (d.freeSlots x.recipe n.1).length ≥ n.2) && x.listNeed info ns ≤ d.listFree e

/-- Grant every needed frame (all or none is checked by `canGrant`). A shared page's reference in the place ends,
and a home outside the Loaf there is released (R170). -/
def Device.grant (d : Device) (c : Nat) (ns : List (Nat × Nat × Nat)) : Device :=
  (ns.foldl (fun (d : Device) n =>
    let x := d.ctx c
    let pi := ((d.info x.recipe).layer n.1).pool
    match (d.freeSlots x.recipe pi).head? with
    | none => d
    | some slot =>
      let d := match x.page n.1 n.2.1 with
        | some p => (d.dropStagings (fun c' l i => c' == c && l == n.1 && i == n.2.1)).releaseHome x.recipe p
        | none => d
      let (d, p) := d.grantPage x.recipe pi slot c n.1 n.2.1 n.2.2
      d.modCtx c (fun y => y.putPage p)) d).recount

end Sys2Proof.Machine
end

