-- ==== Sys2Proof/Machine/Logs.lean ====
section
/-! DEFINITION. Token logs and session directory records (11: R278–R283), as bytes of LPDDR5X; context allocation and
demotion (R67, R68). -/

namespace Sys2Proof.Machine

/-! ## LPDDR5X bytes -/

def Device.lpNat (d : Device) (a n : Nat) : Nat := rd d.lp a n
def Device.lpStore (d : Device) (a n v : Nat) : Device := { d with lp := wr d.lp a n v }
/-- Write bytes; units rewritten whole are no longer uncorrectable. -/
def Device.lpWrites (d : Device) (a : Nat) (bs : List Byte) : Device :=
  { d with lp := mwrites 0 d.lp a bs, lpBad := d.lpBad.filter (fun u => u * 32 < a || a + bs.length < u * 32 + 32) }
/-- Is the 32-byte unit of an address uncorrectable (R416). -/
def Device.lpPoisoned (d : Device) (a : Nat) : Bool := d.lpBad.contains (a / 32)

/-! ## The token log (R278, R279) -/

/-- The extent that holds a position. -/
def extentOf (p : Nat) : Nat := if p < 1024 then 0 else (p / 1024).log2 + 1
/-- First position of an extent. -/
def extentFirst (k : Nat) : Nat := if k = 0 then 0 else 1024 * 2 ^ (k - 1)
/-- Bytes of an extent. -/
def extentBytes (k : Nat) : Nat := if k = 0 then 4096 else 4096 * 2 ^ (k - 1)
/-- Extents that a log of n entries has. -/
def extentCount (n : Nat) : Nat := if n = 0 then 0 else extentOf (n - 1) + 1

/-- A block of the log area: lowest aligned address that is free (R279). -/
def Device.logAlloc (e : Env) (d : Device) (len : Nat) : Option (Nat × Device) :=
  let used := d.peel.logBlocks
  match lowestFree used len len (logArea e + logSize e) (used.length + 1) (logArea e) with
  | none => none
  | some a => some (a, { d with peel := { d.peel with logBlocks := (a, len) :: used } })

/-- Free a block of the log area: zeroed, then free. -/
def Device.logFreeBlock (d : Device) (a : Nat) : Device :=
  match d.peel.logBlocks.find? (fun b => b.1 == a) with
  | none => d
  | some b =>
    let rest := d.peel.logBlocks.filter (fun x => x.1 != a)
    { d.lpClear a (a + b.2) with peel := { d.peel with logBlocks := rest } }

/-- The address of extent k, 0 for none. -/
def Device.extentAddr (d : Device) (base k : Nat) : Nat := d.lpNat (base + 8 * k) 8

/-- The address of the entry at a position. -/
def Device.entryAddr (d : Device) (base p : Nat) : Nat :=
  d.extentAddr base (extentOf p) + 4 * (p - extentFirst (extentOf p))

/-- A token word of a log. -/
def Device.logWord (d : Device) (base p : Nat) : Nat := d.lpNat (d.entryAddr base p) 4

/-- Token words lo to hi − 1. -/
def Device.logWords (d : Device) (base lo hi : Nat) : List Nat :=
  (upto (hi - lo)).map (fun i => d.logWord base (lo + i))

/-- Make the header (if base is 0) and every extent a log of n entries needs; none when the area cannot. -/
def Device.logEnsure (e : Env) (d : Device) (base n : Nat) : Option (Nat × Device) :=
  let start : Option (Nat × Device) := if base = 0 then d.logAlloc e 128 else some (base, d)
  (upto (extentCount n)).foldl (fun st k =>
    match st with
    | none => none
    | some (b, d) =>
      if d.extentAddr b k != 0 then some (b, d)
      else match d.logAlloc e (extentBytes k) with
        | none => none
        | some (a, d) => some (b, d.lpStore (b + 8 * k) 8 a)) start

/-- Append words from position p, each one 32-bit store (R46). -/
def Device.logPut (d : Device) (base p : Nat) (ws : List Nat) : Device :=
  (ws.foldl (fun (s : Device × Nat) w => (s.1.lpStore (s.1.entryAddr base s.2) 4 (w % 2 ^ 28), s.2 + 1)) (d, p)).1

/-- Free a log: its extents and its header. -/
def Device.logRelease (d : Device) (base : Nat) : Device :=
  if base = 0 then d else
    let addrs := ((upto 13).map (d.extentAddr base)).filter (· != 0)
    (addrs.foldl (fun d a => d.logFreeBlock a) d).logFreeBlock base

/-! ## Directory records (Table 11.1) -/

/-- A session directory record. -/
structure DirRec where
  session : Nat := 0
  valid : Bool := false
  parked : Bool := false
  incoming : Bool := false
  recipe : Nat := 0
  adapter : Nat := 0
  version : Nat := 0
  log : Nat := 0
  length : Nat := 0
  tenant : Nat := 0
  cls : Nat := 0
  lastUse : Nat := 0
  seed : Nat := 0
  source : Nat := 0
  epoch : Nat := 0
  writes : Nat := 0
  deriving DecidableEq, Repr

/-- The 64 bytes of a record. -/
def DirRec.bytes (r : DirRec) : List Byte :=
  toBytes 8 (r.session + b2n r.valid * 2 ^ 32 + b2n r.parked * 2 ^ 33 + b2n r.incoming * 2 ^ 34 + r.recipe * 2 ^ 35
      + r.adapter * 2 ^ 39 + r.version * 2 ^ 51)
    ++ toBytes 8 r.log ++ toBytes 8 (r.length + r.tenant * 2 ^ 23 + r.cls * 2 ^ 35) ++ toBytes 8 r.lastUse
    ++ toBytes 8 r.seed ++ toBytes 8 (r.source + r.epoch * 2 ^ 6) ++ toBytes 8 r.writes ++ toBytes 8 0

/-- A session's slot (R280). -/
def slotOf (session : Nat) : Nat := session % 2 ^ 24

/-- Address of a session's record. -/
def dirAddr (e : Env) (session : Nat) : Nat := dirBase e + 64 * slotOf session

/-- Read the record of a session's slot. -/
def Device.dirRead (e : Env) (d : Device) (session : Nat) : DirRec :=
  let q := fun i => d.lpNat (dirAddr e session + 8 * i) 8
  { session := bits (q 0) 31 0, valid := bit (q 0) 32, parked := bit (q 0) 33, incoming := bit (q 0) 34,
    recipe := bits (q 0) 38 35, adapter := bits (q 0) 50 39, version := bits (q 0) 58 51, log := q 1,
    length := bits (q 2) 22 0, tenant := bits (q 2) 34 23, cls := bits (q 2) 37 35, lastUse := q 3, seed := q 4,
    source := bits (q 5) 5 0, epoch := bits (q 5) 21 6, writes := bits (q 6) 31 0 }

/-- Write a record: one aligned 64-byte write; the count of writes starts at 1 when the record becomes valid. -/
def Device.dirWrite (e : Env) (d : Device) (r : DirRec) : Device :=
  let old := d.dirRead e r.session
  let n := if old.valid && old.session == r.session then (old.writes + 1) % 2 ^ 32 else 1
  d.lpWrites (dirAddr e r.session) { r with valid := true, writes := n }.bytes

/-- Clear the record of a slot: all zero. -/
def Device.dirClear (e : Env) (d : Device) (session : Nat) : Device :=
  d.lpClear (dirAddr e session) (dirAddr e session + 64)

/-- The record of a context (R283). -/
def Context.record (x : Context) (old : DirRec) : DirRec :=
  { session := x.session, valid := true, parked := x.parked, incoming := false, recipe := x.recipe,
    adapter := x.adapter, version := x.version, log := x.logBase, length := x.logLength, tenant := x.tenant,
    cls := x.cls, lastUse := x.lastUse, seed := x.sampler.seed, source := old.source, epoch := old.epoch, writes := 0 }

/-- Valid records in the directory (Table 02.13). -/
def Device.dirCount (e : Env) (d : Device) : Nat :=
  (d.lp.filter (fun c => dirBase e ≤ c.1 && c.1 < dirBase e + Config.gib && (c.1 - dirBase e) % 64 == 4
    && c.2.toNat % 2 == 1)).length

/-! ## Context entries (R67, R68) -/

/-- Start the demotion of an idle context: its KV is dropped and its record write starts (R68). -/
def Device.demote (d : Device) (c : Nat) (record : Bool) : Device :=
  let d := d.dropAll c
  let d := d.modCtx c (fun x => { x with demoting := true, noRecord := !record })
  { d with kn := { d.kn with demotions := d.kn.demotions + 1 } }

/-- The entry becomes unused: all fields but the incarnation read as zero. -/
def Device.vacate (d : Device) (c : Nat) : Device :=
  d.setCtx c { incarnation := (d.ctx c).incarnation }

/-- The record write of a demotion is complete: the entry becomes unused (R68, step 3). An anonymous context writes
no record, and its log is freed with it (log 13). -/
def Device.demoted (e : Env) (d : Device) (c : Nat) : Device :=
  let x := d.ctx c
  let d := if x.session = 0 then d.logRelease x.logBase
    else if x.noRecord then d else d.dirWrite e (x.record (d.dirRead e x.session))
  d.vacate c

/-- The lowest unused entry. -/
def Device.unusedCtx (d : Device) : Option Nat :=
  let rec go (used : List (Nat × Context)) : Nat → Nat → Option Nat
    | 0, _ => none
    | fuel + 1, i =>
      match used with
      | [] => if i < Config.contextEntries then some i else none
      | (k, x) :: r => if k = i then (if x.held then go r fuel (i + 1) else some i)
          else some i
  go d.ctxs (d.ctxs.length + 1) 0

/-- The idle, unpinned context with the oldest last use, lowest index (R67); one of a session in a handoff counts. -/
def Device.idleVictim (d : Device) : Option Nat :=
  (leastBy (fun (a b : Nat × Context) => a.2.lastUse < b.2.lastUse)
    (d.ctxs.filter (fun c => c.2.held && !c.2.live && !c.2.pinned && !c.2.demoting))).map (·.1)

/-- A context whose demotion's record write is not complete: neither live nor pinned, so it can still give its entry. -/
def Device.demotingVictim (d : Device) : Option Nat :=
  (leastBy (fun (a b : Nat × Context) => a.2.lastUse < b.2.lastUse) (d.ctxs.filter (fun c => c.2.held && c.2.demoting))).map (·.1)

/-- Make an entry held for a session: incarnation incremented (Table 03.3). -/
def Device.holdCtx (e : Env) (d : Device) (c session : Nat) : Device :=
  d.setCtx c { session := session, held := true, incarnation := ((d.ctx c).incarnation + 1) % 65536,
               lastUse := e.now, dir := { slot := slotOf session } }

/-- An idle context is demoted for another session. DESIGN CHOICE (log 107): where a handoff of its session is under way
the handoff goes on without it. From step 6 the session has no record here: nothing is written, and images already sent
stay until their RELEASE. -/
def Device.giveEntry (e : Env) (d : Device) (c : Nat) : Device :=
  let x := d.ctx c
  let mine := fun (o : MoveObj) => match o with
    | .page k _ _ => k == c
    | _ => false
  let d := { d with peel := { d.peel with waiting := d.peel.waiting.filter (fun w => !mine w.2.1) } }
  if x.dir.outgoing && x.dir.phase == 1 then
    let sent := fun (p : Page) => !p.shared && p.tier == 1 && d.peel.images.contains (p.frame * 4096, p.tag)
    let d := { d with kn := { d.kn with demotions := d.kn.demotions + 1 } }
    ((d.releasePages c (fun p => !sent p)).modCtx c (fun x => { x with pages := [] })).vacate c
  else (d.demote c true).demoted e c

/-- Take a context entry: an unused one, else demote the oldest idle one and give its entry (R67); else the entry of a
demotion under way, whose record write completes here. -/
def Device.takeCtx (e : Env) (d : Device) (session : Nat) : Option (Nat × Device) :=
  match d.unusedCtx with
  | some c => some (c, d.holdCtx e c session)
  | none =>
    match d.idleVictim with
    | some c => some (c, (d.giveEntry e c).holdCtx e c session)
    | none => match d.demotingVictim with
      | some c => some (c, (d.demoted e c).holdCtx e c session)
      | none => none

/-- The context of a session: its own, else one made from its directory record (R67, R295). -/
def Device.residentFor (e : Env) (d : Device) (session : Nat) : Option (Nat × Device) :=
  match d.ctxOf session with
  | some c => some (c, d)
  | none => match d.takeCtx e session with
    | none => none
    | some (c, d) =>
      let x := d.dirRead e session
      some (c, d.modCtx c (fun y => { y with
        logBase := x.log, logLength := x.length, recipe := x.recipe, adapter := x.adapter, version := x.version,
        tenant := x.tenant, cls := x.cls, parked := x.parked, dir := { y.dir with recordValid := true } }))

end Sys2Proof.Machine
end

