-- ==== Sys2Proof/Machine/Mill.lean ====
section
/-! DEFINITION. The Mill's algorithms (12): UTF-8 decoding (R303), pieces (R304), byte-level BPE and unigram
(R305–R307), token texts (R310), output text, stop strings and stream records (R311–R314, R42, R43). -/

namespace Sys2Proof.Machine

/-! ## UTF-8 -/

/-- Length of a character by its lead byte; 0 for a byte that cannot begin one. -/
def leadLen (b : Nat) : Nat :=
  if b < 0x80 then 1 else if b < 0xC2 then 0 else if b < 0xE0 then 2 else if b < 0xF0 then 3
  else if b < 0xF5 then 4 else 0

/-- May byte b continue the incomplete prefix p. -/
def continues (p : List Nat) (b : Nat) : Bool :=
  match p with
  | [l] => (if l = 0xE0 then 0xA0 else if l = 0xF0 then 0x90 else 0x80) ≤ b
      && b ≤ (if l = 0xED then 0x9F else if l = 0xF4 then 0x8F else 0xBF)
  | _ => 0x80 ≤ b && b ≤ 0xBF

/-- A character as tagged bytes; `bad` marks a U+FFFD for a maximal subpart, whose tags are summed. -/
structure Ch where
  bytes : List (Byte × Nat)
  bad : Bool
  tags : Nat
  deriving DecidableEq, Repr

/-- The U+FFFD for an ill-formed subpart. -/
def replacement (p : List (Byte × Nat)) : Ch :=
  ⟨[(0xEF, 0), (0xBF, 0), (0xBD, 0)], true, (p.map (·.2)).sum⟩

/-- One byte of the decoder: characters released, and the incomplete prefix left (R303). -/
def utf8Step (p : List (Byte × Nat)) (b : Byte × Nat) : List Ch × List (Byte × Nat) :=
  let fresh := fun (out : List Ch) =>
    let n := leadLen b.1.toNat
    if n = 0 then (out ++ [replacement [b]], [])
    else if n = 1 then (out ++ [⟨[b], false, 0⟩], []) else (out, [b])
  if p.isEmpty then fresh []
  else if continues (p.map (fun x => x.1.toNat)) b.1.toNat then
    let q := p ++ [b]
    if q.length = leadLen ((q.headD (0, 0)).1.toNat) then ([⟨q, false, 0⟩], []) else ([], q)
  else fresh [replacement p]

/-- Decode bytes from an incomplete prefix. -/
def utf8Run (p : List (Byte × Nat)) (bs : List (Byte × Nat)) : List Ch × List (Byte × Nat) :=
  bs.foldl (fun st b => let (o, p) := utf8Step st.2 b; (st.1 ++ o, p)) ([], p)

/-- Is a byte string valid UTF-8. -/
def validUtf8 (bs : List Byte) : Bool :=
  let (cs, p) := utf8Run [] (bs.map (fun b => (b, 0)))
  p.isEmpty && cs.all (fun c => !c.bad)

/-- A run decoded: its characters' bytes and the replacements counted (R303). -/
def decodeRun (bs : List Byte) : List (List Byte) × Nat :=
  let (cs, p) := utf8Run [] (bs.map (fun b => (b, 0)))
  let cs := if p.isEmpty then cs else cs ++ [replacement p]
  (cs.map (fun c => c.bytes.map (·.1)), (cs.filter (·.bad)).length)

/-- The code point of a character's bytes. -/
def codePoint (bs : List Byte) : Nat :=
  match bs.map (·.toNat) with
  | [a] => a
  | [a, b] => (a % 32) * 64 + b % 64
  | [a, b, c] => (a % 16) * 4096 + (b % 64) * 64 + c % 64
  | [a, b, c, d] => (a % 8) * 262144 + (b % 64) * 4096 + (c % 64) * 64 + d % 64
  | _ => 0

/-! ## Mill tables (Table 12.1), as the section's bytes -/

/-- n bytes of a section at an offset, as a number. -/
def secNat (s : List Byte) (o n : Nat) : Nat := ofBytes ((s.drop o).take n)
def millV (s : List Byte) : Nat := secNat s 0x08 4
def millMerges (s : List Byte) : Nat := secNat s 0x0C 4
def millLimit (s : List Byte) : Nat := secNat s 0x10 4
def millFlag (s : List Byte) (n : Nat) : Bool := bit (secNat s 7 1) n
def vocabEntry (s : List Byte) (id : Nat) : Nat := secNat s (secNat s 0x18 8 + 8 * id) 8
/-- A token's string. -/
def tokString (s : List Byte) (id : Nat) : List Byte :=
  (s.drop (secNat s 0x20 8 + bits (vocabEntry s id) 31 0)).take (bits (vocabEntry s id) 39 32)
def tokControl (s : List Byte) (id : Nat) : Bool := bit (vocabEntry s id) 40
def tokUnused (s : List Byte) (id : Nat) : Bool := bit (vocabEntry s id) 41
def byteToken (s : List Byte) (b : Nat) : Nat := secNat s (secNat s 0x48 8 + 4 * b) 4

/-- The class of a code point. -/
def classOf (s : List Byte) (cp : Nat) : Nat :=
  let o := secNat s 0x28 8
  let blk := secNat s (o + 2 * (cp / 256)) 2
  let byte := secNat s (o + 8704 + 128 * blk + (cp % 256) / 2) 1
  if cp % 2 = 0 then byte % 16 else byte / 16

/-- Does a piece boundary fall between classes a and b. -/
def splitsAt (s : List Byte) (a b : Nat) : Bool :=
  let n := 16 * a + b
  bit (secNat s (secNat s 0x30 8 + n / 8) 1) (n % 8)

/-- Cut characters into pieces (R304). -/
def pieces (s : List Byte) (cs : List (List Byte)) : List (List (List Byte)) :=
  let st := cs.foldl (fun (st : List (List (List Byte)) × List (List Byte) × Option Nat × Nat) c =>
    let (done, cur, last, len) := st
    let k := classOf s (codePoint c)
    let cut := match last with
      | none => false
      | some a => splitsAt s a k || len + c.length > millLimit s
    if cut then (done ++ [cur], [c], some k, c.length) else (done, cur ++ [c], some k, len + c.length))
    ([], [], none, 0)
  if st.2.1.isEmpty then st.1 else st.1 ++ [st.2.1]

/-! ## Byte-level BPE (R305) -/

/-- The rank and result of a pair in the merge table. -/
def mergeOf (s : List Byte) (a b : Nat) : Option (Nat × Nat) :=
  let o := secNat s 0x38 8
  let rec look : Nat → Nat → Option (Nat × Nat)
    | 0, _ => none
    | n + 1, i =>
      if secNat s (o + 16 * i) 4 = a && secNat s (o + 16 * i + 4) 4 = b
        then some (secNat s (o + 16 * i + 12) 4, secNat s (o + 16 * i + 8) 4) else look n (i + 1)
  look (millMerges s) 0

/-- The lowest rank among adjacent pairs. -/
def bestRank (s : List Byte) : List Nat → Option Nat
  | a :: b :: r =>
    match mergeOf s a b, bestRank s (b :: r) with
    | some (k, _), some m => some (if k ≤ m then k else m)
    | some (k, _), none => some k
    | none, m => m
  | _ => none

/-- Merge the leftmost pair of a rank. -/
def mergeFirst (s : List Byte) (rank : Nat) : List Nat → List Nat
  | a :: b :: r =>
    match mergeOf s a b with
    | some (k, t) => if k = rank then t :: r else a :: mergeFirst s rank (b :: r)
    | none => a :: mergeFirst s rank (b :: r)
  | l => l

/-- Repeat merging until no adjacent pair appears in the table. -/
def bpe (s : List Byte) : Nat → List Nat → List Nat
  | 0, l => l
  | n + 1, l => match bestRank s l with
    | none => l
    | some k => bpe s n (mergeFirst s k l)

/-! ## Unigram (R306) -/

/-- A segmentation of a suffix: tokens, FP32 score, number of tokens. -/
structure Seg where
  toks : List Nat
  lens : List Nat
  score : Nat
  deriving DecidableEq, Repr

/-- Is the first differing token of a longer than b's. -/
def Seg.longer (a b : Seg) : Bool :=
  let rec first : List (Nat × Nat) → List (Nat × Nat) → Bool
    | (t, n) :: r, (u, m) :: q => if t = u then first r q else m < n
    | _, _ => false
  first (a.toks.zip a.lens) (b.toks.zip b.lens)

/-- Is a better than b: greater score, then fewer tokens, then the first differing token longer. -/
def Seg.better (a b : Seg) : Bool :=
  if flt b.score a.score then true
  else if flt a.score b.score then false
  else if a.toks.length ≠ b.toks.length then a.toks.length < b.toks.length
  else a.longer b

/-- Is a better than b however both go on alike: a later sum can round unequal scores to one, so the score alone does not
settle it. -/
def Seg.always (a b : Seg) : Bool :=
  !flt a.score b.score && (a.toks.length < b.toks.length || (a.toks.length == b.toks.length && a.longer b))

/-- Keep a segmentation beside those that some way on may still prefer. -/
def Seg.keep (g : Seg) (l : List Seg) : List Seg :=
  if l.any (fun h => h.always g) then l else l.filter (fun h => !g.always h) ++ [g]

/-- Candidates at the start of the characters: token, characters covered. -/
def candidates (s : List Byte) (cs : List (List Byte)) : List (Nat × Nat) :=
  ((upto (millV s)).map (fun id =>
    if tokControl s id || tokUnused s id then []
    else
      let str := tokString s id
      ((upto cs.length).filter (fun k => (cs.take (k + 1)).flatten == str)).map (fun k => (id, k + 1)))).flatten

/-- The best of all segmentations (R306): those that may still win are kept by number of characters consumed; scores are
summed left to right. -/
def unigram (s : List Byte) (cs : List (List Byte)) : List Nat :=
  let sc := fun id => secNat s (secNat s 0x40 8 + 4 * id) 4
  let covered := fun (i : Nat) => (upto cs.length).any (fun j =>
    (candidates s (cs.drop j)).any (fun c => j ≤ i && i < j + c.2))
  let put := fun (b : Tbl (List Seg)) (k : Nat) (g : Seg) => tset b k (g.keep (tget [] b k))
  let ext := fun (best : Tbl (List Seg)) (i : Nat) =>
    (tget [] best i).foldl (fun best g =>
      let rest := cs.drop i
      let best := (candidates s rest).foldl (fun b c =>
        put b (i + c.2) ⟨g.toks ++ [c.1], g.lens ++ [(tokString s c.1).length], fadd g.score (sc c.1)⟩) best
      match rest with
      | [] => best
      | c :: _ =>
        if covered i then best
        else
          let ids := c.map (fun b => byteToken s b.toNat)
          put best (i + 1) ⟨g.toks ++ ids, g.lens ++ ids.map (fun _ => 1),
            ids.foldl (fun a id => fadd a (sc id)) g.score⟩) best
  match leastBy Seg.better (tget [] ((upto cs.length).foldl ext [(0, [⟨[], [], 0⟩])]) cs.length) with
  | some g => g.toks
  | none => []

/-- A piece to tokens. -/
def pieceTokens (s : List Byte) (p : List (List Byte)) : List Nat :=
  if secNat s 6 1 = 0 then
    let bs := p.flatten
    bpe s bs.length (bs.map (fun b => byteToken s b.toNat))
  else
    let p := if millFlag s 1 then p.map (fun c => if c = [0x20] then [0xE2, 0x96, 0x81] else c) else p
    unigram s p

/-- A run of text to token words, and the replacements counted. Tool-origin text sets its flag (R301, Table 00.6). -/
def tokenise (s : List Byte) (tool : Bool) (bs : List Byte) : List Nat × Nat :=
  let (cs, n) := decodeRun bs
  let ids := ((pieces s cs).map (pieceTokens s)).flatten
  (ids.map (fun i => i + b2n tool * 2 ^ 19), n)

/-! ## Output text (R310–R314) -/

/-- Replace each U+2581 by a space. -/
def unspace : List Byte → List Byte
  | 0xE2 :: 0x96 :: 0x81 :: r => 0x20 :: unspace r
  | b :: r => b :: unspace r
  | [] => []

/-- A token's text (R310). -/
def tokText (s : List Byte) (id : Nat) : List Byte :=
  if tokControl s id || tokUnused s id then []
  else if secNat s 6 1 = 1 && millFlag s 1 then unspace (tokString s id) else tokString s id

/-- A record's payload, tokens covered and position, as formed. -/
structure Rec where
  payload : List Byte
  tokens : Nat
  position : Nat
  last : Bool
  deriving DecidableEq, Repr

/-- Form the record in hand. `first` is the log position of the request's first token, `logged` its logged count. -/
def OutText.close (o : OutText) (first logged : Nat) (last : Bool) : OutText × Rec :=
  let pos := if o.counted < logged then first + o.counted else if logged = 0 then 0 else first + logged - 1
  ({ o with cur := [], curTokens := 0, counted := o.counted + o.curTokens, since := none, finished := last },
   ⟨o.cur, o.curTokens, pos, last⟩)

/-- Close records of 44 tokens while more than `most` tokens are to be covered (R43); the first carries the payload in
hand, the others none. `k` records at most. -/
def OutText.spill (first logged most : Nat) : Nat → OutText → OutText × List Rec
  | 0, o => (o, [])
  | k + 1, o =>
    if o.curTokens ≤ most then (o, [])
    else
      let (p, r) := ({ o with curTokens := sat 44 o.curTokens } : OutText).close first logged false
      let (q, rs) := OutText.spill first logged most k { p with curTokens := o.curTokens - sat 44 o.curTokens }
      (q, r :: rs)

/-- Deliver one character, or one token word, of w tokens: closes records as they fill (R43). -/
def OutText.deliver (st : OutText × List Rec) (now first logged limit : Nat) (bs : List Byte) (w : Nat) :
    OutText × List Rec :=
  let (o, out) := st
  let (o, out) := if o.cur.length + bs.length > limit then
      (let (o, r) := o.close first logged false; (o, out ++ [r])) else (o, out)
  let total := o.curTokens + w
  let since := if bs.isEmpty then o.since else match o.since with
    | none => some now
    | x => x
  let o := { o with cur := o.cur ++ bs, curTokens := total, since := since }
  if o.cur.length ≥ limit && total < 44 then (let (o, r) := o.close first logged false; (o, out ++ [r]))
  else (let (o, rs) := o.spill first logged 43 (total / 44 + 1); (o, out ++ rs))

/-- The last character of a matched stop string waits for the record with end set, whatever the hold time (R269). -/
def OutText.keep (st : OutText × List Rec) (first logged : Nat) (bs : List Byte) (w : Nat) : OutText × List Rec :=
  let (o, out) := st
  let (o, out) := if o.cur.length + bs.length > 44 then
      (let (o, r) := o.close first logged false; (o, out ++ [r])) else (o, out)
  let total := o.curTokens + w
  let (o, rs) := ({ o with curTokens := total } : OutText).spill first logged 44 (total / 44 + 1)
  ({ o with cur := o.cur ++ bs, since := none }, out ++ rs)

/-- Group tagged bytes of valid text into characters. -/
def chars : List (Byte × Nat) → List (List Byte × Nat)
  | [] => []
  | (b, w) :: r =>
    match chars r with
    | (c, v) :: q =>
      if (c.headD 0).toNat / 64 = 2 then (b :: c, w + v) :: q else ([b], w) :: (c, v) :: q
    | [] => [([b], w)]

/-- Add a weight to the last of tagged bytes, or answer it. -/
def addTag (l : List (Byte × Nat)) (w : Nat) : List (Byte × Nat) × Nat :=
  match l.getLast? with
  | none => ([], w)
  | some (b, v) => (l.dropLast ++ [(b, v + w)], 0)

/-- Append released characters to tagged text: a replacement's tokens count with the token before (R314). -/
def addChars (l : List (Byte × Nat)) (w : Nat) : List Ch → List (Byte × Nat) × Nat
  | [] => (l, w)
  | c :: cs =>
    if c.bad then
      let (l, v) := addTag l c.tags
      addChars (l ++ c.bytes) (w + v) cs
    else addChars (l ++ c.bytes) w cs

/-- The end of the earliest match that ends past `from_` bytes, the text being bs (R313). -/
def stopEnd (stops : List (List Byte)) (bs : List Byte) (past : Nat) : Option Nat :=
  (((upto (bs.length + 1)).filter (fun e => past < e && stops.any (fun s =>
    s.length ≤ e && ((bs.take e).drop (e - s.length)) == s))).head?)

/-- Length of the longest suffix that is a proper prefix of a stop string, at most 62 bytes. -/
def withheldLen (stops : List (List Byte)) (bs : List Byte) : Nat :=
  ((upto 63).filter (fun n => n ≤ bs.length && stops.any (fun s =>
    n < s.length && s.take n == bs.drop (bs.length - n)))).getLastD 0

/-- U+FFFD substitutions that a token's text brings to the output (R303, R311). -/
def OutText.replaced (o : OutText) (text : List Byte) : Nat :=
  ((utf8Run o.held (text.map (fun b => (b, 0)))).1.filter (·.bad)).length

/-- A token handed to the Mill (R269, R311–R314): the output state, the records closed, whether a stop string
matched. -/
def OutText.token (o : OutText) (tokenMode : Bool) (stops : List (List Byte)) (text : List Byte)
    (word now first logged : Nat) : OutText × List Rec × Bool :=
  let tagged := text.dropLast.map (fun b => (b, 0)) ++ (match text.getLast? with
    | none => []
    | some b => [(b, 1)])
  let (held0, withheld0, extra0) : List (Byte × Nat) × List (Byte × Nat) × Nat :=
    if text.isEmpty then
      (if !o.held.isEmpty then ((addTag o.held 1).1, o.withheld, 0)
       else let (l, w) := addTag o.withheld 1; ([], l, w))
    else (o.held, o.withheld, 0)
  let (cs, held) := utf8Run held0 tagged
  let (rel, extra) := addChars withheld0 extra0 cs
  let bytes := rel.map (·.1)
  let hit := stopEnd stops bytes o.withheld.length
  let n := match hit with
    | some e => e
    | none => bytes.length - withheldLen stops bytes
  let out := rel.take n
  let late := match hit with
    | some _ => ((rel.drop n).map (·.2)).sum + (held.map (·.2)).sum
    | none => 0
  let (out, more) := addTag out late
  let o := { o with held := if hit.isSome then [] else held, withheld := if hit.isSome then [] else rel.drop n }
  if tokenMode then
    let (o, rs) := OutText.deliver (o, []) now first logged 44 (toBytes 4 word) 1
    (o, rs, hit.isSome)
  else
    let st := OutText.deliver (o, []) now first logged 44 [] (extra + more)
    let cs := chars out
    let all := fun (l : List (List Byte × Nat)) => l.foldl (fun st c => OutText.deliver st now first logged 44 c.1 c.2) st
    let (o, rs) := match hit, cs.getLast? with
      | some _, some c => OutText.keep (all cs.dropLast) first logged c.1 c.2
      | _, _ => all cs
    (o, rs, hit.isSome)

/-- The records that end a text: every logged token is covered, at most 44 in each. A character kept for the record with
end set stays in it; it is what `cur` ends in when no hold time runs. -/
def OutText.closeAll (o : OutText) (first logged : Nat) : OutText × List Rec :=
  let o := { o with curTokens := logged - o.counted }
  let kept := if o.since.isNone && o.curTokens > 44 then (((chars (o.cur.map (fun b => (b, 0)))).getLast?).map (·.1)).getD [] else []
  let (o, rs) := ({ o with cur := o.cur.take (o.cur.length - kept.length) } : OutText).spill first logged 44 (o.curTokens / 44 + 1)
  let (o, r) := ({ o with cur := o.cur ++ kept } : OutText).close first logged true
  (o, rs ++ [r])

/-- The end of a request (R314): withheld text and a held prefix are delivered, unless a stop string matched, and the
record with end set closes. -/
def OutText.finish (o : OutText) (tokenMode : Bool) (now first logged : Nat) : OutText × List Rec :=
  let cs := if o.held.isEmpty then [] else [replacement o.held]
  let (rel, extra) := addChars o.withheld 0 cs
  let o := { o with held := [], withheld := [] }
  let st := if tokenMode then (o, []) else
    (chars rel).foldl (fun st c => OutText.deliver st now first logged 44 c.1 c.2)
      (OutText.deliver (o, []) now first logged 44 [] extra)
  let (o, rs) := if tokenMode then (let (o, r) := st.1.close first logged true; (o, [r])) else st.1.closeAll first logged
  (o, st.2 ++ rs)

end Sys2Proof.Machine
end

