-- ==== Sys2Proof/Machine/Ops.lean ====
section
/-! DEFINITION. Shared operations over the tables: tenants, request entries, completions, the end of a request, and
the release of what it held (02, 03; R216, R274, R312, R315). -/

namespace Sys2Proof.Machine

/-! ## Tenants and waiting times (R200, R215, R216) -/

def Device.tenant (d : Device) (t : Nat) : Tenant := tget {} d.kn.tenants t
def Device.modTenant (d : Device) (t : Nat) (f : Tenant → Tenant) : Device :=
  { d with kn := { d.kn with tenants := tset d.kn.tenants t (f (d.tenant t)) } }

/-! ## Requests -/

def Device.req (d : Device) (i : Nat) : Request := tget {} d.reqs i
def Device.setReq (d : Device) (i : Nat) (r : Request) : Device := { d with reqs := tset d.reqs i r }
def Device.modReq (d : Device) (i : Nat) (f : Request → Request) : Device := d.setReq i (f (d.req i))

/-- Live: from admission until its completion entry is written (R32). -/
def Request.live (r : Request) : Bool := r.state != .free

/-- In a state from which it can still end (not FREE, DONE or FAILED). -/
def Request.going (r : Request) : Bool := r.state != .free && r.state != .done && r.state != .failed

/-- The live request of a session. -/
def Device.reqOf (d : Device) (session : Nat) : Option Nat :=
  (d.reqs.find? (fun r => r.2.live && r.2.session == session)).map (·.1)

/-- Has the request a chunk posted or running. -/
def Request.inChunk (r : Request) : Bool := r.chunk.isSome

/-- Does the time that passes count as queue waiting time of the request's tenant, or as frame waiting time (R216). -/
def Request.queueing (r : Request) : Bool := match r.state with
  | .ready => true
  | .prefill => !r.inChunk && r.waitFrom.isNone
  | .rebuild => !r.inChunk && r.waitFrom.isNone
  | _ => false
def Request.frameWaiting (r : Request) : Bool := match r.state with
  | .waitPage => true
  | .waitFetch => true
  | .prefill => !r.inChunk && r.waitFrom.isSome
  | .rebuild => !r.inChunk && r.waitFrom.isSome
  | _ => false

/-- Charge the time since the last change of the request's condition to its tenant (R215, R216). -/
def Device.charge (e : Env) (d : Device) (i : Nat) : Device :=
  let r := d.req i
  let dt := e.now - r.since
  let d := if r.queueing then d.modTenant r.tenant (fun t => { t with queueWait := sat lim64 (t.queueWait + dt) })
    else if r.frameWaiting then d.modTenant r.tenant (fun t => { t with frameWait := sat lim64 (t.frameWait + dt) }) else d
  d.modReq i (fun r => { r with since := e.now })

/-- Change a request's state, charging the wait that ends (R61, R216). A request that has logged no token takes its
entry into READY as its last token's time (R195). -/
def Device.setState (e : Env) (d : Device) (i : Nat) (st : ReqState) : Device :=
  (d.charge e i).modReq i (fun r => { r with
    state := st, lastToken := if st == .ready && r.logged == 0 then e.now else r.lastToken })

/-- Remove a request's seat. -/
def Device.unseat (d : Device) (i : Nat) : Device :=
  { d with kn := { d.kn with seats := d.kn.seats.filter (fun s => s.2 != i) } }

/-! ## Adapters and grammars freed with their last holder (R274, R315) -/

/-- Holders of an adapter version: live requests and EMBEDs in flight. -/
def Device.adapterRefs (d : Device) (slot version : Nat) : Nat :=
  (d.reqs.filter (fun r => r.2.live && r.2.version != 0 && r.2.adapter == slot && r.2.version == version)).length
    + (d.oven.embeds.filter (fun x => x.version != 0 && x.adapter == slot && x.version == version)).length

/-- Free the frames of every version that is neither current nor held; an empty slot is unbound (R270, R274). -/
def Device.sweepAdapters (d : Device) : Device :=
  let keep := fun (s : Nat) (a : AdapterSlot) =>
    let used := fun (v : Nat) => a.current == some v || d.adapterRefs s v > 0
    { a with versions := a.versions.filter (fun v => used v.1), data := a.data.filter (fun v => used v.1) }
  { d with adapters := (d.adapters.map (fun a => (a.1, keep a.1 a.2))).filter (fun a => !a.2.versions.isEmpty) }

/-- Free grammar handles; their masks leave the cache with their store space. -/
def Device.keepGrammars (d : Device) (keep : Nat × Grammar → Bool) : Device :=
  let gs := d.grammars.filter keep
  { d with grammars := gs, mill := { d.mill with cache := d.mill.cache.filter (fun x => gs.any (fun g => g.1 == x.1)) } }

/-- Free the draining grammar handles that no live request holds (R315). -/
def Device.sweepGrammars (d : Device) : Device :=
  d.keepGrammars (fun g => !g.2.draining || d.reqs.any (fun r => r.2.live && r.2.grammar == g.1))

/-! ## Freeing a request entry (R51, R53) -/

/-- The context ceases to be live; an anonymous one is demoted without a record (R67). -/
def Device.dropLive (e : Env) (d : Device) (i : Nat) : Device :=
  let r := d.req i
  if !r.ctxValid then d else
    let d := d.modCtx r.context (fun c => { c with live := false, grammar := { c.grammar with active := false } })
    if r.session = 0 then (d.demote r.context false).demoted e r.context
    else if (d.ctx r.context).demoteDue then (d.modCtx r.context (fun c => { c with demoteDue := false })).demote r.context true
    else d

/-- The entry returns to FREE: its state becomes 0, every other field of Table 03.1 keeps its value. -/
def Device.freeReq (e : Env) (d : Device) (i : Nat) : Device :=
  let d := d.dropLive e i
  let d := d.modReq i (fun r => { r with state := .free, stopSlot := false, parts := [], staged := [], kept := [],
                                         slot := false, out := {} })
  ({ d with freed := d.freed ++ [i] }).sweepAdapters.sweepGrammars

/-- Take a FREE entry: never used ones in rising index, then least recently freed first (R53, log 9). -/
def Device.allocReq (d : Device) : Option (Nat × Device) :=
  if d.fresh < Config.requestEntries then some (d.fresh, { d with fresh := d.fresh + 1 })
  else match d.freed with
    | [] => none
    | i :: r => some (i, { d with freed := r })

/-! ## Completions (R38, Table 02.8) -/

/-- The bytes of a completion entry, phase aside. -/
def Completion.bytes (c : Completion) (head : Nat) : List Byte :=
  let who := match c.request with
    | some r => r * 2 ^ 32
    | none => 2 ^ 52
  toBytes 8 (c.cookie % 2 ^ 32 + who + c.status * 2 ^ 56)
    ++ toBytes 8 (head + c.ring * 2 ^ 16 + c.reason * 2 ^ 24 + c.detail * 2 ^ 32)
    ++ toBytes 8 c.result ++ toBytes 8 (c.quality % 2 ^ 63)

/-- What a written completion frees: the descriptor's place in flight, the request entry. -/
def Device.finish (e : Env) (d : Device) (c : Completion) : Device :=
  let d := { d with inflight := d.inflight.filter (fun x => x.seq != c.seq) }
  match c.request with
  | some i => d.freeReq e i
  | none => d

/-- Write a completion on the ring bound to its submission ring (R31). -/
def Device.writeCompletion (e : Env) (d : Device) (c : Completion) : Device :=
  let d := d.putEntry e .cq (sqCq e c.ring) (c.bytes (d.sqr c.ring).head) (!(c.quiet && c.status == 0))
    (c.status ≥ 0x40)
  d.finish e c

/-- Write a completion, or hold it while its ring has no free entry or the link is down (R28, R21). -/
def Device.complete (e : Env) (d : Device) (c : Completion) : Device :=
  let n := sqCq e c.ring
  let r := d.ring .cq n
  if r.held.isEmpty && d.canPut e .cq n then d.writeCompletion e c
  else d.setRing .cq n { r with held := r.held ++ [c] }

/-- Write held completions of a ring while it has room, at most k of them. -/
def Device.flushHeld (e : Env) (n : Nat) : Nat → Device → Device
  | 0, d => d
  | k + 1, d =>
    let r := d.ring .cq n
    match r.held with
    | [] => d
    | c :: rest =>
      if d.canPut e .cq n then ((d.setRing .cq n { r with held := rest }).writeCompletion e c).flushHeld e n k else d

/-- Complete a fetched descriptor without a request entry. -/
def Device.completeD (e : Env) (d : Device) (f : Fetched) (status detail result : Nat) : Device :=
  match f.ring with
  | none => d
  | some ring =>
    let q0 := f.q.headD 0
    d.complete e ⟨f.seq, ring, bits q0 63 32, none, status, 0, detail, result, 0, bit q0 9⟩

/-- The quality flags of a request's context (R237). -/
def Context.quality (x : Context) : Nat :=
  x.fallbacks.getD 0 0 + x.fallbacks.getD 1 0 * 2 ^ 16 + x.fallbacks.getD 2 0 * 2 ^ 32 + sat 32767 (x.fallbacks.getD 3 0) * 2 ^ 48

/-- The completion of a request that has ended (Table 02.8). -/
def Device.reqCompletion (d : Device) (i : Nat) : Completion :=
  let r := d.req i
  let q := if r.ctxValid then (d.ctx r.context).quality else 0
  ⟨r.seq, r.sq, r.cookie, some i, r.endStatus, r.reason, r.detail, r.logged + r.oven * 2 ^ 23, q, bit (r.desc.headD 0) 9⟩

/-! ## Stream records (R42, R43, R378) -/

/-- Records of a request put in the queue of the host outlet. -/
def Device.emit (e : Env) (d : Device) (i : Nat) (rs : List Rec) : Device :=
  if rs.isEmpty then d else
  let d := d.settleOutlet e 8
  let r := d.req i
  let mk := fun (x : Rec) => (⟨r.stream, i, r.cookie, if r.tokenMode then 2 else 1, x.last, x.position, x.tokens,
    x.payload⟩ : StreamRec)
  { d with prf := { d.prf with hostQueue := d.prf.hostQueue ++ rs.map mk } }

/-- Count U+FFFD substitutions (Table 12.9). -/
def Device.noteReplaced (d : Device) (n : Nat) : Device :=
  { d with mill := { d.mill with replacements := sat lim32 (d.mill.replacements + n) } }

/-- Close the request's last record, with end set (R314). -/
def Device.finishOut (e : Env) (d : Device) (i : Nat) : Device :=
  let r := d.req i
  if r.out.finished then d else
    let (o, rs) := r.out.finish r.tokenMode e.now r.genStart r.logged
    let d := d.noteReplaced (b2n (!r.tokenMode && !r.out.held.isEmpty))
    (d.modReq i (fun r => { r with out := o })).emit e i rs

/-! ## The end of a request (R61, R62, R66) -/

/-- The higher of two DONE details (R66). -/
def doneDetail (r : Request) (detail : Nat) : Nat :=
  let a := if r.pinRefused then 3 else 0
  let b := if r.noExtent then 4 else 0
  let m := if a < b then b else a
  if m < detail then detail else m

/-- Has a request a chunk not yet posted: none posted, or the posted one is not its last. -/
def Request.moreChunks (r : Request) : Bool :=
  (r.state == .prefill || r.state == .rebuild) && (match r.chunk with
    | none => true
    | some c => decide (c.2 < r.target))

/-- Is a tenant Oven-active: a request with a chunk not yet posted, an EMBED with a row group not yet posted (R201). -/
def Device.ovenActive (d : Device) (t : Nat) : Bool :=
  d.reqs.any (fun r => r.2.tenant == t && r.2.moreChunks)
    || d.oven.embeds.any (fun x => x.tenant == t && !x.groups.isEmpty && x.textLeft == 0)

/-- A tenant that is not Oven-active has Oven deficit 0 (R201). -/
def Device.dropDeficit (d : Device) (t : Nat) : Device :=
  if (d.tenant t).ovenDeficit = 0 || d.ovenActive t then d else d.modTenant t (fun x => { x with ovenDeficit := 0 })

/-- End a live request: DONE or FAILED with its status, its seat, slot and stagings released, its last record closed.
Its completion follows its end record (R27, R378). -/
def Device.endReq (e : Env) (d : Device) (i status reason detail : Nat) : Device :=
  let r := d.req i
  if !r.going then d else
  let d := d.setState e i (if status = 0 then .done else .failed)
  let det := if status = 0 then doneDetail r detail else detail
  let d := d.modReq i (fun r => { r with endStatus := status, reason := reason, detail := det, chunk := none,
                                         slot := false, kept := [], parts := [], staged := [], waitFrom := none,
                                         ending := none, reserved := false })
  let d := d.unseat i
  let d := { d with kn := { d.kn with growTries := d.kn.growTries.filter (· != i) } }
  let d := if r.ctxValid then
      (d.dropStagings (fun c _ _ => c == r.context)).modCtx r.context (fun c => { c with lastUse := e.now })
    else d
  let d := if status = 0x30 then { d with mill := { d.mill with dead := sat lim32 (d.mill.dead + 1) } } else d
  (d.dropDeficit r.tenant).finishOut e i

/-- A resident context as it stood before the request was bound to it (R39, R58). -/
def Device.unbind (d : Device) (i : Nat) : Device :=
  let r := d.req i
  match r.prior with
  | none => d
  | some s => d.modCtx r.context (fun x => { x with
      parked := s.parked, cls := s.cls, tenant := s.tenant, fallbacks := s.fallbacks, sampler := s.sampler,
      grammar := s.grammar })

/-- Refuse a request after admission (R58): the entry returns to FREE, its resident context stands as before, the
completion names no entry. -/
def Device.refuseReq (e : Env) (d : Device) (i status detail : Nat) : Device :=
  let r := d.req i
  let d := (d.unbind i).freeReq e i
  d.complete e ⟨r.seq, r.sq, r.cookie, none, status, 0, detail, 0, 0, bit (r.desc.headD 0) 9⟩

/-- The log length of a request's session at this moment. -/
def Device.curLen (d : Device) (r : Request) : Nat := (d.ctx r.context).logLength

/-- A request whose frames were taken: one that ends at the next boundary leaves from its state (R11); else REBUILD with its target raised to the log length, or PREFILL still when V has
not fallen below the log length before its commit (R61). -/
def Device.backToOven (e : Env) (d : Device) (i : Nat) : Device :=
  let r := d.req i
  let x := d.ctx r.context
  let toRebuild := match r.state with
    | .prefill => x.valid < r.baseLog
    | .rebuild => false
    | .ready => true
    | .seated => true
    | .waitPage => true
    | .waitFetch => true
    | _ => false
  if !toRebuild || r.ending.isSome then d else
  let was := r.state
  let d := (d.setState e i .rebuild).unseat i
  let d := { d with kn := { d.kn with growTries := d.kn.growTries.filter (· != i) } }
  d.modReq i (fun r => { r with target := if was == .prefill then r.target else x.logLength,
                                slot := false, kept := [], waitFrom := none,
                                revivedMark := !r.revivedDone })

/-- The live request of a context, if it has one. -/
def Device.liveReq (d : Device) (c : Nat) : Option Nat :=
  let x := d.ctx c
  if x.live then some x.request else none

/-- V is lowered to a position; entries at or past it are the caller's. A live request past commit goes back. -/
def Device.lowerV (e : Env) (d : Device) (c v : Nat) : Device :=
  let d := d.modCtx c (fun x => { x with valid := if v < x.valid then v else x.valid,
                                         prefixLen := if v < x.prefixLen then v / 256 * 256 else x.prefixLen })
  match d.liveReq c with
  | some i => d.backToOven e i
  | none => d

/-- Take a context's frames: own pages dropped, V at its shared coverage, its request back to REBUILD. -/
def Device.takeFrames (e : Env) (d : Device) (c : Nat) : Device :=
  let d := d.dropOwn c
  match d.liveReq c with
  | some i => d.backToOven e i
  | none => d

end Sys2Proof.Machine
end

