-- ==== Sys2Proof/Machine/Operands.lean ====
section
/-! DEFINITION. Operand forms: the descriptor's fields (Tables 02.3–02.5), the form checks in the order of R447, input
blocks (R36, R301), sampling blocks (R252–R254). -/

namespace Sys2Proof.Machine

/-! ## Descriptor fields (Table 02.3) -/

def Fetched.w (f : Fetched) (i : Nat) : Nat := f.q.getD i 0
def Fetched.op (f : Fetched) : Nat := bits (f.w 0) 7 0
def Fetched.fence (f : Fetched) : Bool := bit (f.w 0) 8
def Fetched.quiet (f : Fetched) : Bool := bit (f.w 0) 9
def Fetched.pin (f : Fetched) : Bool := bit (f.w 0) 10
def Fetched.tokenMode (f : Fetched) : Bool := bit (f.w 0) 11
def Fetched.packed (f : Fetched) : Bool := bit (f.w 0) 12
def Fetched.tenant (f : Fetched) : Nat := bits (f.w 0) 27 16
def Fetched.priority (f : Fetched) : Nat := bits (f.w 0) 30 28
def Fetched.cookie (f : Fetched) : Nat := bits (f.w 0) 63 32
def Fetched.session (f : Fetched) : Nat := bits (f.w 1) 31 0
def Fetched.recipe (f : Fetched) : Nat := bits (f.w 1) 35 32
def Fetched.adapter (f : Fetched) : Nat := bits (f.w 1) 47 36
def Fetched.version (f : Fetched) : Nat := bits (f.w 1) 55 48

/-- Class of an opcode (Table 02.4). -/
inductive OpClass where
  | c | g | m | w
  deriving DecidableEq, Repr

/-- Table 02.4; none for an unknown opcode. -/
def opClass (op : Nat) : Option OpClass :=
  if op = 0x01 then some .g
  else if op ≤ 0x05 then some .c
  else if op = 0x12 || op = 0x20 || op = 0x21 || op = 0x22 then some .w
  else if op = 0x10 || op = 0x11 || op = 0x13 || (0x18 ≤ op && op ≤ 0x1D) || (0x30 ≤ op && op ≤ 0x33) || op = 0x3F
    then some .m
  else none

/-- Mask of bits [hi:lo]. -/
def mask (hi lo : Nat) : Nat := (2 ^ (hi + 1 - lo) - 1) * 2 ^ lo
/-- All 64 bits. -/
def full : Nat := lim64

/-- The bits an opcode uses in Q0 to Q7; every other bit is rsvd (Table 02.5, R35). -/
def usedBits (op session : Nat) : List Nat :=
  let q0 := mask 9 0 + mask 27 16 + mask 30 28 + mask 63 32
  let s := mask 31 0
  let r := mask 35 32
  let rav := mask 55 32
  let anon := if session = 0 then mask 35 0 else 0
  match op with
  | 0x00 => [q0, s, 0, 0, 0, 0, 0, 0]
  | 0x01 => [q0 + mask 11 10, mask 55 0, full, mask 55 0, full, mask 15 0, full, mask 23 0]
  | 0x02 => [q0, s, 0, 0, anon, 0, 0, 0]
  | 0x03 => [q0, s, 1, 0, 0, 0, 0, 0]
  | 0x04 => [q0, s, full, mask 4 0, anon, 0, 0, 0]
  | 0x05 => [q0, s, mask 5 0 + mask 31 16, 0, 0, 0, 0, 0]
  | 0x10 => [q0, 0, mask 16 0 + mask 63 32, 0, 0, 0, 0, 0]
  | 0x11 => [q0, 0, mask 15 0, full, mask 31 0, 0, 0, 0]
  | 0x12 => [q0 + mask 12 12, r, mask 47 0, mask 15 0, full, mask 31 0, 0, 0]
  | 0x13 => [q0, 0, mask 31 0, 0, 0, 0, 0, 0]
  | 0x18 => [q0, r, full, mask 39 0, 0, 0, 0, 0]
  | 0x19 => [q0, r, 0, 0, 0, 0, 0, 0]
  | 0x1A => [q0, rav, full, mask 39 0, 0, 0, 0, 0]
  | 0x1B => [q0, rav, 0, 0, 0, 0, 0, 0]
  | 0x1C => [q0, r, full, mask 51 0, 0, 0, 0, 0]
  | 0x1D => [q0, 0, 0, mask 51 40, 0, 0, 0, 0]
  | 0x20 => [q0 + mask 12 12, rav, full, mask 15 0, full, mask 39 0, 0, 0]
  | 0x21 => [q0, 0, full, mask 39 0, full, mask 31 0, 0, 0]
  | 0x22 => [q0, 0, full, mask 47 0, 0, 0, 0, 0]
  | 0x30 => [q0, 0, full, mask 16 0 + mask 63 32, 0, 0, 0, 0]
  | 0x31 => [q0, 0, 0, mask 31 0, 0, 0, 0, 0]
  | 0x32 => [q0, 0, full, mask 31 0, full, full, full, full]
  | 0x33 => [q0, 0, full, full, 0, 0, 0, 0]
  | 0x3F => [q0, 0, full, full, 0, 0, 0, 0]
  | _ => [full, full, full, full, full, full, full, full]

/-- A nonzero rsvd field (R8, R35). -/
def Fetched.rsvdBad (f : Fetched) : Bool :=
  ((f.q.zip (usedBits f.op f.session)).any (fun x => x.1 &&& x.2 != x.1))

/-- A misaligned address (Table 02.5: 64-byte and 4 KiB addresses). -/
def Fetched.misaligned (f : Fetched) : Bool :=
  let a64 := match f.op with
    | 0x01 => [4, 6]
    | 0x11 => [3]
    | 0x12 => [4]
    | 0x20 => [2, 4]
    | 0x21 => [2, 4]
    | 0x22 => [2]
    | 0x30 => [2]
    | 0x32 => [2]
    | _ => []
  let a4k := match f.op with
    | 0x18 => [2]
    | 0x1A => [2]
    | 0x1C => [2]
    | 0x33 => [2]
    | 0x3F => [2]
    | _ => []
  a64.any (fun i => f.w i % 64 != 0) || a4k.any (fun i => f.w i % 4096 != 0)

/-- Does a range pass the top of the address space (R20). -/
def passes (a n : Nat) : Bool := n > 0 && a + n > 2 ^ 64

/-- A field out of range (R447, check 6), of the descriptor itself. -/
def Fetched.outOfRange (f : Fetched) : Bool :=
  let q := f.w
  match f.op with
  | 0x01 => passes (q 4) (16 * bits (q 5) 15 0) || (f.adapter != 0 && f.version == 0)
  | 0x03 => f.session == 0
  | 0x10 => bits (q 2) 15 0 == 0
  | 0x11 => passes (q 3) (bits (q 4) 31 0)
  | 0x12 => passes (q 4) (bits (q 5) 31 0)
  | 0x18 => passes (q 2) (bits (q 3) 39 0)
  | 0x1A => passes (q 2) (bits (q 3) 39 0) || f.version == 0 || f.version == 255
  | 0x1B => f.adapter != 0 && f.version == 0
  | 0x1C => passes (q 2) (bits (q 3) 39 0) || bits (q 3) 51 40 == 0
  | 0x20 => passes (q 2) (16 * bits (q 3) 15 0) || passes (q 4) (bits (q 5) 39 0)
      || (f.adapter != 0 && f.version == 0)
  | 0x21 => bits (q 3) 26 16 == 0 || bits (q 3) 26 16 > 1024 || bits (q 3) 39 27 > 4096
      || passes (q 4) (bits (q 5) 31 0) || passes (q 2) 0x80
      || bits (q 5) 31 0 < 16 * bits (q 3) 26 16
      || (bits (q 3) 39 27 != 0 && bits (q 3) 39 27 < bits (q 3) 26 16)
  | 0x22 => passes (q 2) (128 * bits (q 3) 47 16)
  | 0x30 => bits (q 3) 16 0 == 0 || bits (q 3) 16 0 > 65536 || passes (q 2) (bits (q 3) 16 0)
  | 0x32 => bits (q 3) 31 0 < 6144 || passes (q 2) (bits (q 3) 31 0)
  | 0x33 => bits (q 3) 63 32 != 0x43414C57 || bits (q 3) 31 0 > 1966080 || passes (q 2) (bits (q 3) 31 0)
  | 0x3F => bits (q 3) 63 32 < 135808 || passes (q 2) (bits (q 3) 63 32)
  | _ => false

/-- Is the descriptor's opcode or flag for privileged rings only (R33). -/
def Fetched.needsPriv (f : Fetched) : Bool :=
  opClass f.op == some .m || f.op == 5 || (f.packed && (f.op == 0x12 || f.op == 0x20))

/-- The form checks in the order of R447: the detail of the first rule broken. -/
def Fetched.form (e : Env) (f : Fetched) : Option Nat :=
  let priv := match f.ring with
    | some n => sqPriv e n
    | none => true
  let bound := match f.ring with
    | some n => sqTenant e n
    | none => 0
  if opClass f.op == none then some 1
  else if !priv && f.needsPriv then some 5
  else if !priv && f.tenant != bound then some 6
  else if f.rsvdBad then some 2
  else if f.misaligned then some 4
  else if f.outOfRange then some 3
  else none

/-! ## Input blocks (R36, R301) -/

/-- A span entry (Table 02.6). -/
structure Span where
  addr : Nat
  len : Nat
  type : Nat
  rsvd : Nat
  deriving DecidableEq, Repr

/-- Read the span entries of an input block. -/
def Device.spans (d : Device) (a n : Nat) : List Span :=
  (upto n).map (fun i =>
    let w := d.hostNat (a + 16 * i + 8) 8
    ⟨d.hostNat (a + 16 * i) 8, bits w 31 0, bits w 35 32, bits w 63 36⟩)

/-- A faulty span entry (R36, R20). -/
def Span.bad (s : Span) : Bool :=
  s.type ≥ 4 || s.rsvd != 0 || (s.type ≥ 2 && s.len % 4 != 0) || passes s.addr s.len

/-- The text limits of R301. -/
def textOver (ss : List Span) : Bool :=
  let ts := ss.filter (fun s => s.type ≤ 1)
  ts.any (fun s => s.len > 16777216) || (ts.map (·.len)).sum > 67108864

/-- The token words of a type 2 or 3 span. -/
def Device.spanWords (d : Device) (s : Span) : List Nat :=
  (upto (s.len / 4)).map (fun i => d.hostNat (s.addr + 4 * i) 4)

/-- The detail of the first fault in a word list (R36, R307). -/
def wordFault (mill : List Byte) (type : Nat) : List Nat → Option Nat
  | [] => none
  | w :: ws =>
    if w ≥ 2 ^ 18 then some 3
    else if w ≥ millV mill then some 3
    else if type = 2 && !tokControl mill w then some 3
    else if type = 3 && tokControl mill w then some 8
    else wordFault mill type ws

/-- The detail of the first faulty span of an input block, in array order: its entry, then its words (R36, R447). -/
def Device.inputFault (d : Device) (mill : List Byte) (ss : List Span) : Option Nat :=
  (ss.filterMap (fun s => if s.bad then some 3 else if s.type ≥ 2 then wordFault mill s.type (d.spanWords s) else none)).head?

/-- The same for an EMBED, which has no span of type 2 (R151). -/
def Device.embedFault (d : Device) (mill : List Byte) (ss : List Span) : Option Nat :=
  d.inputFault mill (ss.map (fun s => if s.type = 2 then { s with type := 4 } else s))

/-- The parts of an input in span order: adjacent text spans of one type form a run (R301). Flags of the words are
set as they are staged (R10). -/
def Device.inputParts (d : Device) (ss : List Span) : List Part :=
  ss.foldl (fun (ps : List Part) s =>
    if s.type ≤ 1 then
      if s.len = 0 then ps
      else
        let bs := d.hostRead s.addr s.len
        match ps.getLast? with
        | some (.text tool old) =>
          if tool == (s.type == 1) then ps.dropLast ++ [.text tool (old ++ bs)] else ps ++ [.text (s.type == 1) bs]
        | _ => ps ++ [.text (s.type == 1) bs]
    else ps ++ [.words ((d.spanWords s).map (fun w => w + (if s.type = 2 then 2 ^ 18 else 0)))]) []

/-- Bytes of text in parts. -/
def partsText (ps : List Part) : Nat :=
  (ps.map (fun p => match p with
    | .text _ bs => bs.length
    | .words _ => 0)).sum

/-- The staged token words of parts, and replacements counted (R57, R303). -/
def stageParts (mill : List Byte) (ps : List Part) : List Nat × Nat :=
  ps.foldl (fun (a : List Nat × Nat) p => match p with
    | .text tool bs => let (ws, n) := tokenise mill tool bs; (a.1 ++ ws, a.2 + n)
    | .words ws => (a.1 ++ ws, a.2)) ([], 0)

/-! ## Sampling blocks (R252–R254) -/

/-- Fields of a sampling block out of range; `v` is the Recipe's vocabulary. -/
def samplingBad (q : Nat → Nat) : Bool :=
  let t := bits (q 1) 31 0
  let p := bits (q 2) 31 0
  let m := bits (q 2) 63 32
  let r := bits (q 3) 31 0
  let f := bits (q 3) 63 32
  let pr := bits (q 4) 31 0
  bits (q 1) 63 53 != 0 || bits (q 4) 63 58 != 0 || bits (q 6) 63 11 != 0
    || !isFinite32 t || flt t 0
    || isNan p || flt p 0 || flt oneF32 p
    || isNan m || flt m 0 || !flt m oneF32
    || !isFinite32 r || flt r 0
    || !isFinite32 f || !isFinite32 pr
    || bits (q 1) 49 32 > 262143
    || bits (q 4) 44 32 > 4096 || bits (q 4) 57 53 > 16 || bits (q 6) 10 0 > 1024
    || (bits (q 6) 10 0 > 0 && q 5 == 0) || (bits (q 4) 57 53 > 0 && q 7 == 0)
    || passes (q 5) (8 * bits (q 6) 10 0) || passes (q 7) (64 * bits (q 4) 57 53)

/-- A bias entry out of range (R253, R254). -/
def biasBad (vocab w : Nat) : Bool :=
  let b := bits w 63 32
  bits w 31 18 != 0 || bits w 17 0 ≥ vocab || isNan b || b == posInf

/-- A stop entry out of range (R253, R254). -/
def stopBad (bs : List Byte) : Bool :=
  let n := (bs.headD 0).toNat
  n == 0 || n > 63 || (bs.drop (n + 1)).any (· != 0) || !validUtf8 ((bs.drop 1).take n)

/-- Read a sampling block at an address: the detail of its first fault, or the block (R254). Address 0 gives the
defaults. -/
def Device.samplingAt (d : Device) (a vocab : Nat) : Sum Nat Sampling :=
  if a = 0 then .inr {}
  else
    let q := fun i => d.hostNat (a + 8 * i) 8
    if samplingBad q then .inl 3
    else if q 5 % 64 != 0 || q 7 % 64 != 0 then .inl 4
    else
      let bias := (upto (bits (q 6) 10 0)).map (fun i => d.hostNat (q 5 + 8 * i) 8)
      let stops := (upto (bits (q 4) 57 53)).map (fun i => d.hostRead (q 7 + 64 * i) 64)
      if bias.any (biasBad vocab) || stops.any stopBad then .inl 3
      else .inr {
        seed := q 0, temperature := bits (q 1) 31 0, topK := bits (q 1) 49 32, ignoreEos := bit (q 1) 51,
        scopeLog := bit (q 1) 52, topP := bits (q 2) 31 0, minP := bits (q 2) 63 32, repetition := bits (q 3) 31 0,
        frequency := bits (q 3) 63 32, presence := bits (q 4) 31 0, window := bits (q 4) 44 32,
        draftMax := bits (q 4) 52 45,
        bias := bias.map (fun w => (bits w 17 0, bits w 63 32)),
        stops := stops.map (fun bs => (bs.drop 1).take (bs.headD 0).toNat) }

/-- Does the block carry a seed of its own (R252). -/
def Device.seedGiven (d : Device) (a : Nat) : Bool := a != 0 && bit (d.hostNat (a + 8) 8) 50

end Sys2Proof.Machine
end

