-- ==== Sys2Proof/Machine/Doorbells.lean ====
section
/-! DEFINITION. Doorbells, descriptor fetch, NOP (02: R25, R29, R30, R34, R35, R447; R390). -/

namespace Sys2Proof.Machine

/-! ## Doorbells (R25, R429) -/

/-- The host's doorbell page is heard: the link is up and the device answers. -/
def Device.heard (d : Device) : Bool := d.hostUp && d.hif.linkUp

/-- A new tail: a value at or beyond the ring's size sets bad doorbell; any other one is the tail, and resumes a
stopped ring (R25, R29). -/
def effSubmission (ring width value : Nat) (e : Env) (d : Device) : Device :=
  let r := d.sqr ring
  let v := value % 65536
  if !d.heard || d.mode == .halted || width != 4 || !r.enabled then d
  else if v ≥ sqSize e ring then d.setSq ring { r with bad := true }
  else d.setSq ring { r with tail := v, stopped := false }

/-- A new head of a device-produced ring. -/
def effHead (k : RingKind) (ring width value : Nat) (e : Env) (d : Device) : Device :=
  if !d.heard || width != 4 || !(d.ring k ring).enabled then d
  else d.moveHead e k ring value

/-- A completion ring's head: freed entries take held completions (R28). -/
def effCompletionHead (ring width value : Nat) (e : Env) (d : Device) : Device :=
  let d := effHead .cq ring width (value % 2 ^ 20) e d
  if d.mode == .halted then d else d.flushHeld e ring ((d.ring .cq ring).held.length)

def execSubmissionDoorbell (t ring width value : Nat) (visible : List (Nat × Byte)) (s : State) :
    Host.Outcome State Fault Refusal :=
  s.act t (fun e d => effSubmission ring width value e (d.visible visible))

def execCompletionDoorbell (t ring width value : Nat) (s : State) : Host.Outcome State Fault Refusal :=
  s.act t (effCompletionHead ring width value)

def execTokenStreamDoorbell (t ring width value : Nat) (s : State) : Host.Outcome State Fault Refusal :=
  s.act t (effHead .ts ring width (value % 2 ^ 16))

def execEventDoorbell (t width value : Nat) (s : State) : Host.Outcome State Fault Refusal :=
  s.act t (effHead .eq 0 width (value % 2 ^ 16))

/-! ## Fetch -/

/-- Class W descriptors in flight (R34). -/
def Device.classW (d : Device) : Nat := (d.inflight.filter (fun x => opClass x.op == some .w)).length

/-- May the device fetch from a ring: enabled, not stopped, a descriptor waits, the link up; in recovery ring 0 only
(R390). -/
def Device.canFetch (e : Env) (d : Device) (ring : Nat) : Bool :=
  let r := d.sqr ring
  d.hif.linkUp && r.enabled && !r.stopped && r.head != r.tail
    && (d.serving e || (d.mode == .recovery && ring == 0))

/-- The descriptor at a ring's head. -/
def Device.peek (e : Env) (d : Device) (ring : Nat) : Fetched :=
  let a := sqBase e ring + 64 * (d.sqr ring).head
  ⟨some ring, d.nextSeq, (upto 8).map (fun i => d.hostNat (a + 8 * i) 8)⟩

/-- Opcodes served in recovery (R390). -/
def recoveryOp (op : Nat) : Bool := op == 0x30 || op == 0x31 || op == 0x32 || op == 0x3F

/-- Fetch one descriptor, check its form, and complete it or queue it for its opcode (R35, R447, R34). DESIGN CHOICE
(log 108): a malformed descriptor is refused here, at its fetch, also where its fence, or a started class M descriptor
before it, would hold it back from starting (R30). -/
def effFetch (ring : Nat) (e : Env) (d : Device) : Device :=
  if !d.canFetch e ring then d else
  let f := d.peek e ring
  if opClass f.op == some .w && d.classW ≥ Config.maxClassW then d else
  let r := d.sqr ring
  let d := d.setSq ring { r with head := (r.head + 1) % sqSize e ring }
  let x : InFlight := ⟨f.seq, ring, f.cookie, f.op, f.quiet, false⟩
  let d := { d with nextSeq := d.nextSeq + 1, inflight := d.inflight ++ [x] }
  if d.mode == .recovery && !recoveryOp f.op then d.completeD e f 0xFF 7 0
  else match f.form e with
    | some detail => d.completeD e f 0x20 detail 0
    | none => { d with fetched := d.fetched ++ [f] }

/-- A fetch fails on the link: fetching stops, a completion with cookie 0 and detail 0x000B (R29). -/
def effFetchFailed (ring : Nat) (e : Env) (d : Device) : Device :=
  if !d.canFetch e ring then d else
  let d := d.setSq ring { d.sqr ring with stopped := true, bad := true }
  let seq := d.nextSeq
  let d := { d with nextSeq := seq + 1 }
  d.complete e { seq := seq, ring := ring, cookie := 0, request := none, status := 0x20, reason := 0, detail := 0x000B,
                 result := 0, quality := 0, quiet := false }

def execDescriptorFetch (t ring : Nat) (s : State) : Host.Outcome State Fault Refusal := s.act t (effFetch ring)

def execDescriptorFetchFailed (t ring : Nat) (s : State) : Host.Outcome State Fault Refusal :=
  s.act t (effFetchFailed ring)

/-! ## Starting a fetched descriptor (R30) -/

/-- May a fetched descriptor start: a fence waits for every earlier one of its ring, and none starts past a started
class M one. -/
def Device.mayStart (d : Device) (ring : Nat) (f : Fetched) : Bool :=
  d.inflight.all (fun x => x.ring != ring || x.seq == f.seq || f.seq < x.seq ||
    !(f.fence || (x.started && opClass x.op == some .m)))

/-- The next descriptor of a ring, if its opcode is op and it may start: it is taken from the queue. -/
def Device.take (e : Env) (d : Device) (ring op : Nat) : Option (Fetched × Device) :=
  if !(d.serving e || (d.mode == .recovery && ring == 0)) then none else
  match takeFirst (fun f => f.ring == some ring) d.fetched with
  | none => none
  | some (f, rest) =>
    if f.op == op && d.mayStart ring f then
      let go := fun (x : InFlight) => if x.seq == f.seq then { x with started := true } else x
      some (f, { d with fetched := rest, inflight := d.inflight.map go })
    else none

/-- Run a command on the next descriptor of a ring. -/
def onDesc (ring op : Nat) (f : Env → Device → Fetched → Device) (e : Env) (d : Device) : Device :=
  match d.take e ring op with
  | none => d
  | some (x, d) => f e d x

/-- NOP completes DONE (Table 02.4). -/
def effNop (e : Env) (d : Device) (f : Fetched) : Device := d.completeD e f 0 0 0

def execNop (t ring : Nat) (s : State) : Host.Outcome State Fault Refusal := s.act t (onDesc ring 0x00 effNop)

end Sys2Proof.Machine
end

