-- ==== Sys2Proof/Machine/Stencil.lean ====
section
/-! DEFINITION. The Stencil (12: R315–R322): the grammar image, masks, stepping, the mask cache, GRAMMAR_LOAD and
GRAMMAR_UNLOAD. -/

namespace Sys2Proof.Machine

/-! ## The image (Tables 12.3–12.6) -/

def gSymbols (g : List Byte) : Nat := secNat g 0x06 2
def gVocab (g : List Byte) : Nat := secNat g 0x10 4
def gStates (g : List Byte) : Nat := secNat g 0x14 4
def gInitial (g : List Byte) : Nat := secNat g 0x18 4
def gKeys (g : List Byte) : Nat := secNat g 0x1C 4
def gState (g : List Byte) (s : Nat) : Nat := secNat g (secNat g 0x20 4 + 8 * s) 8
def gKey (g : List Byte) (k i : Nat) : Nat := secNat g (secNat g 0x24 4 + 64 * k + 8 * i) 8
def gExc (g : List Byte) (x i : Nat) : Nat := secNat g (secNat g 0x28 4 + 16 * x + 8 * i) 8
def gMaskOff (g : List Byte) (u : Nat) : Nat := secNat g 0x2C 4 + 4 * u
def gBitmapBytes (g : List Byte) : Nat := ceilDiv (gVocab g) 1024 * 128
def gBitmapOff (g : List Byte) (i : Nat) : Nat := secNat g 0x30 4 + gBitmapBytes g * i

/-- Format, reference and entries of a key's normal or full mask. -/
def gMask (g : List Byte) (k : Nat) (isFull : Bool) : Nat × Nat × Nat :=
  if isFull then (bits (gKey g k 1) 34 32, bits (gKey g k 2) 31 0, bits (gKey g k 2) 63 32)
  else (bits (gKey g k 0) 10 8, bits (gKey g k 0) 63 32, bits (gKey g k 1) 31 0)

/-- Does a mask allow a token (Table 12.6). -/
def maskAllows (g : List Byte) (m : Nat × Nat × Nat) (t : Nat) : Bool :=
  let (f, r, n) := m
  let listed := (upto n).any (fun i => bits (secNat g (gMaskOff g (r + i)) 4) 17 0 == t)
  t < gVocab g &&
    (if f = 0 then true
     else if f = 1 then listed
     else if f = 2 then !listed
     else if f = 3 then (upto n).any (fun i =>
       let w := secNat g (gMaskOff g (r + 2 * i)) 8
       bits w 17 0 ≤ t && t ≤ bits w 49 32)
     else if f = 4 then bit (secNat g (gBitmapOff g r + t / 8) 1) (t % 8)
     else false)

/-- Does a mask allow any token. -/
def maskAny (g : List Byte) (m : Nat × Nat × Nat) : Bool := (upto (gVocab g)).any (maskAllows g m)

/-- The key of a state for a top symbol (R317). -/
def gFindKey (g : List Byte) (s top : Nat) : Option Nat :=
  let w := gState g s
  (((upto (bits w 40 32)).map (fun i => bits w 31 0 + i)).filter (fun k => bits (gKey g k 0) 7 0 == top)).head?

/-- The top symbol; 0 when empty. -/
def GrammarState.top (c : GrammarState) : Nat := c.stack.getLastD 0

/-- The key of the configuration's position. -/
def GrammarState.keyOf (c : GrammarState) (g : List Byte) : Option Nat := gFindKey g c.state c.top

/-- The transition of a token under a key. -/
def gTransition (g : List Byte) (k t : Nat) : Nat :=
  let xs := (upto (bits (gKey g k 3) 63 32)).map (fun i => bits (gKey g k 3) 31 0 + i)
  match xs.find? (fun x => bits (gExc g x 0) 17 0 == t) with
  | some x => gExc g x 1
  | none => gKey g k 4

/-- Step a configuration on a token: the new configuration, and whether the token completes the grammar (R317). -/
def GrammarState.step (c : GrammarState) (g : List Byte) (t : Nat) : GrammarState × Bool :=
  match c.keyOf g with
  | none => (c, false)
  | some k =>
    let w := gTransition g k t
    let st := if bit w 20 then c.stack.dropLast else c.stack
    let st := if bit w 21 then st ++ [bits w 29 22] else st
    let c' := { c with stack := st, state := bits w 19 0, steps := sat lim32 (c.steps + 1) }
    ({ c' with key := (c'.keyOf g).getD 0 }, bit w 30)

/-- Is the stack at depth 64 (R317). -/
def GrammarState.isFull (c : GrammarState) : Bool := c.stack.length ≥ 64

/-- The mask of the configuration's position: which tokens are allowed. -/
def GrammarState.allows (c : GrammarState) (g : List Byte) (t : Nat) : Bool :=
  match c.keyOf g with
  | none => false
  | some k => maskAllows g (gMask g k c.isFull) t

/-- The GRAMMAR_DEAD detail when the position's mask allows nothing (R322). -/
def GrammarState.dead (c : GrammarState) (g : List Byte) : Option Nat :=
  match c.keyOf g with
  | none => some 1
  | some k =>
    if maskAny g (gMask g k c.isFull) then none
    else if c.isFull && maskAny g (gMask g k false) then some 2 else some 1

/-! ## Checks at load (R316, R319) -/

def ascending : List Nat → Bool
  | a :: b :: r => a < b && ascending (b :: r)
  | _ => true

/-- A mask reference is sound: within its pool, sorted, disjoint. -/
def maskOk (g : List Byte) (m : Nat × Nat × Nat) : Bool :=
  let (f, r, n) := m
  let pool := secNat g 0x30 4
  if f = 0 || f = 5 then true
  else if f = 1 || f = 2 then
    n ≤ 65536 && gMaskOff g (r + n) ≤ pool
      && ascending ((upto n).map (fun i => bits (secNat g (gMaskOff g (r + i)) 4) 17 0))
  else if f = 3 then
    n ≤ 65536 && gMaskOff g (r + 2 * n) ≤ pool
      && (upto n).all (fun i =>
        let w := secNat g (gMaskOff g (r + 2 * i)) 8
        bits w 17 0 ≤ bits w 49 32
          && (i = 0 || bits (secNat g (gMaskOff g (r + 2 * (i - 1))) 8) 49 32 < bits w 17 0))
  else if f = 4 then r < secNat g 0x34 4
  else false

/-- A transition is sound: its state within the table, its symbol in range, no rsvd bit. -/
def transOk (g : List Byte) (w : Nat) : Bool :=
  bits w 19 0 < gStates g && bits w 63 31 == 0 && (!bit w 21 || (bits w 29 22 ≥ 1 && bits w 29 22 < gSymbols g + 1))

/-- A key record is sound. -/
def keyOk (g : List Byte) (k : Nat) : Bool :=
  let xs := (upto (bits (gKey g k 3) 63 32)).map (fun i => bits (gKey g k 3) 31 0 + i)
  let toks := xs.map (fun x => bits (gExc g x 0) 17 0)
  let all := gKey g k 4 :: xs.map (fun x => gExc g x 1)
  let normal := gMask g k false
  let fullM := gMask g k true
  bits (gKey g k 0) 31 11 == 0 && bits (gKey g k 1) 63 35 == 0
    && gKey g k 5 == 0 && gKey g k 6 == 0 && gKey g k 7 == 0
    && bits (gKey g k 3) 63 32 ≤ 262144
    && secNat g 0x28 4 + 16 * (bits (gKey g k 3) 31 0 + xs.length) ≤ secNat g 0x2C 4
    && xs.all (fun x => bits (gExc g x 0) 63 18 == 0)
    && maskOk g normal && maskOk g fullM && ascending toks && all.all (transOk g)
    && (bits (gKey g k 0) 7 0 != 0 || all.all (fun w => !bit w 20))
    && toks.all (maskAllows g normal)
    && (upto (gVocab g)).all (fun t => !maskAllows g fullM t ||
      (maskAllows g normal t && !(bit (gTransition g k t) 21 && !bit (gTransition g k t) 20)))

/-- A state record is sound: 1 to 256 keys within the table, sorted by top symbol. -/
def stateOk (g : List Byte) (s : Nat) : Bool :=
  let w := gState g s
  let ks := (upto (bits w 40 32)).map (fun i => bits w 31 0 + i)
  bits w 63 41 == 0 && 1 ≤ ks.length && ks.length ≤ 256 && ks.all (· < gKeys g)
    && ascending (ks.map (fun k => bits (gKey g k 0) 7 0))

/-- The checks of R316 on an image, for a Recipe's vocabulary and digest. -/
def grammarOk (g : List Byte) (vocab digest : Nat) : Bool :=
  g.length ≥ 64 && secNat g 0 4 == 0x4C435453 && secNat g 4 2 == 1
    && 1 ≤ gSymbols g && gSymbols g ≤ 255 && secNat g 8 8 == digest % 2 ^ 64 && gVocab g == vocab
    && 1 ≤ gStates g && gStates g ≤ 1048576 && gInitial g < gStates g
    && 1 ≤ gKeys g && gKeys g ≤ 16777216 && secNat g 0x38 8 == 0
    && secNat g 0x20 4 + 8 * gStates g ≤ g.length && secNat g 0x24 4 + 64 * gKeys g ≤ g.length
    && secNat g 0x28 4 ≤ g.length && secNat g 0x2C 4 ≤ g.length
    && gBitmapOff g (secNat g 0x34 4) ≤ g.length
    && (upto (gStates g)).all (stateOk g) && (upto (gKeys g)).all (keyOk g)

/-! ## The store and the mask cache (R321) -/

/-- Bytes of the Stencil store in use. -/
def Device.stencilUsed (d : Device) : Nat := (d.grammars.map (fun g => g.2.image.length)).sum

/-- Bytes a cached mask takes. -/
def maskBytes (g : List Byte) (m : Nat × Nat × Nat) : Nat :=
  if m.1 = 4 then gBitmapBytes g else if m.1 = 3 then 8 * m.2.2 else if m.1 = 0 || m.1 = 5 then 0 else 4 * m.2.2

/-- Keep cached masks while they fit 8 MiB, most recently used first. -/
def Device.trimCache (d : Device) : Device :=
  let size := fun (x : Nat × Nat × Bool) => match tfind d.grammars x.1 with
    | some g => maskBytes g.image (gMask g.image x.2.1 x.2.2)
    | none => 0
  let st := d.mill.cache.foldl (fun (a : List (Nat × Nat × Bool) × Nat) x =>
    if a.2 + size x ≤ 8 * Config.mib then (a.1 ++ [x], a.2 + size x) else (a.1, 8 * Config.mib + 1)) ([], 0)
  { d with mill := { d.mill with cache := st.1 } }

/-- Resolve the mask of a constrained position through the cache: a hit or a miss is counted. -/
def Device.resolveMask (d : Device) (handle key : Nat) (isFull : Bool) : Device :=
  let x := (handle, key, isFull)
  let hit := d.mill.cache.contains x
  let m := { d.mill with cache := x :: d.mill.cache.filter (· != x),
                         hits := sat lim32 (d.mill.hits + b2n hit), misses := sat lim32 (d.mill.misses + b2n (!hit)) }
  { d with mill := m }.trimCache

/-! ## GRAMMAR_LOAD and GRAMMAR_UNLOAD (R315) -/

/-- GRAMMAR_LOAD. -/
def effGrammarLoad (hostOk : Bool) (e : Env) (d : Device) (f : Fetched) : Device :=
  let len := bits (f.w 3) 39 0
  let h := bits (f.w 3) 51 40
  match d.recipe f.recipe with
  | none => d.completeD e f 0x21 0x000A 0
  | some r =>
    if !hostOk then d.completeD e f 0x20 0x000A 0
    else
      let g := d.hostRead (f.w 2) len
      if (tfind d.grammars h).isSome || !grammarOk g (millV r.mill) r.digest
          || d.stencilUsed + len > stencilStore e then d.completeD e f 0x20 3 0
      else { d with grammars := tset d.grammars h ⟨f.recipe, g, false⟩ }.completeD e f 0 0 0

/-- GRAMMAR_UNLOAD: the handle drains, and is free when no live request holds it. -/
def effGrammarUnload (e : Env) (d : Device) (f : Fetched) : Device :=
  let h := bits (f.w 3) 51 40
  match tfind d.grammars h with
  | none => d.completeD e f 0 1 0
  | some g =>
    if g.draining then d.completeD e f 0 1 0
    else ({ d with grammars := tset d.grammars h { g with draining := true } }.sweepGrammars).completeD e f 0 0 0

def execGrammarLoad (t ring : Nat) (hostOk : Bool) (s : State) : Host.Outcome State Fault Refusal :=
  s.act t (onDesc ring 0x1C (effGrammarLoad hostOk))

def execGrammarUnload (t ring : Nat) (s : State) : Host.Outcome State Fault Refusal :=
  s.act t (onDesc ring 0x1D effGrammarUnload)

end Sys2Proof.Machine
end

