-- ==== Sys2Proof/Machine/Requests.lean ====
section
/-! DEFINITION. Admission and commit (03: R55–R60, R67–R69; R270–R271, R276, R280, R285–R287, R293, R299, R302, R312). -/

namespace Sys2Proof.Machine

/-! ## Admission checks (Table 03.4) -/

/-- Check 2: the Recipe slot (R246). -/
def Device.recipeFault (d : Device) (r : Nat) : Option (Nat × Nat) :=
  match d.recipe r with
  | none => some (0x21, 0x000A)
  | some s => if s.replace then some (0x21, 0x0009) else none

/-- Check 3: the adapter version resolved, or the detail of Table 10.3 (R270, R271). -/
def Device.adapterFault (d : Device) (recipe slot version : Nat) : Sum Nat Nat :=
  if version = 0 then .inr 0
  else match tfind d.adapters slot with
    | none => .inl 2
    | some a =>
      if a.recipe != recipe then .inl 3
      else if version = 0xFF then (match a.current with
        | some v => .inr v
        | none => .inl 2)
      else if a.current == some version then .inr version
      else if a.versions.any (fun v => v.1 == version) then .inl 1 else .inl 2

/-- The live epoch of a number. -/
def Device.epoch (d : Device) (n : Nat) : Option Epoch :=
  if d.kn.newer.num = n then some d.kn.newer
  else if d.kn.twoLive && d.kn.older.num = n then some d.kn.older else none

/-- Check 4: STALE_EPOCH's detail (R293). -/
def Device.epochFault (d : Device) (n : Nat) : Option Nat :=
  if (d.epoch n).isSome then none
  else if (n + 65536 - d.kn.newer.num) % 65536 ≤ 32767 then some 2 else some 1

/-- Does a session's slot meet a live request (R32, R280), or the session a HANDOFF in progress (R294). -/
def Device.sessionBusy (d : Device) (session : Nat) : Bool :=
  session != 0 &&
    (d.reqs.any (fun r => r.2.live && r.2.session != 0 && slotOf r.2.session == slotOf session)
      || d.kn.handoffs.any (fun h => h.outgoing && h.session == session))

/-- Check 7: the grammar handle and the stream ring. -/
def Device.handleFault (d : Device) (f : Fetched) : Bool :=
  let h := bits (f.w 3) 49 38
  let bad := h != 0 && (match tfind d.grammars h with
    | none => true
    | some g => g.draining || g.recipe != f.recipe)
  bad || !(d.ring .ts (bits (f.w 3) 55 50)).enabled

/-- The first admission check that fails: status and detail. -/
def Device.admissionFault (d : Device) (f : Fetched) : Option (Nat × Nat) :=
  let ss := d.spans (f.w 4) (bits (f.w 5) 15 0)
  if textOver ss then some (0x20, 3)
  else match d.recipeFault f.recipe with
    | some x => some x
    | none =>
      match d.adapterFault f.recipe f.adapter f.version with
      | .inl k => some (0x23, k)
      | .inr _ =>
        match d.epochFault (bits (f.w 3) 15 0) with
        | some k => some (0x22, k)
        | none =>
          if (d.tenant f.tenant).held then some (0x13, 0)
          else if d.sessionBusy f.session then some (0x20, 7)
          else if d.handleFault f then some (0x20, 0x000C)
          else if d.fresh ≥ Config.requestEntries && d.freed.isEmpty then some (0x10, 0)
          else none

/-- A request entry as admission writes it (R51, R55). -/
def newRequest (e : Env) (d : Device) (f : Fetched) (old : Request) (order : Nat) : Request :=
  { state := .admitted, pin := f.pin, tokenMode := f.tokenMode, ctxValid := false, tenant := f.tenant,
    priority := f.priority, recipe := f.recipe, cookie := f.cookie, session := f.session,
    sq := f.ring.getD 0, stream := bits (f.w 3) 55 50, deadline := f.w 2, admitted := e.now,
    adapter := f.adapter,
    version := match d.adapterFault f.recipe f.adapter f.version with
      | .inr v => v
      | .inl _ => 0,
    grammar := bits (f.w 3) 49 38, epoch := bits (f.w 3) 15 0, incarnation := (old.incarnation + 1) % 65536,
    seq := f.seq, order := order, desc := f.q, since := e.now }

/-- A resident context becomes that of a live request at its admission (R32, R56, Table 03.3); how it stood is kept for a
refusal (R39). -/
def Device.bindLive (d : Device) (i c : Nat) : Device :=
  let r := d.req i
  let x := d.ctx c
  let was : Standing := ⟨x.parked, x.cls, x.tenant, x.fallbacks, x.sampler, x.grammar⟩
  let d := d.modCtx c (fun x => { x with
    live := true, parked := false, request := i, cls := r.priority, tenant := r.tenant, fallbacks := [0, 0, 0, 0] })
  d.modReq i (fun r => { r with ctxValid := true, context := c, prior := if r.prior.isSome then r.prior else some was })

/-- GENERATE (R55). -/
def effGenerate (e : Env) (d : Device) (f : Fetched) : Device :=
  match d.admissionFault f with
  | some x => d.completeD e f x.1 x.2 0
  | none =>
    match d.allocReq with
    | none => d.completeD e f 0x10 0 0
    | some (i, d) =>
      let d := d.setReq i (newRequest e d f (d.req i) d.kn.order)
      let d := { d with kn := { d.kn with order := d.kn.order + 1 } }
      match d.ctxOf f.session with
      | some c => if (d.ctx c).demoting then d.modCtx c (fun x => { x with parked := false }) else d.bindLive i c
      | none => d

def execGenerate (t ring : Nat) (s : State) : Host.Outcome State Fault Refusal := s.act t (onDesc ring 0x01 effGenerate)

/-- A host read of an input block, span, sampling block or list fails (R58, R254). -/
def effInputReadFailed (i : Nat) (e : Env) (d : Device) : Device :=
  let r := d.req i
  if d.serving e && (r.state == .admitted || r.state == .intake) then d.refuseReq e i 0x20 0x000A else d

def execInputReadFailed (t request : Nat) (s : State) : Host.Outcome State Fault Refusal :=
  s.act t (effInputReadFailed request)

/-! ## Standing (R56) and the reads of ADMITTED -/

/-- This node's entry in a map. -/
def Epoch.node (x : Epoch) (n : Nat) : Option MapNode := x.nodes.find? (fun m => m.node == n)

/-- Does a role shift hold the request (R299): a bulk one of an epoch in which this node is shifting, until the node's
entry in the newest live epoch is live. -/
def Device.shiftHolds (e : Env) (d : Device) (r : Request) : Bool :=
  let here := fun (x : Epoch) => x.node (nodeNumber e)
  (here d.kn.newer).any (fun m => m.state != 0) && (d.epoch r.epoch).any (fun x =>
    (here x).any (fun m => m.state == 1) && r.priority < x.threshold)

/-- Must the request wait: a role shift (R299), a demotion's record write (R68), an incoming log (R296). -/
def Device.mustWait (e : Env) (d : Device) (r : Request) : Bool :=
  d.shiftHolds e r
    || d.ctxs.any (fun c => c.2.demoting && r.session != 0 && c.2.session == r.session)
    || (r.session != 0 && (let x := d.dirRead e r.session
        x.valid && x.incoming && x.session == r.session))

/-- The log length of a session's standing: its resident context's, its record's, or 0. -/
def Device.standing (e : Env) (d : Device) (session : Nat) : Nat :=
  if session = 0 then 0
  else match d.ctxOf session with
    | some c => (d.ctx c).logLength
    | none =>
      let x := d.dirRead e session
      if x.valid && x.session == session then x.length else 0

/-- Resolve the draft max D (Table 10.1). -/
def draftMaxOf (s : Sampling) (dMax : Nat) : Nat :=
  if s.draftMax = 0xFF then dMax else if s.draftMax ≤ dMax then s.draftMax else dMax

/-- Bind a request to a context: live, tenant, class, sampler state set, fallbacks cleared (Tables 03.3, 10.2). -/
def Device.bindCtx (d : Device) (i c : Nat) : Device :=
  let r := d.req i
  let m := draftMaxOf r.sampling (d.info r.recipe).dMax
  (d.bindLive i c).modCtx c (fun x => { x with
    sampler := { seed := r.sampling.seed, draft := m, draftMax := m, lastToken := x.sampler.lastToken },
    grammar := { handle := r.grammar } })

/-- DIRECTORY_RECORD_READ: the standing is found, the check made, the blocks read (R56, R37, R254, R312). -/
def effDirectoryRead (i : Nat) (e : Env) (d : Device) : Device :=
  let r := d.req i
  if !d.serving e || r.state != .admitted || r.bound || d.mustWait e r then d else
  let q := fun k => r.desc.getD k 0
  let check := bit (q 7) 23
  let mill := match d.recipe r.recipe with
    | some s => s.mill
    | none => []
  let ss := d.spans (q 4) (bits (q 5) 15 0)
  if check && r.session == 0 then d.refuseReq e i 0x20 3
  else if check && bits (q 7) 22 0 != d.standing e r.session then d.refuseReq e i 0x20 9
  else match d.inputFault mill ss with
    | some k => d.refuseReq e i 0x20 k
    | none =>
      match d.samplingAt (q 6) (d.info r.recipe).vocab with
      | .inl k => d.refuseReq e i 0x20 k
      | .inr sm =>
        let inUse := (d.reqs.filter (fun x => x.2.stopSlot)).length
        if !sm.stops.isEmpty && inUse ≥ stopSlots e then d.refuseReq e i 0x10 3
        else
          let (n, d) := if d.seedGiven (q 6) then (sm.seed, d)
            else (let x := d.draw; (Config.randomSeed x.1 % 2 ^ 64, x.2))
          let parts := d.inputParts ss
          let text := ss.any (fun s => s.type ≤ 1)
          let wait := partsText parts > 0
          let (ws, _) := if wait then ([], 0) else stageParts mill parts
          let d := d.modReq i (fun r => { r with
            bound := true, parts := if wait then parts else [], textLeft := partsText parts, staged := ws,
            sampling := { sm with seed := n }, stopSlot := !sm.stops.isEmpty })
          let d := if text then d.setState e i .intake else d
          match d.ctxOf r.session with
          | some c => d.bindCtx i c
          | none => d

def execDirectoryRecordRead (t request : Nat) (s : State) : Host.Outcome State Fault Refusal :=
  s.act t (effDirectoryRead request)

/-! ## The Mill's quanta (R302) -/

/-- One who waits for the Mill: its admission order, and a request (true) or EMBED (false) with its key. -/
def Device.millWaiters (d : Device) : List (Nat × Bool × Nat) :=
  (d.reqs.filter (fun r => r.2.state == .intake && r.2.textLeft > 0)).map (fun r => (r.2.order, true, r.1))
    ++ (d.oven.embeds.filter (fun x => x.textLeft > 0)).map (fun x => (x.order, false, x.seq))

/-- The next served after the one last served, in admission order, cyclic. -/
def nextServed (last : Nat) (ws : List (Nat × Bool × Nat)) : Option (Nat × Bool × Nat) :=
  let lt := fun (a b : Nat × Bool × Nat) => decide (a.1 < b.1)
  match leastBy lt (ws.filter (fun w => w.1 > last)) with
  | some w => some w
  | none => leastBy lt ws

/-- Tokenise a request whose text has all been taken in (R303–R308). -/
def Device.stageText (d : Device) (i : Nat) : Device :=
  let r := d.req i
  let mill := match d.recipe r.recipe with
    | some s => s.mill
    | none => []
  let (ws, n) := stageParts mill r.parts
  let d := d.noteReplaced n
  d.modReq i (fun r => { r with parts := [], staged := ws })

/-! ## The prefix index (R285–R287) -/

/-- The hash of a block (R285). -/
def blockHash (prev digest adapter version scope : Nat) (toks : List Nat) : Nat :=
  sha512N (toBytes 8 prev ++ toBytes 8 digest ++ toBytes 2 adapter ++ toBytes 1 version ++ toBytes 1 0
    ++ toBytes 2 scope ++ toBytes 2 0 ++ (toks.map (fun w => toBytes 4 (w % 2 ^ 18))).flatten) % 2 ^ 64

/-- Tenant scope of the hash. -/
def scopeOf (e : Env) (tenant : Nat) : Nat := if crossTenant e then 0xFFFF else tenant

end Sys2Proof.Machine

namespace Sys2Proof

open Machine

/-- Does a Recipe match and publish blocks (R157, R286). -/
def RecipeInfo.shares (i : RecipeInfo) : Bool :=
  i.pools.all (fun p => p.tokens ≤ 256)
    && ((upto i.layers.length).map (fun l => 256 / (i.layerPool l).tokens)).sum ≤ 2048
    && (i.layers.filter (fun l => l.kind == 2)).length ≤ 64

/-- Rank of a local layer among local layers. -/
def RecipeInfo.localRank (i : RecipeInfo) (l : Nat) : Nat := ((i.layers.take l).filter (fun x => x.kind == 2)).length

end Sys2Proof

namespace Sys2Proof.Machine

/-- Is a block's page set complete for every global layer, in formats the Recipe reads (R287, R99). -/
def PrefixEntry.usable (b : PrefixEntry) (info : RecipeInfo) : Bool :=
  b.pages.all (fun p => p.format ≥ 3 || p.format ≥ (info.layerPool p.layer).minRead)
    && (upto info.layers.length).all (fun l => (info.layer l).kind != 1 ||
      (b.pages.filter (fun p => p.layer == l)).length == 256 / (info.layerPool l).tokens)

/-- The keys of the entries matched for blocks 0, 1, …: chained hashes from `prev` on (R287). -/
def Device.matchRun (d : Device) (r : Request) (digest scope : Nat) (info : RecipeInfo) :
    Nat → Nat → Option Nat → List Nat → List Nat
  | 0, _, _, _ => []
  | fuel + 1, prev, last, toks =>
    if toks.length < 256 then [] else
    let h := blockHash prev digest r.adapter r.version scope (toks.take 256)
    match d.blocks.find? (fun b => !b.2.gone && b.2.hash == h && b.2.recipe == r.recipe && b.2.adapter == r.adapter
        && b.2.version == r.version && b.2.scope == scope && b.2.first == last.isNone
        && (last.isNone || some b.2.prior == last) && b.2.usable info) with
    | none => []
    | some b => b.1 :: d.matchRun r digest scope info fuel h (some b.1) (toks.drop 256)

/-- The matched run cut back to where every local window is present (R287). -/
def Device.cutRun (d : Device) (info : RecipeInfo) (ks : List Nat) : Nat :=
  let has := fun (l j : Nat) => match tfind d.blocks (ks.getD j 0) with
    | some b => bit b.localPresent (info.localRank l)
    | none => false
  let rec go : Nat → Nat
    | 0 => 0
    | m + 1 => if windowHeld info has (m + 1) then m + 1 else go m
  go ks.length

/-- The entries that m matched blocks put into the lists: every global page, and of a local layer the pages its window
needs before position 256 m. -/
def Device.sharedPages (d : Device) (info : RecipeInfo) (ks : List Nat) (m : Nat) : List Page :=
  ((upto m).map (fun j => match tfind d.blocks (ks.getD j 0) with
    | none => []
    | some b => (b.pages.filter (fun p =>
        let l := info.layer p.layer
        l.kind == 1 || (l.kind == 2 && p.first + (info.layerPool p.layer).tokens + l.window > 256 * m + 1
          && p.index + info.ringN p.layer > 256 * m / (info.layerPool p.layer).tokens))).map (fun p =>
        { p with shared := true, block := ks.getD j 0,
                 index := if (info.layer p.layer).kind = 2 then p.index % info.ringN p.layer else p.index }))).flatten

/-! ## What reclaim counts and takes first (Table 07.8, R187) -/

/-- What a grant can lack: frames of a pool of a Recipe slot, or list frames. -/
inductive Lack where
  | pool (recipe pi : Nat)
  | lists
  deriving DecidableEq, Repr

/-- Frames that are free or will be once zeroed. -/
def Device.soonFree (e : Env) (d : Device) : Lack → Nat
  | .pool r pi => (d.freeSlots r pi).length + (d.zeroingSlots r pi).length
  | .lists => listFrames e - (d.lists.filter (fun f => !f.2.zeroing)).length

/-- Would dropping a context's own pages free some: own tier-0 frames in the pool, or list frames. -/
def Device.yields (d : Device) (c : Nat) : Lack → Bool
  | .pool r pi =>
    let x := d.ctx c
    x.recipe == r && x.pages.any (fun p => !p.shared && p.tier == 0 && ((d.info r).layer p.layer).pool == pi)
  | .lists =>
    let x := d.ctx c
    let i := d.info x.recipe
    listFramesOf i (x.pages.filter (·.shared)) < listFramesOf i x.pages

/-- Step 2 of Table 07.8: the idle, unpinned context with the oldest last use, then the lowest index. -/
def Device.victim2 (d : Device) (what : Lack) : Option Nat :=
  (leastBy (fun (a b : Nat × Context) => decide (a.2.lastUse < b.2.lastUse))
    (d.ctxs.filter (fun c => c.2.held && !c.2.live && !c.2.pinned && d.yields c.1 what))).map (·.1)

/-- Count frames and victims for PAGE_RECLAIM (R187). -/
def Device.noteReclaim (d : Device) (frames ctxs blocks unseated : Nat) : Device :=
  { d with kn := { d.kn with reclaimed := sat lim32 (d.kn.reclaimed + frames),
                             reclaimedCtx := sat lim16 (d.kn.reclaimedCtx + ctxs),
                             blocksDropped := sat lim16 (d.kn.blocksDropped + blocks),
                             unseated := sat lim16 (d.kn.unseated + unseated) } }

/-- Steps 1 and 2 of Table 07.8 until `need` are free or on their way, in at most k victims. -/
def Device.reclaim2 (e : Env) (what : Lack) (need : Nat) : Nat → Device → Device
  | 0, d => d
  | k + 1, d =>
    if d.soonFree e what ≥ need then d else
    match d.victim2 what with
    | none => d
    | some c => ((d.dropOwn c).noteReclaim (d.ctx c).frames 1 0 0).reclaim2 e what need k

/-! ## Matching (R287) -/

/-- Prefix matching (R287) of a context against the index, for its log. -/
def Device.matchCtx (e : Env) (d : Device) (c : Nat) : Device :=
  let x := d.ctx c
  let r : Request := { recipe := x.recipe, adapter := x.adapter, version := x.version, tenant := x.tenant, context := c }
  match d.recipe r.recipe with
  | none => d
  | some slot =>
    let info := slot.info
    if !info.shares then d else
    let words := d.logWords x.logBase 0 x.logLength
    let ks := d.matchRun r (slot.digest % 2 ^ 64) (scopeOf e r.tenant) info (x.logLength / 256) 0 none words
    let m := d.cutRun info ks
    let rest := fun (d : Device) => (d.ctx c).pages.filter (fun p => p.first ≥ 256 * m)
    let need := fun (d : Device) (m : Nat) =>
      listFramesOf info (rest d ++ d.sharedPages info ks m) - listFramesOf info (d.ctx c).pages
    let d := if 256 * m > x.valid then d.reclaim2 e .lists (need d m) d.ctxs.length else d
    let rec fit : Nat → Nat
      | 0 => 0
      | n + 1 => if need d (n + 1) ≤ d.listFree e && windowHeld info (fun l j => match tfind d.blocks (ks.getD j 0) with
            | some b => bit b.localPresent (info.localRank l)
            | none => false) (n + 1) then n + 1 else fit n
    let m := if 256 * m > x.valid then fit m else m
    let touch := fun (d : Device) => { d with blocks := d.blocks.map (fun b =>
      if (ks.take m).contains b.1 then (b.1, { b.2 with lastMatched := e.now }) else b) }
    let d := touch d
    if 256 * m > x.valid then
      (d.swapPages c (fun p => p.first < 256 * m) (d.sharedPages info ks m)).modCtx c (fun y =>
        { y with valid := 256 * m, prefixLen := 256 * m })
    else d

/-- Prefix matching at commit, once the context carries the request's Recipe, adapter and tenant. -/
def Device.matchPrefix (e : Env) (d : Device) (i : Nat) : Device := d.matchCtx e (d.req i).context

/-- Pages of blocks removed for poison count as unmatched: their entries are cleared and V falls to the first of them
(R128). -/
def Device.dropPoisoned (d : Device) (c : Nat) : Device :=
  let which := fun (p : Page) => p.shared && (match tfind d.blocks p.block with
    | some b => b.gone
    | none => false)
  let x := d.ctx c
  let low := (x.pages.filter which).foldl (fun a p => if p.first < a then p.first else a) x.valid
  (d.releasePages c which).modCtx c (fun y => { y with
    valid := low, prefixLen := if low < y.prefixLen then low / 256 * 256 else y.prefixLen })

/-- R99: V falls to the lowest first position of a page narrower than its pool's minimum read format. -/
def Device.minRead (d : Device) (c : Nat) : Device :=
  let x := d.ctx c
  let info := d.info x.recipe
  let low := (x.pages.filter (fun p => p.format < 3 && p.format < (info.layerPool p.layer).minRead)).foldl
    (fun a p => if p.first < a then p.first else a) x.valid
  d.modCtx c (fun y => { y with valid := low })

/-! ## Commit (R57–R59) -/

/-- Retire another session of the same slot that has no live request (R280). -/
def Device.retireOther (e : Env) (d : Device) (session : Nat) : Device :=
  let rec0 := d.dirRead e session
  let base := if rec0.valid && rec0.session != session then rec0.log else 0
  match d.ctxs.find? (fun c => c.2.held && c.2.session != 0 && c.2.session != session
      && slotOf c.2.session == slotOf session) with
  | some c =>
    let base := (d.ctx c.1).logBase
    ((((d.demote c.1 false).demoted e c.1).logRelease base).dirClear e session)
  | none => if rec0.valid && rec0.session != session then (d.logRelease base).dirClear e session else d

/-- A context for the request, made from the session's record when it has one (R67). -/
def Device.contextFor (e : Env) (d : Device) (i : Nat) : Option Device :=
  let r := d.req i
  if r.ctxValid then some d
  else
    let d := if r.session = 0 then d else d.retireOther e r.session
    match d.takeCtx e r.session with
    | none => none
    | some (c, d) =>
      let x := d.dirRead e r.session
      let known := r.session != 0 && x.valid && x.session == r.session
      let d := d.modCtx c (fun y => if known then
          { y with logBase := x.log, logLength := x.length, recipe := x.recipe, adapter := x.adapter,
                   version := x.version, dir := { y.dir with recordValid := true } }
        else { y with recipe := r.recipe, adapter := r.adapter, version := r.version })
      some (d.bindCtx i c)

/-- Drop KV computed under another Recipe or adapter version (R248, R276). -/
def Device.rebindKv (d : Device) (i : Nat) : Device :=
  let r := d.req i
  let x := d.ctx r.context
  let d := if x.recipe != r.recipe || x.adapter != r.adapter || x.version != r.version then d.dropAll r.context else d
  d.modCtx r.context (fun y => { y with recipe := r.recipe, adapter := r.adapter, version := r.version })

/-- Pin at commit, within the limit (R69). -/
def Device.pinAt (e : Env) (d : Device) (i : Nat) : Device :=
  let r := d.req i
  if !r.pin || (d.ctx r.context).pinned then d
  else if (d.ctxs.filter (fun c => c.2.pinned)).length < pinLimit e then
    d.modCtx r.context (fun x => { x with pinned := true })
  else d.modReq i (fun r => { r with pinRefused := true })

/-- The grammar's initial configuration (R317). -/
def Device.startGrammar (d : Device) (i : Nat) : Device :=
  let r := d.req i
  match tfind d.grammars r.grammar with
  | none => d
  | some g =>
    if r.grammar = 0 then d else
    let c : GrammarState := { handle := r.grammar, active := true, state := gInitial g.image }
    d.modCtx r.context (fun x => { x with grammar := { c with key := (c.keyOf g.image).getD 0 } })

/-- A deadline has passed when LTIME is greater than it (R63). -/
def pastDeadline (e : Env) (r : Request) : Bool := r.deadline != 0 && e.now > r.deadline

/-- The part of commit after the append: matching, the new-token limit, the next state (R59). -/
def Device.placeReq (e : Env) (d : Device) (i baseLen : Nat) : Device :=
  let d := d.rebindKv i
  let d := (d.dropPoisoned (d.req i).context).matchPrefix e i
  let d := d.minRead (d.req i).context
  let d := d.startGrammar i
  let r := d.req i
  let x := d.ctx r.context
  let L := x.logLength
  let most := bits (r.desc.getD 3 0) 37 16
  let room := Config.maxLog - L
  let d := d.modReq i (fun r => { r with
    target := L, baseLog := baseLen, genStart := L, newLimit := if most = 0 || room < most then room else most,
    lastToken := e.now })
  if x.valid < baseLen then (d.setState e i .rebuild).modReq i (fun r => { r with revivedMark := true })
  else if x.valid < L then d.setState e i .prefill
  else d.setState e i .ready

/-- The revived flag of a request that enters REBUILD at commit: on the first entry of its input (Table 00.6). -/
def Device.markRevived (d : Device) (i base n : Nat) (staged : List Nat) : Device :=
  match (d.req i).state, staged with
  | .rebuild, w :: _ => (d.logPut base n [w + 2 ^ 21]).modReq i (fun r => { r with revivedDone := true })
  | _, _ => d

/-- COMMIT (R57): the staged tokens are appended as a whole. DESIGN CHOICE (log 95): a request pins its context as soon as
it holds one, before the log limit, its deadline and a missing extent can end it. -/
def Device.commitReq (e : Env) (d : Device) (i : Nat) : Device :=
  let r := d.req i
  let base := d.standing e r.session
  if base == 0 && r.staged.isEmpty then d.refuseReq e i 0x20 3
  else match d.contextFor e i with
    | none => d.refuseReq e i 0x11 0
    | some d =>
      let d := d.pinAt e i
      let c := (d.req i).context
      let x := d.ctx c
      let n := x.logLength
      let L := n + r.staged.length
      if L > Config.maxLog then d.endReq e i 0 3 0
      else if pastDeadline e r then d.endReq e i 0x31 0 1
      else match d.logEnsure e x.logBase L with
        | none => (d.modReq i (fun r => { r with noExtent := true })).endReq e i 0 3 4
        | some (b, d) =>
          let d := d.logPut b n r.staged
          let d := d.modCtx c (fun x => { x with logBase := b, logLength := L })
          let d := d.modReq i (fun r => { r with staged := [] })
          if L = Config.maxLog then
            (d.modReq i (fun r => { r with target := L, baseLog := n, genStart := L })).endReq e i 0 3 0
          else (d.placeReq e i n).markRevived i b n r.staged

/-- May a request commit: its last span has been staged (R57). -/
def Device.mayCommit (e : Env) (d : Device) (i : Nat) : Bool :=
  let r := d.req i
  d.serving e && r.bound && ((r.state == .admitted && r.parts.isEmpty) || (r.state == .intake && r.textLeft == 0))

/-- Is the revived flag still to be set: the request has entered REBUILD, and no entry it has appended since carries it
(Table 00.6). -/
def Request.revived (r : Request) : Bool := r.revivedMark && !r.revivedDone

/-! ## Demotion's record write (R68) -/

/-- The record write of a demotion completes: the entry becomes unused. -/
def effDemotionWritten (c : Nat) (e : Env) (d : Device) : Device :=
  if d.serving e && (d.ctx c).demoting then d.demoted e c else d

def execDemotionRecordWritten (t context : Nat) (s : State) : Host.Outcome State Fault Refusal :=
  s.act t (effDemotionWritten context)

end Sys2Proof.Machine
end

