-- ==== Sys2Proof/Machine/Reclaim.lean ====
section
/-! DEFINITION. Reclaim (R70, R71, R183–R187) and stagings (R188–R191): how frames come free for a demand. -/

namespace Sys2Proof.Machine

/-- Step 3: the block with refcount 0 that no block follows, least recently matched, lowest entry. -/
def Device.victim3 (d : Device) (what : Lack) : Option Nat :=
  (leastBy (fun (a b : Nat × PrefixEntry) => decide (a.2.lastMatched < b.2.lastMatched))
    (d.blocks.filter (fun b => b.2.refcount == 0 && !b.2.gone && b.2.followers == 0 && (match what with
      | .pool r pi => b.2.recipe == r && b.2.pages.any (fun p => ((d.info r).layer p.layer).pool == pi)
      | .lists => true)))).map (·.1)

/-- A block leaves the index: its frames are zeroed and freed, its prior loses a follower (R289). -/
def Device.dropBlock (d : Device) (b : Nat) : Device :=
  match tfind d.blocks b with
  | none => d
  | some x =>
    let d := x.pages.foldl (fun d p => d.releaseFrame x.recipe ((d.info x.recipe).layer p.layer).pool p.frame) d
    ({ d with blocks := tdel d.blocks b }).recount

/-- Steps 1 to 3 of Table 07.8, until `need` are free or on their way, in at most k victims each; step 3 only when step 2
yields nothing more. -/
def Device.reclaim3 (e : Env) (what : Lack) (need : Nat) : Nat → Device → Device
  | 0, d => d
  | k + 1, d =>
    if d.soonFree e what ≥ need then d else
    match d.victim3 what with
    | none => d
    | some b =>
      let n := match tfind d.blocks b with
        | some x => x.pages.length
        | none => 0
      ((d.dropBlock b).noteReclaim n 0 1 0).reclaim3 e what need k

/-- Steps 1 to 3. -/
def Device.reclaim23 (e : Env) (what : Lack) (need : Nat) (d : Device) : Device :=
  (d.reclaim2 e what need d.ctxs.length).reclaim3 e what need d.blocks.length

/-- Step 4: a seated, unpinned sequence of the requester's tenant with priority not above its, lowest priority, then
latest admission, then highest context index. -/
def Device.victim4 (d : Device) (i : Nat) (what : Lack) (granted : List Nat) : Option Nat :=
  let q := d.req i
  let lt := fun (a b : Nat × Request) =>
    decide (a.2.priority < b.2.priority) || (a.2.priority == b.2.priority &&
      (decide (b.2.order < a.2.order) || (a.2.order == b.2.order && decide (b.2.context < a.2.context))))
  (leastBy lt (d.reqs.filter (fun x => x.2.state == .seated && x.1 != i && x.2.tenant == q.tenant
    && x.2.priority ≤ q.priority && !granted.contains x.1 && !(d.ctx x.2.context).pinned
    && d.yields x.2.context what))).map (·.1)

/-- A sequence preemption is counted for a request's tenant (R216). -/
def Device.countPreempt (d : Device) (i : Nat) : Device :=
  d.modTenant (d.req i).tenant (fun t => { t with preemptions := sat lim64 (t.preemptions + 1) })

/-- Step 4 repeated until the need is met. -/
def Device.reclaim4 (e : Env) (i : Nat) (what : Lack) (need : Nat) (granted : List Nat) : Nat → Device → Device
  | 0, d => d
  | k + 1, d =>
    if d.soonFree e what ≥ need then d else
    match d.victim4 i what granted with
    | none => d
    | some v =>
      (((d.countPreempt v).takeFrames e (d.req v).context).noteReclaim 0 0 0 1).reclaim4 e i what need granted k

/-! ## KV demotion for a chosen chunk (R70) -/

/-! ### Stream ring space (R28, R378) -/

/-- Bytes of the longest token string of a Recipe's Mill tables (R28). -/
def Device.longest (d : Device) (recipe : Nat) : Nat :=
  match d.recipe recipe with
  | none => 0
  | some s => (upto (millV s.mill)).foldl (fun a t => let n := bits (vocabEntry s.mill t) 39 32; if a < n then n else a) 0

/-- The most records a step can write (R28). -/
def stepRecords (tokenMode : Bool) (longest k : Nat) : Nat :=
  if tokenMode then ceilDiv (k + 1) 11 + 1 else ceilDiv ((k + 1) * longest + 65) 44 + 1

/-- Records that a request at a draft length reserves. -/
def Device.reserves (d : Device) (x : Nat × Nat) : Nat :=
  let r := d.req x.1
  stepRecords r.tokenMode (d.longest r.recipe) x.2

/-- Free records of a stream ring: free entries less the records queued for it (R378). -/
def Device.streamFree (e : Env) (d : Device) (n : Nat) : Nat :=
  (d.ring .ts n).free (devSize e .ts n) - (d.prf.hostQueue.filter (fun x => x.ring == n)).length

/-- A READY request withheld from a seat: even at draft length 0 its reservation does not fit beside those of the seated
sequences of its ring (R28). -/
def Device.withheld (e : Env) (d : Device) (i : Nat) : Bool :=
  let r := d.req i
  let seated := d.reqs.filter (fun x => x.2.state == .seated && x.2.stream == r.stream)
  r.state == .ready &&
    decide (d.streamFree e r.stream < (seated.map (fun x => d.reserves (x.1, x.2.draftNow))).sum + d.reserves (i, 0))

/-- Is a live request blocked (03, Terms). -/
def Device.blocked (e : Env) (d : Device) (i : Nat) : Bool :=
  let r := d.req i
  match r.state with
  | .waitPage => true
  | .waitFetch => true
  | .ready => d.withheld e i
  | .prefill => !r.inChunk && r.waitFrom.isSome
  | .rebuild => !r.inChunk && r.waitFrom.isSome
  | _ => false

/-- The candidate of KV demotion, when every context that holds what is lacking is live (R70): lowest class, then oldest last progress, then lowest index. -/
def Device.demotable (e : Env) (d : Device) (i : Nat) (what : Lack) : Option Nat :=
  let holders := d.ctxs.filter (fun c => d.yields c.1 what)
  if holders.any (fun c => !c.2.live) then none
  else
    let lt := fun (a b : Nat × Context) => decide (a.2.cls < b.2.cls) ||
      (a.2.cls == b.2.cls && decide (a.2.lastProgress < b.2.lastProgress))
    (leastBy lt (holders.filter (fun c => c.2.request != i && !c.2.pinned
      && d.blocked e c.2.request))).map (·.1)

/-- KV demotion repeated until the need is met or no candidate remains. -/
def Device.demoteKv (e : Env) (i : Nat) (what : Lack) (need : Nat) : Nat → Device → Device
  | 0, d => d
  | k + 1, d =>
    if d.soonFree e what ≥ need then d else
    match d.demotable e i what with
    | none => d
    | some c => ((d.countPreempt (d.ctx c).request).takeFrames e c).demoteKv e i what need k

/-- What the needs ask of each pool, and of the list frames. -/
def Device.lacks (d : Device) (c : Nat) (ns : List (Nat × Nat × Nat)) : List (Lack × Nat) :=
  let x := d.ctx c
  let info := d.info x.recipe
  (needPools info ns).map (fun n => (.pool x.recipe n.1, n.2)) ++ [(.lists, x.listNeed info ns)]

/-- CONTEXT_PRESSURE (R71), once for a wait; a KV-holding context holds frames of its own (Table 03.3). -/
def Device.pressureEvent (e : Env) (d : Device) (i need : Nat) : Device :=
  if (d.req i).pressure then d else
  let pinned := (d.ctxs.filter (fun c => c.2.pinned)).length
  let kv := (d.ctxs.filter (fun c => c.2.frames > 0)).length
  (d.modReq i (fun r => { r with pressure := true })).raise e 0x0022 (i + pinned * 2 ^ 20 + kv * 2 ^ 37) need

/-! ## Zeroing (R185, R242) -/

/-- The number that stands for the list area where a command names a Recipe slot's frame. -/
def listArea : Nat := 16

/-- Is a frame being zeroed: slot `slot` of a pool, or a list frame. -/
def Device.isZeroing (d : Device) (r pi slot : Nat) : Bool :=
  if r = listArea then (match tfind d.lists slot with
    | some f => f.zeroing
    | none => false)
  else (d.frame r pi slot).zeroing

/-- A frame's zeroing is complete: its bytes are zero, it is free (Table 09.9). -/
def Device.zeroed (d : Device) (r pi slot : Nat) : Device :=
  let f := d.frame r pi slot
  if !d.isZeroing r pi slot then d
  else if r = listArea then { d with lists := tdel d.lists slot }
  else
  ({ d with loaf := slotClear ((d.info r).pool pi) slot d.loaf }).setFrame r pi slot { f with zeroing := false }

/-! ## Stagings (R188–R191) -/

/-- Pages outside the Loaf that reading positions lo to hi − 1 needs, none skipped by a window (R181, R189). -/
def Device.outside (d : Device) (c lo hi : Nat) : List Page :=
  let x := d.ctx c
  let info := d.info x.recipe
  x.pages.filter (fun p => p.tier != 0 && p.first < hi &&
    ((info.layer p.layer).kind != 2 ||
      p.first + (info.layerPool p.layer).tokens + (info.layer p.layer).window > lo + 1))

/-- The staging of a page, and whether its data have arrived. -/
def Device.staging (d : Device) (c l i : Nat) : Option (Nat × Bool) :=
  match d.frames.find? (fun f => match f.2.owner with
    | .stage c' l' i' _ => c' == c && l' == l && i' == i
    | _ => false) with
  | some (k, f) => (match f.owner with
    | .stage _ _ _ ok => some (k, ok)
    | _ => none)
  | none => none

/-- Are all these pages staged. -/
def Device.allStaged (d : Device) (c : Nat) (ps : List Page) : Bool :=
  ps.all (fun p => match d.staging c p.layer p.index with
    | some (_, ok) => ok
    | none => false)

/-- Bench slots of a pool in banks that still grant (Table 05.8): free, or holding a staging of no waiting or seated
request, least recently used first (R189). -/
def Device.benchFree (d : Device) (r pi : Nat) (keep : List Nat) : List Nat :=
  let p := (d.info r).pool pi
  let slots := ((upto p.bench).map (fun k => p.grantable + k)).filter (fun s =>
    (p.banksOf s).all (fun b => !d.health.out.contains b && !d.health.soft.contains b))
  let free := slots.filter (fun s => let f := d.frame r pi s; f.owner == .none)
  let spare := slots.filter (fun s => match (d.frame r pi s).owner with
    | .stage c _ _ _ => !keep.contains c
    | _ => false)
  free ++ sortBy (fun a b => decide ((d.frame r pi a).lastUse ≤ (d.frame r pi b).lastUse)) spare

/-- A step or item has read a context's stagings (R189). -/
def Device.useStagings (e : Env) (d : Device) (c : Nat) : Device :=
  { d with frames := d.frames.map (fun f => match f.2.owner with
      | .stage c' _ _ true => if c' == c then (f.1, { f.2 with lastUse := e.now }) else f
      | _ => f) }

/-- Contexts whose reservations stand (R189). -/
def Device.reservers (d : Device) : List Nat :=
  (d.reqs.filter (fun r => r.2.going && r.2.ctxValid && r.2.reserved)).map (·.2.context)

/-- Reserve bench frames for a request's full set of stagings, at once or not at all (R189). A bench frame is zeroed
before it serves another context (Table 09.9). -/
def Device.reserve (e : Env) (d : Device) (c : Nat) (ps : List Page) : Option Device :=
  let x := d.ctx c
  let info := d.info x.recipe
  let need := ps.filter (fun p => (d.staging c p.layer p.index).isNone)
  let keep := d.reservers
  let by_ := fun (pi : Nat) => (need.filter (fun p => (info.layer p.layer).pool == pi)).length
  let mark := fun (d : Device) => d.modReq x.request (fun r => { r with reserved := true })
  if (upto info.pools.length).any (fun pi => by_ pi > (d.benchFree x.recipe pi (c :: keep)).length) then none
  else some (mark (need.foldl (fun (d : Device) p =>
    let pi := (info.layer p.layer).pool
    match (d.benchFree x.recipe pi (c :: keep)).head? with
    | none => d
    | some s =>
      let d := { d with loaf := slotClear (info.pool pi) s d.loaf }
      d.setFrame x.recipe pi s { owner := .stage c p.layer p.index false, tag := (d.frame x.recipe pi s).tag,
                                 zeroing := false, lastUse := e.now }) d))

/-- Is a page that writing positions lo to hi − 1 touches under a move (R227). -/
def Device.writeMoving (d : Device) (c lo hi : Nat) : Bool :=
  let x := d.ctx c
  let info := d.info x.recipe
  x.pages.any (fun p => p.moving && ((info.layer p.layer).kind == 3 ||
    (upto (hi - lo)).any (fun j => info.indexOf p.layer (lo + j) == p.index)))

/-- R191: more stagings than bench frames: every page outside the Loaf from the first such page on is released, V
falls to its first position. -/
def Device.tooMany (e : Env) (d : Device) (c : Nat) (ps : List Page) : Option Device :=
  let x := d.ctx c
  let info := d.info x.recipe
  let past := (upto info.pools.length).any (fun pi =>
    (ps.filter (fun p => (info.layer p.layer).pool == pi)).length > (info.pool pi).bench)
  if !past then none
  else
    let first := ps.foldl (fun a p => if p.first < a then p.first else a) Config.maxLog
    let d := d.releasePages c (fun p => p.tier != 0 && p.first ≥ first)
    some (d.lowerV e c first)

end Sys2Proof.Machine
end

