-- ==== Sys2Proof/Machine/Engine.lean ====
section
/-! DEFINITION. The engines' common parts (05: R101, R104, R108, R110–R113, R126, R127; 07: R160, R166, R173–R181; 09:
R235): records and their fields, operands read from the Loaf beat by beat, the operators of the vector ALU, routing, the
pages that attention reads. -/

namespace Sys2Proof

open Machine

/-! ## Record fields (Tables 05.5, 06.3) -/

def OpRec.op (r : OpRec) : Nat := bits r.q0 7 0
def OpRec.group (r : OpRec) : Nat := bits r.q0 19 8
def OpRec.weightFmt (r : OpRec) : Nat := bits r.q0 23 20
def OpRec.actFmt (r : OpRec) : Nat := bits r.q0 27 24
def OpRec.laneMode (r : OpRec) : Nat := bits r.q0 29 28
def OpRec.rows (r : OpRec) : Nat := bits r.q1 23 0
def OpRec.reduction (r : OpRec) : Nat := bits r.q1 47 24
def OpRec.layer (r : OpRec) : Nat := bits r.q1 63 48
def OpRec.input (r : OpRec) : Nat := bits r.q2 31 0
def OpRec.output (r : OpRec) : Nat := bits r.q2 63 32
def OpRec.base (r : OpRec) : Nat := bits r.q3 31 0
def OpRec.aux (r : OpRec) : Nat := bits r.q3 63 32
/-- The formats of an Oven record. -/
def OpRec.ovenWeightFmt (r : OpRec) : Nat := bits r.q0 11 8
def OpRec.ovenActFmt (r : OpRec) : Nat := bits r.q0 15 12
def OpRec.ovenOutFmt (r : OpRec) : Nat := bits r.q0 19 16
def OpRec.stochastic (r : OpRec) : Bool := bit r.q0 20
def OpRec.saturate (r : OpRec) : Bool := bit r.q0 21

/-- The constants entry that a record's aux names; in attention its index lies in aux [15:4] (R179). -/
def RecipeInfo.const (i : RecipeInfo) (n : Nat) : ConstEntry := i.consts.getD n {}

/-- The format that a Recipe writes a seat-store region in; FP32 where it names none. -/
def RecipeInfo.regionFmt (i : RecipeInfo) (region : Nat) : Nat := match i.regions.find? (fun x => x.1 == region) with
  | some x => x.2
  | none => 6

/-- Attention's mode, soft-cap and constants (R179). -/
def OpRec.attMode (r : OpRec) : Nat := bits r.aux 1 0
def OpRec.softCap (r : OpRec) : Bool := bit r.aux 2
def OpRec.attConst (r : OpRec) (i : RecipeInfo) : AttConst :=
  let k := i.const (bits r.aux 15 4)
  ⟨k.c, k.cap, k.window⟩

/-- The KV pool that an attention record names (R179). -/
def RecipeInfo.attPool (i : RecipeInfo) (r : OpRec) : PoolInfo := i.pool (bits r.aux 19 16)

/-- Bytes of one stored head vector in the tray, elements and then block scales. -/
def PoolInfo.trayVec (p : PoolInfo) : Nat :=
  p.dim * kvBits p.write / 8 + (if p.write = 0 then p.dim / 16 else if p.write = 1 then p.dim / 32 else 0)

/-- Bytes of a position's 2H stored vectors in the tray. -/
def PoolInfo.trayRow (p : PoolInfo) : Nat := 2 * p.heads * p.trayVec

/-- The use that a program's record makes of a tensor. -/
def RecipeInfo.useOf (i : RecipeInfo) (program n : Nat) : Option TensorUse :=
  i.uses.find? (fun u => u.program == program && u.record == n)

/-- Rows of a pair that one slot of a set takes. -/
def SlotSet.rows (s : SlotSet) (i : RecipeInfo) : Nat :=
  ceilDiv (ceilDiv (s.size * 4096) (runPairs (i.groups.getD s.group []))) 256

end Sys2Proof

namespace Sys2Proof.Machine

/-- The 32-byte records of a section. -/
def sectionRecords (s : List Byte) : List OpRec :=
  (upto (s.length / 32)).map (fun i => ⟨secNat s (32 * i) 8, secNat s (32 * i + 8) 8, secNat s (32 * i + 16) 8,
    secNat s (32 * i + 24) 8⟩)

/-- What a program that an engine ran may have changed of the device: the Loaf, LPDDR5X, first positions in page lists,
what the engine keeps, the saturations counted. -/
def Device.ranBy (d x : Device) : Device :=
  { d with loaf := x.loaf, lp := x.lp, ctxs := x.ctxs, eng := x.eng, health := x.health }

/-! ## Reading the Loaf (R104, R107, R108, R112, R126) -/

/-- The Loaf as an engine reads it: its bytes, and the rows in which an uncorrectable error is found while it reads. -/
structure View where
  mem : Memory
  bad : List Nat

/-- A bank row, as one number. -/
def rowKey (slice bank row : Nat) : Nat := (2048 * slice + bank) * 16384 + row

/-- The rows that reports call uncorrectable. -/
def badRowKeys (rs : List EccReport) : List Nat := (rs.filter (·.bad)).map (fun r => rowKey r.slice r.bank r.row)

/-- Main beat `beat` of a pair, the stream's first bank being b₀ (R104): 128 bytes, and whether they are poisoned. -/
def View.beat (v : View) (slice pair b0 beat : Nat) : List Byte × Bool :=
  let bank := 2 * pair + (b0 + beat) % 2
  let row := beat / 2
  (mreads 0 v.mem (loafAddr slice bank (128 * row)) 128, v.bad.contains (rowKey slice bank row))

/-- n bytes of a stream from a beat on, as consecutive beats. -/
def View.stream (v : View) (slice pair b0 beat n : Nat) : List Byte × Bool :=
  let bs := (upto (ceilDiv n 128)).map (fun k => v.beat slice pair b0 (beat + k))
  (((bs.map (·.1)).flatten).take n, bs.any (·.2))

/-- The unit of a group that an output row falls to, and the row's place in the unit's share: r = ceil(R / U) rows a unit
(R112). Units are numbered in run order, ascending pair within a run (R111). -/
def unitOf (g : List Run) (R j : Nat) : Option (Nat × Nat) × Nat :=
  let r := ceilDiv R (runPairs g)
  (pairAt g (j / r), j % r)

/-- Where an operand lies: group, first row, element format, constants, and the detail that poisons it as a whole. -/
structure Operand where
  group : List Run
  base : Nat
  fmt : Nat
  const : ConstEntry
  bad : Nat

/-- Output row j of an operand of R rows of `red` elements: each row begins on a beat of its unit's stream; MX scales lie
densely in the pair from their own row on (R80, R108). -/
def View.row (v : View) (o : Operand) (R red j : Nat) : Vec :=
  match unitOf o.group R j with
  | (none, _) => { fmt := o.fmt, el := List.replicate red 0, sc := [], bad := o.bad }
  | (some (s, p), k) =>
    let n := ceilDiv (red * fmtBits o.fmt) 8
    let (bs, bad) := v.stream s p o.const.firstBank (2 * o.base + k * ceilDiv n 128) n
    let (sc, sbad) := if isMx o.fmt then
        (let at_ := k * (red / 32)
         let (xs, b) := v.stream s p (o.const.firstBank + 1) (2 * o.const.scaleRow + at_ / 128) (at_ % 128 + red / 32)
         ((xs.drop (at_ % 128)).map (·.toNat), b))
      else ([], false)
    ⟨o.fmt, unpack (fmtBits o.fmt) red bs, sc, if o.bad != 0 then o.bad else if bad || sbad then 2 else 0⟩

/-- A bias and FP32 scales after accumulation, each rounded (R88). -/
def scaleBias (c : ConstEntry) (j : Nat) (s : Num) : Num :=
  let s := match c.scales with
    | [] => s
    | [x] => s.mul x
    | xs => s.mul (xs.getD j oneF32)
  match c.bias with
  | [] => s
  | bs => s.add (bs.getD j 0)

/-- What an operator gives: FP32 words, NaNs made, poison. -/
structure Made where
  vals : List Nat
  nans : Nat
  bad : Nat

/-- Numbers as a result. -/
def Made.ofNums (xs : List Num) (bad : Nat) : Made := ⟨xs.map (·.v), (xs.map (·.nans)).sum, bad⟩

/-- Rows of weights times an activation vector (GEMV, ADAPT, LOGITS, GEMM and the rest of Table 04.6's users): each output
element reduced within one unit or cluster (R112, R135). -/
def matVec (oven : Bool) (c : ConstEntry) (rows : List Vec) (x : Vec) : Made :=
  Made.ofNums (rows.zipIdx.map (fun w => scaleBias c w.2 (macDot oven w.1 x))) (firstBad (x.bad :: rows.map (·.bad)))

/-! ## Operators of the vector ALU (Table 05.4) -/

/-- One FP32 operation on each pair of elements. -/
def eachPair (f : Nat → Nat → Nat) (xs ys : List Nat) : List Num :=
  (xs.zip ys).map (fun p => Num.op 0 [p.1, p.2] (f p.1 p.2))

/-- NORM: RMS norm (0) or layer norm (1) over a vector, by its statistics, then weight and bias. -/
def opNorm (c : ConstEntry) (xs : List Nat) : List Num :=
  let s := fun (k : Nat) => Config.statF32 k xs % 2 ^ 32
  let r := frsqrt (fadd (s (if c.which = 1 then 2 else 1)) c.value)
  xs.zipIdx.map (fun x =>
    let d : Num := if c.which = 1 then Num.op 0 [x.1, s 0] (fsub x.1 (s 0)) else ⟨x.1, 0⟩
    let y := (d.mul r).mul (c.weights.getD x.2 oneF32)
    match c.bias with
    | [] => y
    | bs => y.add (bs.getD x.2 0))

/-- ACT: SiLU 0, GELU 1, gated product 2 of the vector's two halves, squared ReLU 3, tanh soft-cap 4. -/
def opAct (c : ConstEntry) (n : Nat) (xs : List Nat) : List Num :=
  if c.which = 2 then eachPair fmul (xs.take n) (xs.drop n)
  else xs.map (fun x =>
    if c.which = 3 then (let y := if flt 0 x then x else if isNan x then x else 0; Num.op 0 [x] (fmul y y))
    else if c.which = 4 then
      (let q := Num.op 0 [x, c.cap] (fdiv x c.cap)
       (Num.op q.nans [q.v] (Config.actF32 2 q.v % 2 ^ 32)).mul c.cap)
    else Num.op 0 [x] (Config.actF32 c.which x % 2 ^ 32))

/-- ROPE: each pair of each head of 2 × (number of frequencies) elements is turned by its phase at a position (R90). -/
def opRope (c : ConstEntry) (pos : Nat) (xs : List Nat) : List Num :=
  let h := c.freqs.length
  xs.zipIdx.map (fun x =>
    let head := x.2 / (2 * h) * (2 * h)
    let o := x.2 % (2 * h)
    let (i, first) := if Config.ropeAdjacent then (o / 2, o % 2 == 0) else (o % h, decide (o < h))
    let mate := head + (if Config.ropeAdjacent then (if first then o + 1 else o - 1) else (if first then o + h else o - h))
    let ph := rotaryPhase pos (c.freqs.getD i 0)
    let a := Num.op 0 [x.1] (fmul x.1 (ftrig .cos ph))
    let b := Num.op 0 [xs.getD mate 0] (fmul (xs.getD mate 0) (ftrig .sin ph))
    let r := if first then Num.op 0 [a.v, b.v] (fsub a.v b.v) else Num.op 0 [a.v, b.v] (fadd a.v b.v)
    { r with nans := r.nans + a.nans + b.nans })

/-- ADD: the region written gains the input, times an FP32 scale. -/
def opAdd (scale : Nat) (old xs : List Nat) : List Num :=
  (old.zip xs).map (fun p =>
    let t := if scale = oneF32 then (⟨p.2, 0⟩ : Num) else Num.op 0 [p.2, scale] (fmul p.2 scale)
    let r := Num.op 0 [p.1, t.v] (fadd p.1 t.v)
    { r with nans := r.nans + t.nans })

/-- The linear recurrence h := a ⊙ h + u (R118), over the input's two halves a and u. -/
def opScan (n : Nat) (xs h : List Nat) : List Num :=
  ((xs.take n).zip ((xs.drop n).zip h)).map (fun p =>
    let (a, u, h) := p
    if Config.scanFused then
      Num.op 0 [a, u, h] (sumVal [(fFP32.decode a).mul (fFP32.decode h), fFP32.decode u]).to32
    else (Num.op 0 [a, h] (fmul a h)).add u)

/-! ## Routing (Table 05.4, R233–R235) -/

/-- The expert of greatest score not in a list, among those a condition allows; ties to the lower index (R235). -/
def bestExpert (scores : List Nat) (taken : List Nat) (ok : Nat → Bool) : Option Nat :=
  leastBy (fun a b => flt (scores.getD b 0) (scores.getD a 0))
    ((upto scores.length).filter (fun e => !taken.contains e && ok e))

/-- The k experts of greatest score. -/
def topExperts (scores : List Nat) : Nat → List Nat
  | 0 => []
  | k + 1 =>
    let xs := topExperts scores k
    match bestExpert scores xs (fun _ => true) with
    | some e => xs ++ [e]
    | none => xs

/-- The decisions of the step applied to a lane's experts (Table 09.7): SKIP (2) omits, NEXT_EXPERT (3) takes the
highest-scored unselected expert that is resident or committed, and omits where there is none. -/
def applyFates (scores : List Nat) (fate : Nat → Nat) (here : Nat → Bool) (sel : List Nat) : List Nat :=
  sel.foldl (fun xs e =>
    if fate e = 2 then xs.filter (· != e)
    else if fate e = 3 then (match bestExpert scores xs (fun x => here x && fate x = 0) with
      | some y => xs.map (fun x => if x = e then y else x)
      | none => xs.filter (· != e))
    else xs) sel

/-- A routed lane: its experts with their weights, renormalised by the Recipe's routing rule over those selected. -/
def routeWords (rule : Nat) (scores sel : List Nat) : List Nat :=
  (sel.zipIdx.map (fun e => [e.1, Config.routeWeight rule (sel.map (fun x => scores.getD x 0)) e.2 % 2 ^ 32])).flatten

/-- The weight of an expert in a routed lane. -/
def routedTo : List Nat → Nat → Option Nat
  | e :: w :: r, x => if e = x then some w else routedTo r x
  | _, _ => none

/-! ## Operands of a record, streamed tensors (R220, R234, R235) -/

/-- A streamed tensor's residency. -/
def Device.resident (d : Device) (recipe stream : Nat) : Residency := tget {} d.peel.resident (streamKey recipe stream)

/-- The operand of a record: at its place in the group, in the stream slot that holds it, or its shadow; none while it is
neither committed nor replaced by a fallback. -/
def Device.operand (d : Device) (recipe program n : Nat) (group : List Run) (fmt : Nat) (r : OpRec) : Option Operand :=
  let i := d.info recipe
  let c := i.const r.aux
  match (i.useOf program n).bind (·.stream) with
  | none => some ⟨group, r.base, fmt, c, 0⟩
  | some s =>
    let x := d.resident recipe s
    let en := match d.recipe recipe with
      | some sl => sl.streams.getD s ⟨0, 0, 0, 0⟩
      | none => ⟨0, 0, 0, 0⟩
    let shadow := i.residents[bits en.q3 63 32]?
    match x.fell, shadow, x.slot with
    | 1, some t, _ => some ⟨i.groups.getD t.group [], t.base, t.format, i.const t.const, 0⟩
    | _, _, some j =>
      let set := i.slotSets.getD (bits en.q0 11 4) ⟨0, 0, 0, 0⟩
      some ⟨i.groups.getD set.group [], set.base + j * set.rows i + r.base, fmt, c, if x.bad then 4 else 0⟩
    | _, _, none => none

/-- The fate of an expert in the present step or item: 0 used, 2 SKIP, 3 NEXT_EXPERT. -/
def Device.expertFate (d : Device) (recipe program region e : Nat) : Nat :=
  match (d.info recipe).uses.find? (fun u => u.program == program && u.expert == some (region, e)) with
  | some ⟨_, _, some s, _⟩ => let k := (d.resident recipe s).fell; if k = 2 || k = 3 then k else 0
  | _ => 0

/-- Is an expert resident, or committed in tier 0. -/
def Device.expertHere (d : Device) (recipe program region e : Nat) : Bool :=
  match (d.info recipe).uses.find? (fun u => u.program == program && u.expert == some (region, e)) with
  | some ⟨_, _, some s, _⟩ => (d.resident recipe s).slot.isSome
  | some _ => true
  | none => false

/-- The adapter rows of a record (R273): each on a beat of the version's data from row `base`; none without an adapter. -/
def Device.adapterRows (d : Device) (slot version : Nat) (r : OpRec) (fmt : Nat) : Option (List Vec) :=
  if version = 0 then none else
  match tfind d.adapters slot with
  | none => none
  | some a => match a.data.find? (fun x => x.1 == version) with
    | none => none
    | some x =>
      let n := vecBytes fmt r.reduction
      some ((upto r.rows).map (fun j => Vec.ofBytes fmt r.reduction ((x.2.drop (128 * (r.base + j * ceilDiv n 128))).take n) 0))

/-! ## Tray space (R140, R325) -/

/-- Where a tray-space offset lies in the memory of a work item: trays, and from 0x0800_0000 the Sifter's working memory
in a job (R325); none elsewhere. -/
def trayOffset (o : Nat) : Option Nat :=
  if o < 0x08000000 then some o
  else if o < 0x09000000 then some (0x0D000000 + (o - 0x08000000))
  else none

/-- Copy a run of listed bytes of one memory into another: what [a, a + n) holds goes to b and on. -/
def copyInto (src : Memory) (a n : Nat) (dst : Memory) (b : Nat) : Memory :=
  ((src.filter (fun c => a ≤ c.1 && c.1 < a + n)).foldr (fun c m => mwrite 0 m (b + (c.1 - a)) c.2)
    (mclear dst b (b + n)))

/-! ## Stored KV (R160, R166, R173, R188) -/

/-- n bytes of a slot from byte i on, and whether a row they lie in is bad. -/
def View.slotBytes (v : View) (p : PoolInfo) (slot i n : Nat) : List Byte × Bool :=
  let row := fun (k : Nat) => let a := p.byteAt slot (128 * k); rowKey (a / 2 ^ 32) (a / 2 ^ 21 % 2048) (a % 2 ^ 21 / 128)
  ((upto n).map (fun k => mread 0 v.mem (p.byteAt slot (i + k))),
    n != 0 && (upto ((i + n - 1) / 128 + 1 - i / 128)).any (fun k => v.bad.contains (row (i / 128 + k))))

/-- A stored head vector out of its element and scale bytes. -/
def storedVec (f dim sp : Nat) (el sc : List Byte) (bad : Nat) : StoredVec :=
  ⟨f, unpack (kvBits f) dim el, if f = 2 then [] else sc.map (·.toNat), sp, bad⟩

/-- The stored vector of head h, part c (0 K, 1 V) at offset i of the page in a slot (R160); the page scale is the
header's (R161). `detail` is the poison of an unreadable row. -/
def View.vec (v : View) (p : PoolInfo) (slot h c i detail : Nat) : StoredVec :=
  let row := (2 * h + c) * p.tokens + i
  let nb := p.dim * kvBits p.write / 8
  let b := if p.write = 0 then 16 else 32
  let (el, eb) := v.slotBytes p slot (row * nb) nb
  let (sc, sb) := if p.write = 2 then ([], false) else v.slotBytes p slot (p.frame + 128 + row * p.dim / b) (p.dim / b)
  let sp := if p.write = 0 then ofBytes (v.slotBytes p slot (p.frame + 4 * c) 4).1 else 0
  storedVec p.write p.dim sp el sc (if eb || sb then detail else 0)

/-- A page that attention may read: its page index in the layer, its slot and geometry, its first position, the poison
of an unreadable row (1 in a KV frame, 4 in a staging or after a move of bad words), and its list index. -/
structure PageView where
  index : Nat
  slot : Nat
  pool : PoolInfo
  first : Nat
  detail : Nat
  bad : Nat
  list : Nat

/-- The pages of a layer that lie in the Loaf or are staged there, in ascending page index, and the list indices of
those whose owner tag does not match the header's (R166); tier 3 counts as such a mismatch (R165). -/
def Device.pageViews (d : Device) (v : View) (c layer : Nat) (skip : Page → Bool) : List PageView × List Nat :=
  let x := d.ctx c
  let pl := (d.info x.recipe).layerPool layer
  let ps := (x.pages.filter (fun p => p.layer == layer && !skip p)).map (fun p =>
    let at_ := if p.tier = 0 then some (p.frame, 1) else match d.staging c p.layer p.index with
      | some (k, true) => some (k % 2 ^ 24, 4)
      | _ => none
    (p, at_))
  let good := fun (p : Page) (s : Nat) => p.tier != 3 && ofBytes (v.slotBytes pl s (pl.frame + 12) 2).1 % 4096 == p.tag
  let out := ps.filterMap (fun y => match y.2 with
    | some (s, det) => if good y.1 s then
        some (⟨y.1.first / pl.tokens, s, { pl with write := y.1.format }, y.1.first, det, if y.1.bad then 4 else 0, y.1.index⟩ : PageView)
      else none
    | none => none)
  (sortBy (fun a b => decide (a.index ≤ b.index)) out,
   ps.filterMap (fun y => match y.2 with
     | some (s, _) => if good y.1 s then none else some y.1.index
     | none => if y.1.tier = 3 then some y.1.index else none))

/-- The tokens of a page for one KV head. -/
def View.tokens (v : View) (w : PageView) (h : Nat) : List KvTok :=
  (upto w.pool.tokens).map (fun i =>
    let mk := fun (c : Nat) => let y := v.vec w.pool w.slot h c i w.detail
      { y with bad := if w.bad != 0 then w.bad else y.bad }
    ⟨w.first + i, 0, mk 0, mk 1⟩)

/-- Is every key of a page invisible to a query at q (R181). -/
def pageSkipped (mode window T q first : Nat) : Bool :=
  (mode != 2 && q < first) || (mode == 1 && first + T + window ≤ q + 1)

/-- The elements of query head h of a query vector. -/
def Vec.head (x : Vec) (dim h : Nat) : Vec :=
  { x with el := (x.el.drop (h * dim)).take dim, sc := (x.sc.drop (h * dim / 32)).take (dim / 32) }

/-! ## Logits slots (R117, R146) -/

/-- The logits slots in use by number, and the lowest free one (R146, R423). -/
def Device.logitsUsed (d : Device) : List Nat :=
  d.eng.logits.map (·.n) ++ (d.reqs.filter (·.2.slot)).map (·.2.slotNo)
def Device.freeLogits (d : Device) : Nat :=
  let u := d.logitsUsed
  ((upto (u.length + 1)).find? (fun n => !u.contains n)).getD 0

/-! ## Recurrent state (R118, R119) -/

/-- The FP32 words of a state slot of a layer; zero where the context has none. -/
def Device.readState (d : Device) (v : View) (c layer slot n : Nat) : List Nat × Nat :=
  let x := d.ctx c
  let p := (d.info x.recipe).layerPool layer
  match x.page layer slot with
  | none => (List.replicate n 0, 0)
  | some pg =>
    let w := if p.write = 3 then 32 else 16
    let (bs, bad) := v.slotBytes p pg.frame 0 (n * w / 8)
    let cs := unpack w n bs
    (if p.write = 3 then cs else cs.map fBF16.to32, if bad then 1 else 0)

end Sys2Proof.Machine
end

