-- ==== Sys2Proof/Machine/OvenRun.lean ====
section
/-! DEFINITION. The Oven runs a program over a work item (06: R134–R136, R139, R140, R144, R145, R151; 04: R96; 07: R171,
R177, R179, R180): every operator of Table 06.2 over the positions that the chunk staging buffer names. -/

namespace Sys2Proof.Machine

/-- A position of the item, as a row of each tray region: token word, position, item. -/
structure OvenPos where
  idx : Nat
  word : Nat
  pos : Nat
  item : Nat
  deriving DecidableEq, Repr

/-- A work item's frame: Recipe, program (2 prefill, 3 embed, 4 + n job program n), its items, the context of a chunk with its first
and last positions, whether it ends the request's range, adapter, the stream word of its draws, whether draws are taken. -/
structure Work where
  recipe : Nat
  program : Nat
  items : List Nat
  ctx : Option Nat
  start : Nat
  stop : Nat
  final : Bool
  adapter : Nat
  version : Nat
  stream : Nat
  random : Bool

/-- An item in progress: the device, trays and accumulators, Loaf rows found uncorrectable, the positions, the detail of
the first poisoned result, streamed tensors used, entries with a wrong owner tag, numeric events, logits, and whether a
streamed tensor is missing. -/
structure Bake where
  dev : Device
  mem : Memory
  bad : List Nat
  at_ : List OvenPos
  poison : Nat := 0
  used : List Nat := []
  stale : List (Nat × Nat) := []
  nans : Nat := 0
  sats : Nat := 0
  logits : List Nat := []
  blocked : Bool := false

def Bake.view (x : Bake) : View := ⟨x.dev.loaf, x.bad⟩

/-! ## Trays (R134, R140) -/

/-- n bytes at a tray-space offset. -/
def Bake.bytes (x : Bake) (o n : Nat) : List Byte := match trayOffset o with
  | some a => mreads 0 x.mem a n
  | none => List.replicate n 0

/-- Store bytes at a tray-space offset. -/
def Bake.store (x : Bake) (o : Nat) (bs : List Byte) : Bake := match trayOffset o with
  | some a => { x with mem := mwrites 0 x.mem a bs }
  | none => x

/-- The vector of n elements in row idx of a region: rows follow each other, MX scales after a row's elements. -/
def Bake.vec (x : Bake) (o f n idx : Nat) : Vec := Vec.ofBytes f n (x.bytes (o + idx * vecBytes f n) (vecBytes f n)) 0

/-- A record's input row. -/
def Bake.input (x : Bake) (r : OpRec) (n idx : Nat) : Vec := x.vec r.input r.ovenActFmt n idx

/-- The accumulator words of a row of outputs (Table 06.1), at the accumulators' place in Table 08.3. -/
def Bake.accumulate (x : Bake) (R idx : Nat) (vs : List Nat) : Bake :=
  { x with mem := (vs.zipIdx).foldl (fun m v => mwrites 0 m (0x08000000 + (idx * R + v.2) * 4 % 2 ^ 25) (toBytes 4 v.1)) x.mem }

/-- May a record's output format be rounded by draws (R96). -/
def drawn (f : Nat) : Bool := f != 1 && f != 6

/-- How element i of a row is rounded: to nearest even, or by the draw that its place keys (R96, R261). -/
def Bake.round (x : Bake) (w : Work) (r : OpRec) (p : OvenPos) (i : Nat) : Rnd :=
  let info := x.dev.info w.recipe
  if w.random && r.stochastic && drawn r.ovenOutFmt then
    .draw (draw16 info.stochasticSeed w.stream p.pos i (info.const r.aux).tensor)
  else .near

/-- Narrow a row of results and store it. -/
def Bake.put (x : Bake) (w : Work) (r : OpRec) (p : OvenPos) (m : Made) : Bake :=
  let (v, k) := narrowVec r.ovenOutFmt r.saturate (x.round w r p) m.vals m.bad
  { x with nans := x.nans + m.nans, sats := x.sats + k, poison := firstBad [x.poison, m.bad] }.store
    (r.output + p.idx * vecBytes r.ovenOutFmt m.vals.length) v.bytes

/-! ## Routing -/

/-- Bytes of a routed row: k experts with their weights. -/
def routeBytes (k : Nat) : Nat := 8 * k

/-- A position's router weight for the expert that a record works for; none where it is not routed to it. -/
def Bake.share (x : Bake) (w : Work) (prog : List OpRec) (n : Nat) (p : OvenPos) : Option Nat :=
  let info := x.dev.info w.recipe
  match (info.useOf w.program n).bind (·.expert) with
  | none => some oneF32
  | some (region, e) =>
    let k := match prog.find? (fun r => r.op == 0x5C && r.output == region) with
      | some r => (info.const r.aux).which
      | none => 0
    routedTo (unpack 32 (2 * k) (x.bytes (region + p.idx * routeBytes k) (routeBytes k))) e

/-! ## Attention (R145, R171, R177) -/

/-- KV_QUANT of a position: its K heads, then its V heads, in the stored format (R83, R84). -/
def Bake.quant (x : Bake) (w : Work) (r : OpRec) (p : OvenPos) : Bake :=
  let info := x.dev.info w.recipe
  let pl := info.layerPool r.layer
  let ly := info.layer r.layer
  let v := x.input r (2 * pl.heads * pl.dim) p.idx
  (upto (2 * pl.heads)).foldl (fun (x : Bake) k =>
    let c := k / pl.heads
    let (el, sc, n) := encodeVec pl r.saturate (ly.scale c) ((v.words.drop (k * pl.dim)).take pl.dim)
    { x with sats := x.sats + n }.store
      (r.output + p.idx * pl.trayRow + (2 * (k % pl.heads) + c) * pl.trayVec) (el ++ sc)) x

/-- A head vector of a position as KV_QUANT left it at an offset. -/
def Bake.trayKv (x : Bake) (info : RecipeInfo) (layer o idx h c : Nat) : StoredVec :=
  let pl := info.layerPool layer
  let b := x.bytes (o + idx * pl.trayRow + (2 * h + c) * pl.trayVec) pl.trayVec
  let n := pl.dim * kvBits pl.write / 8
  storedVec pl.write pl.dim (if pl.write = 0 then (info.layer layer).scale c else 0) (b.take n) (b.drop n) 0

/-- The segment of a position: that of its staged word (R151); a session's rows carry segment 0 (R180). -/
def Work.seg (w : Work) (p : OvenPos) : Nat := if w.ctx.isSome then 0 else bits p.word 27 22

/-- The pages that attention of a KV head goes over, by index: stored pages of earlier positions with the item's own
positions from the tray in their places; without pages, blocks of 256 positions of the item. -/
def Bake.pages (x : Bake) (w : Work) (r : OpRec) (o h : Nat) (vs : List PageView) (item : Nat) :
    List (Nat × List KvTok) :=
  let info := x.dev.info w.recipe
  let T := if w.ctx.isSome then (info.layerPool r.layer).tokens else 256
  let own := (x.at_.filter (fun p => p.item == item)).map (fun p =>
    (⟨p.pos, w.seg p, x.trayKv info r.layer o p.idx h 0, x.trayKv info r.layer o p.idx h 1⟩ : KvTok))
  let ks := sortBy (fun a b => decide (a ≤ b)) ((vs.map (·.index) ++ own.map (fun t => t.pos / T)).eraseDups)
  ks.map (fun k =>
    let old := match vs.find? (fun v => v.index == k) with
      | some v => x.view.tokens v h
      | none => []
    (k, (upto T).map (fun j =>
      let pos := k * T + j
      match own.find? (fun t => t.pos == pos), old.find? (fun t => t.pos == pos && (w.ctx.isNone || pos < w.start)) with
      | some t, _ => t
      | none, some t => t
      | none, none => ⟨pos, 2 ^ 32, {}, {}⟩)))

/-- ATT_PREFILL of an item: every position's queries over stored pages and the item's own keys and values. -/
def Bake.attend (x : Bake) (w : Work) (prog : List OpRec) (r : OpRec) : Bake :=
  let info := x.dev.info w.recipe
  let pl := info.attPool r
  let per := (info.layer r.layer).queryHeads / pl.heads
  let a := r.attConst info
  let o := match prog.find? (fun q => q.op == 0x50 && q.layer == r.layer) with
    | some q => q.output
    | none => 0
  let (vs, st) := match w.ctx with
    | some c => x.dev.pageViews x.view c r.layer (fun g => w.start ≤ g.first
        || pageSkipped r.attMode a.window pl.tokens w.start g.first)
    | none => ([], [])
  let x := { x with stale := x.stale ++ st.map (fun k => (r.layer, k)) }
  let tab := (w.items.map (fun it => (upto pl.heads).map (fun h => ((it, h), x.pages w r o h vs it)))).flatten
  x.at_.foldl (fun (y : Bake) p =>
    let q := x.input r (pl.heads * per * pl.dim) p.idx
    let hs := overHeads pl.heads per (fun h =>
      let ps := match tab.find? (fun t => t.1 == (p.item, h / per)) with
        | some t => t.2
        | none => []
      let parts := (ps.filter (fun k => !pageSkipped r.attMode a.window k.2.length p.pos (k.1 * k.2.length))).map (fun k =>
        let see := fun (t : KvTok) => visible r.attMode a.window p.pos t.pos (w.seg p) t.seg
        let pp := pageScores true a r.softCap see (q.head pl.dim h) k.1 k.2
        ((pp, pageValues true pl.dim pp k.2),
          firstBad (pp.bad :: (k.2.zip pp.seen).map (fun t => if t.2 then t.1.v.bad else 0))))
      (mergePages pl.dim (parts.map (·.1)), firstBad (parts.map (·.2)), (parts.map (fun t => t.1.1.nans)).sum))
    let m := Made.ofNums ((hs.map (·.1)).flatten) (firstBad (hs.map (fun t => t.2.1)))
    y.put w r p { m with nans := m.nans + (hs.map (fun t => t.2.2)).sum }) x

/-- Does a chunk write this position's KV: in a local layer only the positions that the ring holds at its end (R171). -/
def chunkWrites (info : RecipeInfo) (start stop layer pos : Nat) : Bool :=
  start ≤ pos && pos < stop &&
    ((info.layer layer).kind != 2 ||
      (let T := (info.layerPool layer).tokens
       ((stop - 1) / T + 1 - info.ringN layer) * T ≤ pos))

/-- KV_STORE: the item's stored K and V go to its context's pages as they lie in the tray (R145, R171); an item without a
context writes none (R152). -/
def Bake.keep (x : Bake) (w : Work) (r : OpRec) : Bake :=
  match w.ctx with
  | none => x
  | some c =>
    let info := x.dev.info w.recipe
    let pl := info.layerPool r.layer
    let n := pl.dim * kvBits pl.write / 8
    let dev := (x.at_.filter (fun p => chunkWrites info w.start w.stop r.layer p.pos)).foldl (fun d p =>
      (upto (2 * pl.heads)).foldl (fun (d : Device) k =>
        let b := x.bytes (r.input + p.idx * pl.trayRow + k * pl.trayVec) pl.trayVec
        d.putKv c r.layer p.pos (k / 2) (k % 2) (b.take n) (b.drop n)) d) x.dev
    { x with dev := dev }

/-! ## Recurrence, pooling, sketches -/

/-- SCAN_CHUNK: positions in ascending order from the context's state, zero before position 0 and in an item of its own;
the state of the last one goes to slot 0 (R118, Table 06.2). -/
def Bake.scan (x : Bake) (w : Work) (r : OpRec) : Bake :=
  w.items.foldl (fun (x : Bake) it =>
    let zero := List.replicate r.rows 0
    let (h0, hb) := match w.ctx with
      | some c => if w.start = 0 then (zero, 0) else x.dev.readState x.view c r.layer (x.dev.ctx c).stateSlot r.rows
      | none => (zero, 0)
    let (x, h) := (x.at_.filter (fun p => p.item == it)).foldl (fun (a : Bake × List Nat) p =>
      let m := Made.ofNums (opScan r.rows (a.1.input r (2 * r.rows) p.idx).words a.2) hb
      (a.1.put w r p m, m.vals)) (x, h0)
    match w.ctx with
    | some c => { x with dev := x.dev.writeState false c r.layer 0 r.saturate h }
    | none => x) x

/-- POOL: per item the mean (0), last (1) or first (2) position, then L2 normalisation where the constant is not 0. From
here on a row is an item. -/
def Bake.pool (x : Bake) (w : Work) (r : OpRec) : Bake :=
  let c := (x.dev.info w.recipe).const r.aux
  let rows := w.items.zipIdx.map (fun it =>
    let vs := (x.at_.filter (fun p => p.item == it.1)).map (fun p => (x.input r r.rows p.idx).words)
    let v := if c.which = 1 && !vs.isEmpty then vs.getLastD [] else if c.which = 2 && !vs.isEmpty then vs.headD []
      else (upto r.rows).map (fun j => Config.statF32 0 (vs.map (fun v => v.getD j 0)) % 2 ^ 32)
    let ys : List Num := if c.value = 0 then v.map (fun y => ⟨y, 0⟩)
      else v.map (fun y => (⟨y, 0⟩ : Num).mul (frsqrt (Config.statF32 3 v % 2 ^ 32)))
    ((⟨it.2, 0, 0, it.1⟩ : OvenPos), Made.ofNums ys 0))
  rows.foldl (fun (x : Bake) y => x.put w r y.1 y.2) { x with at_ := rows.map (·.1) }

/-- SKETCH: bit i is the sign bit of projection value i in FP32 (R326), packed under R79. -/
def sketchBytes (vs : List Nat) : List Byte := toBytes (vs.length / 8) (packBits 1 (vs.map (fun v => v / 2 ^ 31)))

/-! ## LOAD and STORE (R139) -/

/-- LOAD and STORE between LPDDR5X frame `base` and a tray offset, aux bytes. -/
def Bake.transfer (x : Bake) (r : OpRec) : Bake :=
  let a := r.base * 4096
  let n := r.aux
  if a + n > Config.lpBytes then x
  else if r.op = 0x78 then
    match trayOffset r.output with
    | some o => { x with mem := copyInto x.dev.lp a n x.mem o }
    | none => x
  else
    match trayOffset r.input with
    | some o => { x with dev := { x.dev with lp := copyInto x.mem o n x.dev.lp a } }
    | none => x

/-! ## A record, a program -/

/-- The operand's rows over the weight set, or the group its constants name. -/
def Bake.operand (x : Bake) (w : Work) (n : Nat) (r : OpRec) : Option Operand :=
  let info := x.dev.info w.recipe
  let g := match (info.const r.aux).group with
    | some g => info.groups.getD g []
    | none => info.weightRuns
  x.dev.operand w.recipe w.program n g r.ovenWeightFmt r

/-- Weights times the activations of each of these positions. -/
def Bake.gemm (x : Bake) (w : Work) (r : OpRec) (c : ConstEntry) (rows : List Vec) (ps : List OvenPos) : Bake :=
  ps.foldl (fun (x : Bake) p =>
    let m := matVec true c rows (x.input r r.reduction p.idx)
    (x.accumulate r.rows p.idx m.vals).put w r p m) x

/-- Each of these positions through an operator of the vector ALU, n input elements. -/
def Bake.each (x : Bake) (w : Work) (r : OpRec) (n : Nat) (ps : List OvenPos) (f : OvenPos → List Nat → List Num) : Bake :=
  ps.foldl (fun (x : Bake) p => x.put w r p (Made.ofNums (f p (x.input r n p.idx).words) 0)) x

/-- One command record over the item. -/
def Bake.record (x : Bake) (w : Work) (prog : List OpRec) (n : Nat) (r : OpRec) : Bake :=
  if x.blocked then x else
  let info := x.dev.info w.recipe
  let ps := x.at_.filter (fun p => (x.share w prog n p).isSome)
  if ps.isEmpty && r.op != 0x78 && r.op != 0x79 then x else
  match x.operand w n r with
  | none => { x with blocked := true }
  | some o =>
    let c := o.const
    let x := { x with used := x.used ++ (match (info.useOf w.program n).bind (·.stream) with
      | some s => [streamKey w.recipe s]
      | none => []) }
    let rows := fun (_ : Unit) => (upto r.rows).map (x.view.row o r.rows r.reduction)
    if r.op = 0x41 then x.gemm w r c (rows ()) ps
    else if r.op = 0x42 then
      (match x.dev.adapterRows w.adapter w.version r r.ovenWeightFmt with
      | some rs => x.gemm w r c rs ps
      | none => ps.foldl (fun (x : Bake) p => x.put w r p ⟨List.replicate r.rows 0, 0, 0⟩) x)
    else if r.op = 0x43 then
      ps.foldl (fun (x : Bake) p =>
        let y := x.view.row o info.vocab r.rows (p.word % 2 ^ 18)
        x.put w r p (Made.ofNums (y.words.zipIdx.map (fun z => scaleBias c z.2 ⟨z.1, 0⟩)) y.bad)) x
    else if r.op = 0x50 then ps.foldl (fun (x : Bake) p => x.quant w r p) x
    else if r.op = 0x51 then x.attend w prog r
    else if r.op = 0x52 then x.keep w r
    else if r.op = 0x58 then x.each w r r.rows ps (fun _ v => opNorm c v)
    else if r.op = 0x59 then x.each w r (if c.which = 2 then 2 * r.rows else r.rows) ps (fun _ v => opAct c r.rows v)
    else if r.op = 0x5A then x.each w r r.rows ps (fun p v => opRope c p.pos v)
    else if r.op = 0x5B then
      ps.foldl (fun (x : Bake) p =>
        let old := x.vec r.output r.ovenOutFmt r.rows p.idx
        let s := match x.share w prog n p with
          | some s => if s = oneF32 then c.scales.headD oneF32 else s
          | none => oneF32
        x.put w r p (Made.ofNums (opAdd s old.words (x.input r r.rows p.idx).words) 0)) x
    else if r.op = 0x5C then
      ps.foldl (fun (x : Bake) p =>
        let scores := (x.input r r.reduction p.idx).words
        let sel := applyFates scores (x.dev.expertFate w.recipe w.program r.output)
          (x.dev.expertHere w.recipe w.program r.output) (topExperts scores c.which)
        let ws := routeWords c.which scores sel
        x.store (r.output + p.idx * routeBytes c.which)
          (((ws ++ List.replicate (2 * c.which - ws.length) (2 ^ 32 - 1)).map (toBytes 4)).flatten)) x
    else if r.op = 0x60 then x.scan w r
    else if r.op = 0x68 then
      (match x.at_.getLast? with
      | some p => if !w.final then x else
        let m := matVec true c (rows ()) (x.input r r.reduction p.idx)
        { x with logits := m.vals, nans := x.nans + m.nans, poison := firstBad [x.poison, m.bad] }
      | none => x)
    else if r.op = 0x70 then x.pool w r
    else if r.op = 0x71 then
      ps.foldl (fun (x : Bake) p =>
        let m := matVec true c (rows ()) (x.input r r.reduction p.idx)
        { x with nans := x.nans + m.nans, poison := firstBad [x.poison, m.bad] }.store
          (r.output + p.idx * (r.rows / 8)) (sketchBytes m.vals)) x
    else if r.op = 0x7A then x.gemm w r c ((upto r.rows).map (x.vec r.base r.ovenWeightFmt r.reduction)) ps
    else x.transfer r

/-- A program over an item, record by record. -/
def Bake.run (x : Bake) (w : Work) (prog : List OpRec) : Bake :=
  prog.zipIdx.foldl (fun x r => x.record w prog r.2 r.1) x

/-- The positions that staged entries name; padded ones are discarded (R151). -/
def stagedPos (ss : List Staged) : List OvenPos :=
  ss.zipIdx.filterMap (fun s => s.1.item.map (fun k => ⟨s.2, s.1.word, s.1.pos, k⟩))

/-- The records of a Recipe's prefill (2) or embed (3) program (R140). -/
def Device.ovenProgram (d : Device) (recipe program : Nat) : List OpRec := match d.recipe recipe with
  | none => []
  | some s =>
    let all := sectionRecords s.ovenCode
    if program = 2 then all.take s.info.prefillRecords else (all.drop s.info.prefillRecords).take s.info.embedRecords

/-- What the last record left for item k of a row group: its vector (R151). -/
def Bake.vector (x : Bake) (w : Work) (prog : List OpRec) (bytes : Nat) (k : Nat) : List Byte :=
  match prog.getLast?, w.items.idxOf? k with
  | some r, some j => x.bytes (r.output + j * (if r.op = 0x71 then r.rows / 8 else vecBytes r.ovenOutFmt r.rows)) bytes
  | _, _ => []

/-- The item in the Oven, run through its program (Table 06.4, R151). -/
def Device.bake (d : Device) (w : Work) (ecc : List EccReport) : Bake :=
  ({ dev := d, mem := [], bad := badRowKeys ecc, at_ := stagedPos (d.eng.staged.headD []) } : Bake).run w
    (d.ovenProgram w.recipe w.program)

end Sys2Proof.Machine
end

