-- ==== Sys2Proof/Machine/Oven.lean ====
section
/-! DEFINITION. The Oven's work items: chunks (R142, R143), the choice of the next item (R201–R204), posting; the
Mill's quantum and COMMIT, which may make an item pending. -/

namespace Sys2Proof.Machine

/-- S: the Recipe's chunk length under OVN_CTL's limit (R141). -/
def Device.chunkS (e : Env) (d : Device) (recipe : Nat) : Nat :=
  let m := (d.info recipe).chunkMax
  if m < chunkLimit e then m else chunkLimit e

/-- The next chunk of a request (R142). -/
def Device.nextChunk (e : Env) (d : Device) (i : Nat) : Nat × Nat :=
  let r := d.req i
  let start := (d.ctx r.context).valid
  let stop := (start + d.chunkS e r.recipe) / 256 * 256
  (start, if r.target < stop then r.target else stop)

/-- Logits slots held (R146, R117). -/
def Device.slotsHeld (d : Device) : Nat :=
  (d.reqs.map (fun r => if r.2.state == .seated then 2 * r.2.draftNow + 1 else b2n r.2.slot)).sum

/-- A pending item: priority, admission order and LTIME, tenant, cost, and a request or an EMBED. -/
structure Head where
  priority : Nat
  order : Nat
  admitted : Nat
  tenant : Nat
  cost : Nat
  request : Option Nat
  embed : Nat
  deriving DecidableEq, Repr

/-- Pending items (R201): requests with a chunk not yet posted, which do not end at the next boundary; EMBEDs with a row group not yet posted. -/
def Device.heads (e : Env) (d : Device) : List Head :=
  (d.reqs.filter (fun r => r.2.moreChunks && r.2.ending.isNone)).map (fun r =>
      let c := d.nextChunk e r.1
      ⟨r.2.priority, r.2.order, r.2.admitted, r.2.tenant, c.2 - c.1, some r.1, 0⟩)
    ++ (d.oven.embeds.filter (fun x => !x.groups.isEmpty && x.textLeft == 0)).map (fun x =>
      ⟨x.priority, x.order, x.admitted, x.tenant, (x.groups.headD (0, [])).1, none, x.seq⟩)

/-- The head item of a tenant: highest priority, then admitted first (R201). -/
def headOf (hs : List Head) (t : Nat) : Option Head :=
  leastBy (fun a b => decide (b.priority < a.priority) || (a.priority == b.priority && decide (a.order < b.order)))
    (hs.filter (fun h => h.tenant == t))

/-- Does every condition of R143 hold but the grant of frames: what is read is in the Loaf or staged, what is written is
under no move (R227), and a last chunk's logits slot is free. A chunk waits for its request's earlier one (R142). -/
def Device.postable (e : Env) (d : Device) (h : Head) : Bool :=
  match h.request with
  | none => true
  | some i =>
    let r := d.req i
    let c := d.nextChunk e i
    !r.inChunk && !d.writeMoving r.context c.1 c.2 && d.allStaged r.context (d.outside r.context c.1 c.1)
      && (c.2 != r.target || r.slot || d.slotsHeld < logitsSlots e)

/-- Reserve the stagings that a chunk's reads want (R189), for a head that lacks them. DESIGN CHOICE (log 96): the wait of
a chunk for stagings alone is a wait for frames under R63. -/
def Device.wantStagings (e : Env) (d : Device) (h : Head) : Device :=
  match h.request with
  | none => d
  | some i =>
    let r := d.req i
    let c := d.nextChunk e i
    let ps := d.outside r.context c.1 c.1
    if r.inChunk || d.allStaged r.context ps then d
    else match d.tooMany e r.context ps with
      | some d => d
      | none =>
        let d := if r.waitFrom.isNone then (d.charge e i).modReq i (fun r => { r with waitFrom := some e.now, waitKind := 2 })
          else d
        (d.reserve e r.context ps).getD d

/-- The chunks that wait for stagings, first come first served (R189). -/
def Device.stageChunks (e : Env) (d : Device) : Device :=
  let at_ := fun (h : Head) => match h.request with
    | some i => ((d.req i).waitFrom.getD e.now)
    | none => e.now
  (sortBy (fun a b => decide (at_ a ≤ at_ b)) (d.heads e)).foldl (fun d h => d.wantStagings e h) d

/-- Grant a chunk's frames, reclaiming and demoting for it alone (R70, R203): the device, and whether all came. The wait's
detail is that of what is short now: list frames only where no pool is short (R186; DESIGN CHOICE, log 97). DESIGN CHOICE
(log 98): CONTEXT_PRESSURE's "frames the chunk still needs" are all of them, since none is granted. -/
def Device.grantChunk (e : Env) (d : Device) (i : Nat) : Device × Bool :=
  let r := d.req i
  let c := r.context
  let (start, stop) := d.nextChunk e i
  let info := d.info r.recipe
  let ns := (d.ctx c).needs info start stop
  if d.canGrant e c ns then (d.grant c ns, true)
  else
    let ls := d.lacks c ns
    let d := ls.foldl (fun d n => d.reclaim23 e n.1 n.2) d
    let d := ls.foldl (fun d n => d.demoteKv e i n.1 n.2 d.ctxs.length) d
    if d.canGrant e c ns then (d.grant c ns, true)
    else
      let pools := needPools info ns
      let lists := pools.all (fun n => (d.freeSlots r.recipe n.1).length ≥ n.2)
      let short := ls.any (fun n => d.soonFree e n.1 < n.2)
      let d := if r.waitFrom.isNone then (d.charge e i).modReq i (fun r => { r with waitFrom := some e.now, pressure := false })
        else d
      let d := d.modReq i (fun r => { r with waitKind := if lists then 3 else 2 })
      (if short then d.pressureEvent e i ((pools.map (·.2)).sum) else d, false)

/-! ## Posting (R136, R215) -/

/-- The staged entries of an EMBED's items: unpacked, a row each, padded to a multiple of 256 positions; packed, with
their segment numbers (R151). -/
def EmbedJob.staged (x : EmbedJob) (items : List Nat) : List Staged :=
  (items.zipIdx.map (fun k =>
    let ws := x.tokens.getD k.1 []
    let row := ws.zipIdx.map (fun w =>
      (⟨w.1 % 2 ^ 22 + (if x.packed then k.2 * 2 ^ 22 else 0), w.2, some k.1⟩ : Staged))
    if x.packed then row
    else row ++ (upto (roundUp ws.length 256 - ws.length)).map (fun j => ⟨0, ws.length + j, none⟩))).flatten

/-- What the Peel puts into the chunk staging buffer for an item (R136, Table 06.4 step 2, R149). -/
def Device.stagedOf (d : Device) : Item → List Staged
  | .chunk i start stop =>
    ((d.logWords (d.ctx (d.req i).context).logBase start stop).zipIdx).map (fun w => ⟨w.1, start + w.2, some 0⟩)
  | .rows seq _ items => match d.oven.embeds.find? (fun x => x.seq == seq) with
    | some x => x.staged items
    | none => []

/-- An item enters the Oven's queue, its tokens staged. -/
def Device.putItem (d : Device) (it : Item) : Device :=
  { d with oven := { d.oven with items := d.oven.items ++ [it] },
           eng := { d.eng with staged := d.eng.staged ++ [d.stagedOf it] } }

/-- The items that stay in the queue, with what is staged for them; the item at its front counts as ended when it goes. -/
def Device.keepItems (d : Device) (keep : Nat → Item → Bool) : Device :=
  let on := d.oven.items.zipIdx.filter (fun x => keep x.2 x.1)
  let out := match d.oven.items with
    | it :: _ => !keep 0 it
    | [] => false
  { d with oven := { d.oven with items := on.map (·.1), ended := d.oven.ended + b2n out },
           eng := { d.eng with staged := on.map (fun x => d.eng.staged.getD x.2 []) } }

/-- Post an item: charged to its tenant, positions counted (R215, R204). -/
def Device.post (e : Env) (d : Device) (h : Head) : Device :=
  let d := d.modTenant h.tenant (fun t => { t with positions := sat lim64 (t.positions + h.cost), used := t.used + h.cost })
  match h.request with
  | some i =>
    let (start, stop) := d.nextChunk e i
    let d := d.charge e i
    let last := stop == (d.req i).target
    let d := d.modReq i (fun r => { r with chunk := some (start, stop), waitFrom := none, pressure := false,
                                           postedAt := d.kn.step,
                                           slot := r.slot || last,
                                           slotNo := if last && !r.slot then d.freeLogits else r.slotNo })
    d.putItem (.chunk i start stop)
  | none =>
    match d.oven.embeds.find? (fun x => x.seq == h.embed) with
    | none => d
    | some x =>
      let g := x.groups.headD (0, [])
      let go := fun (y : EmbedJob) =>
        if y.seq == h.embed then { y with groups := y.groups.drop 1, postedAt := y.postedAt ++ [d.kn.step] } else y
      let d := { d with oven := { d.oven with embeds := d.oven.embeds.map go } }
      d.putItem (.rows h.embed g.1 g.2)

/-- The visit loop of R202 over (tenant, cost, quantum), from a pointer: at most n turns. Answers the deficits, the
pointer, the credited flag, and the tenant whose head is chosen. -/
def visit (ts : List (Nat × Nat × Nat)) : Nat → Tbl Nat → Nat → Bool → Tbl Nat × Nat × Bool × Option Nat
  | 0, p, ptr, cr => (p, ptr, cr, none)
  | n + 1, p, ptr, cr =>
    let after := fun (x : Nat) => match (ts.filter (fun t => t.1 > x)).head? with
      | some t => t.1
      | none => (ts.headD (0, 0, 0)).1
    let (ptr, cr) := if ts.any (fun t => t.1 == ptr) then (ptr, cr) else (after ptr, false)
    match ts.find? (fun t => t.1 == ptr) with
    | none => (p, ptr, cr, none)
    | some (_, cost, q) =>
      let p := if cr then p else tset p ptr (tget 0 p ptr + q)
      if tget 0 p ptr ≥ cost then (tset p ptr (tget 0 p ptr - cost), ptr, true, some ptr)
      else visit ts n p (after ptr) false

/-- The loop of R202 in a bounded number of turns: one cycle, the cycles that choose nothing skipped at once, one more. -/
def chooseTenant (ts : List (Nat × Nat × Nat)) (p : Tbl Nat) (ptr : Nat) (cr : Bool) : Tbl Nat × Nat × Bool × Option Nat :=
  match visit ts (ts.length + 1) p ptr cr with
  | (p, ptr, cr, some t) => (p, ptr, cr, some t)
  | (p, ptr, cr, none) =>
    let turns := ts.map (fun t => ceilDiv (t.2.1 - tget 0 p t.1) t.2.2)
    let least := turns.foldl (fun a b => if b < a then b else a) (turns.headD 1)
    let skip := least - 2
    let p := ts.foldl (fun p t => tset p t.1 (tget 0 p t.1 + skip * t.2.2)) p
    visit ts (2 * ts.length + 2) p ptr cr

/-- Is a tenant in budget (R204). -/
def Tenant.inBudget (t : Tenant) : Bool := t.budget == 0 || t.used < t.budget - t.carry

/-- Deficits as a table. -/
def Device.ovenDeficits (d : Device) : Tbl Nat := d.kn.tenants.map (fun t => (t.1, t.2.ovenDeficit))

/-- Choose and post the next item, tenants in `out` left out; at most n tries (R202, R204). -/
def Device.chooseItem (e : Env) (out : List Nat) : Nat → Device → Device × Bool
  | 0, d => (d, false)
  | n + 1, d =>
    let hs := d.heads e
    let ts := (((hs.map (·.tenant)).eraseDups).filter (fun t => !out.contains t))
    let hs' := (sortBy (fun a b => decide (a ≤ b)) ts).filterMap (fun t => headOf hs t)
    let ok := hs'.filter (d.postable e)
    if tokenBudgetMode e then
      let lt := fun (a b : Head) => decide (b.priority < a.priority) || (a.priority == b.priority && decide (a.admitted < b.admitted))
      match leastBy lt (ok.filter (fun h => (d.tenant h.tenant).inBudget)) with
      | none => (d, false)
      | some h =>
        let (d, got) := match h.request with
          | some i => d.grantChunk e i
          | none => (d, true)
        if got then (d.post e h, true) else d.chooseItem e (h.tenant :: out) n
    else if ok.isEmpty then (d, false)
    else
      let q := fun (t : Nat) => (d.tenant t).weight * prefillQuantum e
      let (p, ptr, cr, who) := chooseTenant (ok.map (fun h => (h.tenant, h.cost, q h.tenant))) d.ovenDeficits
        d.kn.ovenPtr d.kn.credited
      match ok.find? (fun h => some h.tenant == who) with
      | none => (d, false)
      | some h =>
        let set := fun (d : Device) => (ok.map (·.tenant)).foldl (fun (d : Device) t =>
          d.modTenant t (fun x => { x with ovenDeficit := tget 0 p t })) d
        let d := set { d with kn := { d.kn with ovenPtr := ptr, credited := cr } }
        let (d, got) := match h.request with
          | some i => d.grantChunk e i
          | none => (d, true)
        if got then (d.post e h, true)
        else (d.modTenant h.tenant (fun x => { x with ovenDeficit := x.ovenDeficit + h.cost })).chooseItem e
          (h.tenant :: out) n

/-- Tenants that are not Oven-active lose their deficit (R201). -/
def Device.dropDeficits (d : Device) : Device := (d.kn.tenants.map (·.1)).foldl (fun d t => d.dropDeficit t) d

/-- A job holds the chip or takes it. -/
def Device.jobHolds (d : Device) : Bool :=
  d.kn.jobs.any (fun j => j.state == .taking || j.state == .running || j.state == .saving)

/-- Is a job being saved: other LPDDR5X traffic waits (R212). -/
def Device.saving (d : Device) : Bool := d.kn.jobs.any (fun j => j.state == .saving)

/-- Fill the Oven's queue of two (R202): a withdrawn item is posted first; before and after, tenants that are not
Oven-active lose their deficit (R201). -/
def Device.fillOven (e : Env) (d : Device) : Device :=
  if d.jobHolds then d else
  let d := match d.kn.withdrawn with
    | some it => if d.oven.items.length < 2 then
        ({ d with kn := { d.kn with withdrawn := none } } : Device).putItem it else d
    | none => d
  let d := d.stageChunks e
  let d := d.dropDeficits
  let n := (d.heads e).length + 1
  let one := fun (d : Device) => if d.oven.items.length < 2 then (d.chooseItem e [] n).1 else d
  (one (one d)).dropDeficits

/-! ## Commands that make items pending -/

/-- COMMIT: the request commits (R57), and an idle Oven takes new work at once (R202). -/
def effCommit (i : Nat) (e : Env) (d : Device) : Device :=
  if d.mayCommit e i then (d.commitReq e i).fillOven e else d

def execCommit (t request : Nat) (s : State) : Host.Outcome State Fault Refusal := s.act t (effCommit request)

end Sys2Proof.Machine
end

