-- ==== Sys2Proof/Machine/Summary.lean ====
section
/-! DEFINITION. RESYNC (02: R47, R48, R392; R390 in recovery mode): the summary and its writing at a boundary. -/

namespace Sys2Proof.Machine

/-- Bytes of the summary (Table 02.13). -/
def summaryLen : Nat := 135808

/-- Submission ring entry of the summary. -/
def Device.sumSq (e : Env) (d : Device) (n : Nat) : Nat :=
  let r := d.sqr n
  r.head + r.tail * 2 ^ 16 + b2n r.bad * 2 ^ 32 + b2n r.enabled * 2 ^ 33 + b2n (sqPriv e n) * 2 ^ 34 + sqCq e n * 2 ^ 35

/-- Completion ring entry. -/
def Device.sumCq (d : Device) (n : Nat) : Nat :=
  let r := d.ring .cq n
  r.next + b2n r.phase * 2 ^ 20 + r.lastHead * 2 ^ 21 + b2n (!r.held.isEmpty) * 2 ^ 41 + b2n r.bad * 2 ^ 42

/-- Stream ring entry. -/
def Device.sumTs (d : Device) (n : Nat) : Nat :=
  let r := d.ring .ts n
  r.next + b2n r.phase * 2 ^ 16 + r.lastHead * 2 ^ 17 + b2n r.withheld * 2 ^ 33 + b2n r.bad * 2 ^ 34

/-- Requests in a state. -/
def Device.inState (d : Device) (st : ReqState) : Nat := (d.reqs.filter (fun r => r.2.state == st)).length

/-- Request entries by state, in the order of Table 02.13. -/
def Device.stateCounts (d : Device) : List Nat :=
  let live := (d.reqs.filter (fun r => r.2.live)).length
  (Config.requestEntries - live) :: [ReqState.admitted, .intake, .prefill, .rebuild, .ready, .seated, .waitPage,
    .waitFetch, .done, .failed].map d.inState

/-- Live requests of an epoch. -/
def Device.inEpoch (d : Device) (n : Nat) : Nat := (d.reqs.filter (fun r => r.2.live && r.2.epoch == n)).length

/-- The job that holds the chip. -/
def Device.jobOn (d : Device) : Option Job :=
  d.kn.jobs.find? (fun j => j.state == .taking || j.state == .running || j.state == .saving)

/-- What is left of a job's slice in ns, 0 when unlimited or spent. -/
def Job.left (j : Job) (now : Nat) : Nat := if j.slice = 0 then 0 else if j.state == .running then j.sliceEnd - now else j.remaining.toNat

/-- Recipe slot entry, 32 bytes. -/
def Device.sumRecipe (d : Device) (n : Nat) : List Byte :=
  let live := (d.reqs.filter (fun r => r.2.live && r.2.recipe == n)).length
  match d.recipe n with
  | none => toBytes 32 0
  | some s => toBytes 8 (1 + b2n s.replace * 2 + live * 2 ^ 32) ++ toBytes 8 (s.digest % 2 ^ 64) ++ toBytes 16 0

/-- Adapter slot entry. -/
def Device.sumAdapter (d : Device) (n : Nat) : Nat :=
  match tfind d.adapters n with
  | none => 0
  | some a =>
    let cur := a.current.getD 0
    let on := (d.reqs.filter (fun r => r.2.live && r.2.version != 0 && r.2.adapter == n && r.2.version == cur)).length
    let older := (a.versions.filter (fun v => some v.1 != a.current)).length
    b2n a.current.isSome + a.recipe * 2 ^ 4 + cur * 2 ^ 8 + sat lim16 on * 2 ^ 16 + older * 2 ^ 32

/-- Tenant entry. -/
def Device.sumTenant (d : Device) (n : Nat) : Nat :=
  let t := d.tenant n
  let live := (d.reqs.filter (fun r => r.2.live && r.2.tenant == n)).length
  t.weight + b2n t.held * 2 ^ 16 + live * 2 ^ 17

/-- Handoffs in progress, in ascending session. -/
def Device.sumHandoffs (d : Device) : List Byte :=
  let hs := (sortBy (fun a b => decide (a.session ≤ b.session)) d.kn.handoffs).take 4096
  let one := fun (h : Handoff) =>
    toBytes 16 (h.session + h.peer * 2 ^ 32 + b2n (!h.outgoing) * 2 ^ 38 + h.phase * 2 ^ 39 + h.epoch * 2 ^ 41)
  (hs.map one).flatten ++ toBytes (16 * (4096 - hs.length)) 0

/-- n entries of a size, given by a function. -/
def entries (n size : Nat) (f : Nat → Nat) : List Byte := ((upto n).map (fun i => toBytes size (f i))).flatten

/-- The summary of a served device from offset 8 on. -/
def Device.summary (e : Env) (d : Device) (draw : Nat) : List Byte :=
  let kn := d.kn
  let usable := 12 * 2048 - d.health.out.length
  let ctxs := d.ctxs.filter (fun c => c.2.held)
  let w := (d.inflight.filter (fun x => opClass x.op == some .w)).length
  let grammars := (d.grammars.filter (fun g => !g.2.draining)).foldl (fun a g => a + 2 ^ g.1) 0
  let (jobQ0, slice) := match d.jobOn with
    | some j => (1 + j.cookie * 2 ^ 32, j.left e.now)
    | none => (0, 0)
  let saved := (kn.jobs.filter (fun j => j.state == .saved)).length
  let older := if kn.twoLive then kn.older.num else kn.newer.num
  toBytes 8 e.now ++ toBytes 8 (1 + summaryLen * 2 ^ 32)
    ++ toBytes 8 (sat 4096 kn.handoffs.length + d.pem.ops.length * 2 ^ 16)
    ++ toBytes 8 (usable + d.health.generation * 2 ^ 32) ++ toBytes 216 w
    ++ entries 256 8 (d.sumSq e) ++ entries 64 8 d.sumCq ++ entries 64 8 d.sumTs
    ++ toBytes 64 (d.eq.next + b2n d.eq.phase * 2 ^ 16 + d.eq.lastHead * 2 ^ 17 + d.hif.dropped * 2 ^ 33)
    ++ toBytes 64 (packBits 32 d.stateCounts)
    ++ toBytes 16 (packBits 32 [ctxs.length, (ctxs.filter (fun c => c.2.pinned)).length,
        (ctxs.filter (fun c => c.2.live)).length, d.dirCount e]) ++ toBytes 48 (kn.demotions % 2 ^ 64)
    ++ toBytes 8 (older + kn.newer.num * 2 ^ 16 + b2n kn.install.isSome * 2 ^ 32)
    ++ toBytes 56 (packBits 32 [if kn.twoLive then d.inEpoch older else 0, d.inEpoch kn.newer.num])
    ++ (entries 4 8 (fun a => damperShare e a + Config.meanDraw draw a % 2 ^ 16 * 2 ^ 16) ++ toBytes 32 0)
    ++ (toBytes 8 jobQ0 ++ toBytes 4 saved ++ toBytes 6 slice ++ toBytes 46 0)
    ++ toBytes 512 grammars ++ ((upto 16).map d.sumRecipe).flatten
    ++ entries 4096 8 d.sumAdapter ++ entries 4096 8 d.sumTenant ++ d.sumHandoffs

/-- The summary in recovery mode: the fields of ring 0, zero elsewhere (R390). -/
def Device.summaryRom (e : Env) (d : Device) : List Byte :=
  toBytes 248 0 ++ toBytes 2048 (d.sumSq e 0) ++ toBytes (summaryLen - 2304) (d.sumCq 0)

/-- Write a RESYNC's summary, its header last, and its completion (R47). -/
def Device.writeSummary (e : Env) (d : Device) (f : Fetched) : Device :=
  let fail := d.hearth.resyncMigration && d.mode == .running
  let status := if fail then 0x63 else 0
  let (n, d) := d.draw
  let body := if d.mode == .recovery then d.summaryRom e else d.summary e n
  let d := { d with hearth := { d.hearth with resyncMigration := d.hearth.resyncMigration && !fail } }
  let d := (d.hostWrite (f.w 2 + 8) body).hostWrite (f.w 2) (toBytes 8 (bits (f.w 3) 31 0 + status * 2 ^ 32))
  d.completeD e f status 0 summaryLen

/-- Fetch the descriptor that a resync doorbell names: a valid RESYNC waits for the next boundary, any other one gets
its header alone (R47). -/
def Device.fetchResync (e : Env) (d : Device) (a : Nat) : Device :=
  let f : Fetched := ⟨none, d.nextSeq, (upto 8).map (fun i => d.hostNat (a + 8 * i) 8)⟩
  if f.op == 0x3F && (f.form e).isNone then { d with resync := d.resync ++ [f] }
  else d.hostWrite (f.w 2) (toBytes 8 (bits (f.w 3) 31 0 + 0x20 * 2 ^ 32))

/-- Serve the RESYNCs that wait, then take the doorbell kept meanwhile (R47). DESIGN CHOICE (log 38): while the host link is
down the summary cannot be written (R21), and a waiting RESYNC's snapshot is taken at the first boundary after the link is
up again. -/
def Device.snapshot (e : Env) (d : Device) : Device :=
  if !d.hif.linkUp then d else
  let fs := d.resync
  let d := fs.foldl (fun d f => d.writeSummary e f) { d with resync := [] }
  match d.resyncDb with
  | some a => { d with resyncDb := none }.fetchResync e a
  | none => d

/-! ## The commands -/

/-- RESYNC waits for the next boundary; in recovery mode, which has none, it is answered at once. -/
def effResync (e : Env) (d : Device) (f : Fetched) : Device :=
  if d.mode == .recovery then d.writeSummary e f else { d with resync := d.resync ++ [f] }

/-- Where it is answered at once, it waits for the link (R21). -/
def execResync (t ring : Nat) (s : State) : Host.Outcome State Fault Refusal :=
  s.act t (fun e d => if d.mode == .recovery && !d.hif.linkUp then d else onDesc ring 0x3F effResync e d)

/-- The resync doorbell (R429): one aligned 64-bit write, while set-up is closed; kept when a RESYNC is in progress. -/
def effResyncDoorbell (width addr : Nat) (e : Env) (d : Device) : Device :=
  if width != 8 || !e.closed || !d.heard || d.mode != .running || addr % 64 != 0 then d
  else if d.resync.isEmpty then d.fetchResync e addr
  else { d with resyncDb := some addr }

def execResyncDoorbell (t width addr : Nat) (visible : List (Nat × Byte)) (s : State) :
    Host.Outcome State Fault Refusal :=
  s.act t (fun e d => effResyncDoorbell width addr e (d.visible visible))

end Sys2Proof.Machine
end

