-- ==== Sys2Proof/Machine/Changes.lean ====
section
/-! DEFINITION. Changes to live requests: CANCEL, PARK, MODIFY, TENANT_SET and when they apply (R14, R32, R33, R60, R64,
R65, R194, R200, R284), deadlines and wait bounds (R63, R186), the budget period (R204). -/

namespace Sys2Proof.Machine

/-! ## Targets -/

/-- The live request that a CANCEL, PARK or MODIFY names (R32). -/
def Device.target (d : Device) (f : Fetched) : Option Nat :=
  if f.session != 0 then d.reqOf f.session
  else
    let i := bits (f.w 4) 19 0
    let r := d.req i
    if f.op != 3 && r.live && r.session == 0 && r.incarnation == bits (f.w 4) 35 20 then some i else none

/-- Does the session or request named belong to another tenant than an unprivileged ring's (R33)? The live request
decides, else the resident context, else the record. -/
def Device.foreign (e : Env) (d : Device) (f : Fetched) : Bool :=
  match f.ring with
  | none => false
  | some n =>
    if sqPriv e n then false
    else
      let owner : Option Nat := match d.target f with
        | some i => some (d.req i).tenant
        | none => match d.ctxOf f.session with
          | some c => some (d.ctx c).tenant
          | none =>
            let x := d.dirRead e f.session
            if f.session != 0 && x.valid && x.session == f.session then some x.tenant else none
      match owner with
      | some t => t != sqTenant e n
      | none => false

/-- The session is in a HANDOFF (R284). -/
def Device.inHandoff (d : Device) (session : Nat) : Bool :=
  session != 0 && d.kn.handoffs.any (fun h => h.session == session)

/-! ## Applying -/

/-- A request cancelled: CANCELLED, its logged count stands (R14, R60). -/
def Device.cancelReq (e : Env) (d : Device) (i : Nat) : Device := d.endReq e i 0x32 0 0

/-- Steps 2 to 4 of R284 on a session's resident context: the pin cleared, the parked bit set, and with demote now the
demotion, at once or when the live request's completion is written. -/
def Device.parkCtx (d : Device) (f : Fetched) : Device :=
  match d.ctxOf f.session with
  | none => d
  | some c =>
    let d := d.modCtx c (fun x => { x with pinned := false, parked := true })
    if !bit (f.w 2) 0 then d
    else if (d.ctx c).live then d.modCtx c (fun x => { x with demoteDue := true })
    else d.demote c true

/-- The new deadline and priority of a MODIFY; the context's class follows the priority (R65). -/
def Device.modifyReq (d : Device) (f : Fetched) (i : Nat) : Device :=
  let p := bits (f.w 3) 2 0
  let d := d.modReq i (fun r => { r with priority := if bit (f.w 3) 3 then p else r.priority,
                                         deadline := if bit (f.w 3) 4 then f.w 2 else r.deadline })
  let r := d.req i
  if r.ctxValid && bit (f.w 3) 3 then d.modCtx r.context (fun x => { x with cls := p }) else d

/-- Is request i still the one a change named, and going. -/
def Device.named (d : Device) (i inc : Nat) : Bool := (d.req i).going && (d.req i).incarnation == inc

/-- Apply one change: a request that has ended by then leaves detail 0x0002 (R64). -/
def Device.applyChange (e : Env) (d : Device) : Change → Device
  | .cancel f i inc => if d.named i inc then (d.cancelReq e i).completeD e f 0 0 0 else d.completeD e f 0 2 0
  | .park f i inc =>
    if d.named i inc then ((d.cancelReq e i).parkCtx f).completeD e f 0 0 0 else (d.parkCtx f).completeD e f 0 2 0
  | .modify f i inc => if d.named i inc then (d.modifyReq f i).completeD e f 0 0 0 else d.completeD e f 0 2 0
  | .tenantSet f =>
    (d.modTenant f.tenant (fun t => { t with weight := bits (f.w 2) 15 0, held := bit (f.w 2) 16,
                                             budget := bits (f.w 2) 63 32 })).completeD e f 0 0 0

/-- Does a change wait for the end of a chunk (R14)? -/
def Device.waitsChunk (d : Device) : Change → Bool
  | .cancel _ i inc => d.named i inc && (d.req i).inChunk
  | .park _ i inc => d.named i inc && (d.req i).inChunk
  | .modify _ _ _ => false
  | .tenantSet _ => false

/-- Apply the changes read since the last boundary, in the order read; those that wait for a chunk stay (R194). -/
def Device.applyChanges (e : Env) (d : Device) : Device :=
  let cs := d.kn.changes
  cs.foldl (fun d c =>
    if d.waitsChunk c then { d with kn := { d.kn with changes := d.kn.changes ++ [c] } } else d.applyChange e c)
    { d with kn := { d.kn with changes := [] } }

/-- The request a cancelling change names. -/
def Change.cancels : Change → Option Nat
  | .cancel _ i _ => some i
  | .park _ i _ => some i
  | _ => none

/-- Apply the cancels and parks that wait for a request's chunk, at its end (R14, R64). -/
def Device.applyChunkChanges (e : Env) (d : Device) (i : Nat) : Device :=
  let cs := d.kn.changes
  let mine := cs.filter (fun c => c.cancels == some i)
  let d := { d with kn := { d.kn with changes := cs.filter (fun c => c.cancels != some i) } }
  mine.foldl (fun d c => d.applyChange e c) d

/-- Queue a change for a boundary. -/
def Device.later (d : Device) (c : Change) : Device := { d with kn := { d.kn with changes := d.kn.changes ++ [c] } }

/-- Does a cancel of a request in this condition wait: for the boundary (SEATED, READY, WAIT_PAGE, WAIT_FETCH) or for a
chunk's end (R14, R194)? -/
def Request.cancelLater (r : Request) : Bool :=
  r.state == .seated || r.state == .ready || r.state == .waitPage || r.state == .waitFetch || r.inChunk

/-! ## CANCEL, PARK, MODIFY, TENANT_SET -/

def effCancel (e : Env) (d : Device) (f : Fetched) : Device :=
  if d.foreign e f then d.completeD e f 0x20 6 0
  else match d.target f with
    | none => d.completeD e f 0 1 0
    | some i =>
      let r := d.req i
      let c : Change := .cancel f i r.incarnation
      if r.going && r.cancelLater then d.later c else d.applyChange e c

def effPark (e : Env) (d : Device) (f : Fetched) : Device :=
  if d.foreign e f then d.completeD e f 0x20 6 0
  else if d.inHandoff f.session then d.completeD e f 0 1 0
  else match d.target f with
    | none => (d.parkCtx f).completeD e f 0 1 0
    | some i =>
      let r := d.req i
      let c : Change := .park f i r.incarnation
      if r.going && r.cancelLater then d.later c else d.applyChange e c

def effModify (e : Env) (d : Device) (f : Fetched) : Device :=
  if d.foreign e f then d.completeD e f 0x20 6 0
  else match d.target f with
    | none => d.completeD e f 0 1 0
    | some i =>
      let r := d.req i
      let c : Change := .modify f i r.incarnation
      if r.going && r.state == .seated then d.later c else d.applyChange e c

def effTenantSet (_e : Env) (d : Device) (f : Fetched) : Device := d.later (.tenantSet f)

def execCancel (t ring : Nat) (s : State) : Host.Outcome State Fault Refusal := s.act t (onDesc ring 0x02 effCancel)
def execPark (t ring : Nat) (s : State) : Host.Outcome State Fault Refusal := s.act t (onDesc ring 0x03 effPark)
def execModify (t ring : Nat) (s : State) : Host.Outcome State Fault Refusal := s.act t (onDesc ring 0x04 effModify)
def execTenantSet (t ring : Nat) (s : State) : Host.Outcome State Fault Refusal := s.act t (onDesc ring 0x10 effTenantSet)

/-! ## Deadlines and wait bounds (R63, R186) -/

/-- Is the request one whose deadline a boundary checks. -/
def Request.checked (r : Request) : Bool :=
  r.state == .ready || r.state == .seated || r.state == .waitPage || r.state == .waitFetch
    || ((r.state == .prefill || r.state == .rebuild) && !r.inChunk)

/-- The wait bound of a request that waits for frames: the earlier of its deadline and the wait's start plus
KND_FRAME_WAIT_MAX. -/
def waitBound (e : Env) (r : Request) (since : Nat) : Nat :=
  let b := since + frameWaitMax e
  if r.deadline != 0 && r.deadline < b then r.deadline else b

/-- Has a waiting request passed its wait bound. -/
def Request.outwaited (e : Env) (r : Request) : Bool :=
  match r.waitFrom with
  | some t => r.state != .waitFetch && e.now > waitBound e r t
  | none => false

/-- One request's check at a boundary. -/
def Device.checkTime (e : Env) (d : Device) (i : Nat) : Device :=
  let r := d.req i
  if !r.checked then d
  else if r.waitFrom.isSome && r.state != .waitFetch then
    (if r.outwaited e then d.endReq e i 0x12 0 r.waitKind else d)
  else if pastDeadline e r then d.endReq e i 0x31 0 1 else d

/-- Every request's check, in index order. -/
def Device.checkTimes (e : Env) (d : Device) : Device := (d.reqs.map (·.1)).foldl (fun d i => d.checkTime e i) d

/-- The request a change names. -/
def Change.names : Change → Option Nat
  | .cancel _ i _ => some i
  | .park _ i _ => some i
  | .modify _ i _ => some i
  | .tenantSet _ => none

/-- Can a request be checked at this moment: no decode is in progress, and nothing that comes before the check waits for the
boundary: a met stop condition, a decided status, a change (R63, R64, R194). -/
def Device.checkable (e : Env) (d : Device) (i : Nat) : Bool :=
  let r := d.req i
  d.serving e && !d.kn.decoding && r.checked && r.stop == 0 && r.ending.isNone
    && !d.kn.changes.any (fun c => c.names == some i)

/-- DEADLINE_MISSED: a request passes its deadline at a check. -/
def effDeadlineMissed (i : Nat) (e : Env) (d : Device) : Device :=
  let r := d.req i
  if d.checkable e i && !(r.waitFrom.isSome && r.state != .waitFetch) && pastDeadline e r then
    d.endReq e i 0x31 0 1 else d

/-- PAGES_EXHAUSTED: a waiting request passes its wait bound at a check. -/
def effPagesExhausted (i : Nat) (e : Env) (d : Device) : Device :=
  let r := d.req i
  if d.checkable e i && r.outwaited e then d.endReq e i 0x12 0 r.waitKind else d

def execDeadlineMissed (t request : Nat) (s : State) : Host.Outcome State Fault Refusal :=
  s.act t (effDeadlineMissed request)
def execPagesExhausted (t request : Nat) (s : State) : Host.Outcome State Fault Refusal :=
  s.act t (effPagesExhausted request)

/-! ## Budget periods (R204) -/

/-- What a tenant may use in a period. -/
def Tenant.allowance (t : Tenant) : Nat := t.budget - t.carry

/-- BUDGET_PERIOD_END: LTIME has reached a multiple of the period since the last period's end; the excess over the allowance
is carried into the next period only; use starts again. DESIGN CHOICE (log 101): the excess is counted over the budget as
the period before had reduced it. -/
def effBudgetPeriodEnd (e : Env) (d : Device) : Device :=
  if !(d.serving e && tokenBudgetMode e) || e.now / budgetPeriod e = d.kn.budgetAt / budgetPeriod e then d else
  let next := fun (t : Tenant) => { t with used := 0, carry := if t.budget = 0 then 0 else t.used - t.allowance }
  { d with kn := { d.kn with budgetAt := e.now, tenants := d.kn.tenants.map (fun t => (t.1, next t.2)) } }

def execBudgetPeriodEnd (t : Nat) (s : State) : Host.Outcome State Fault Refusal := s.act t effBudgetPeriodEnd

end Sys2Proof.Machine
end

