-- ==== Sys2Proof/Machine/Seats.lean ====
section
/-! DEFINITION. Seats at a boundary (08: R195, R196, R199; R28, R116, R117, R172, R182, R185, R189, R191): the order of
candidates, the shares, the five checks, the refill. -/

namespace Sys2Proof

/-- The most sequences of a Recipe seated at once (R116). -/
def RecipeInfo.seatBound (i : RecipeInfo) : Nat :=
  if i.seatNeed = 0 then Config.seatCount
  else if 64 * Config.mib / i.seatNeed < Config.seatCount then 64 * Config.mib / i.seatNeed else Config.seatCount

end Sys2Proof

namespace Sys2Proof.Machine

/-! ## Orders and shares -/

/-- Tenant order: descending priority, then oldest last token, then lowest index (R195). -/
def tenantBefore (a b : Nat × Request) : Bool :=
  decide (b.2.priority < a.2.priority) || (a.2.priority == b.2.priority &&
    (decide (a.2.lastToken < b.2.lastToken) || (a.2.lastToken == b.2.lastToken && decide (a.1 ≤ b.1))))

/-- E: requests in SEATED or READY, in tenant order. -/
def Device.candidates (d : Device) : List (Nat × Request) :=
  sortBy tenantBefore (d.reqs.filter (fun r => r.2.state == .seated || r.2.state == .ready))

/-- Numbers sorted without repeats. -/
def sortedSet (l : List Nat) : List Nat := sortBy (fun a b => decide (a ≤ b)) l.eraseDups

/-- The loop of R199 over unsatisfied tenants (tenant, requests, weight): shares, deficits, and what stays unsatisfied
with its s. -/
def shareLoop : Nat → List (Nat × Nat × Nat) → Int → Tbl Int → Tbl Nat → Tbl Nat × Tbl Int × List (Nat × Int)
  | 0, u, _, p, k => (k, p, u.map (fun t => (t.1, 0)))
  | n + 1, u, rem, p, k =>
    let w : Int := ((u.map (·.2.2)).sum : Nat)
    let s := fun (t : Nat × Nat × Nat) => rem * (t.2.2 : Nat) * 65536 / w
    let sat := fun (t : Nat × Nat × Nat) => decide (((t.2.1 * 65536 : Nat) : Int) ≤ s t + tget 0 p t.1)
    let done := u.filter sat
    if done.isEmpty then (k, p, u.map (fun t => (t.1, s t)))
    else shareLoop n (u.filter (fun t => !sat t)) (rem - ((done.map (·.2.1)).sum : Nat))
      (done.foldl (fun p t => tset p t.1 0) p) (done.foldl (fun k t => tset k t.1 t.2.1) k)

/-- Seat shares and deficits (R199) of C seats for seat-active tenants (tenant, requests, weight), their deficits before. -/
def seatShares (c : Nat) (ts : List (Nat × Nat × Nat)) (p : Tbl Int) : Tbl Nat × Tbl Int :=
  let (k, p, u) := shareLoop (ts.length + 1) ts c p []
  let (k, p) := u.foldl (fun (a : Tbl Nat × Tbl Int) t =>
    let c : Int := t.2 + tget 0 a.2 t.1
    let n := (c / 65536).toNat
    (tset a.1 t.1 n, tset a.2 t.1 (c - (n : Int) * 65536))) (k, p)
  let order := sortBy (fun a b => decide (tget 0 p b < tget 0 p a) || (tget 0 p a == tget 0 p b && decide (a ≤ b)))
    (u.map (·.1))
  order.foldl (fun (a : Tbl Nat × Tbl Int) t =>
    if (a.1.map (·.2)).sum < c then (tset a.1 t (tget 0 a.1 t + 1), tset a.2 t (tget 0 a.2 t - 65536))
    else a) (k, p)

/-- The next tenant in fill order among those given: highest deficit less 65,536 per seat taken, then lowest ID. -/
def fillNext (p : Tbl Int) (taken : Tbl Nat) (ts : List Nat) : Option Nat :=
  let v := fun (t : Nat) => tget 0 p t - (65536 * tget 0 taken t : Nat)
  leastBy (fun a b => decide (v b < v a) || (v a == v b && decide (a < b))) ts

/-- Requests in fill order, tenants passed round as in the refill; within a tenant in the order given. -/
def Device.fillSort (d : Device) (p : Tbl Int) : Nat → Tbl Nat → List (Nat × Nat) → List (Nat × Nat)
  | 0, _, l => l
  | n + 1, taken, l =>
    match fillNext p taken ((l.map (fun x => (d.req x.1).tenant)).eraseDups) with
    | none => l
    | some t =>
      match takeFirst (fun x => (d.req x.1).tenant == t) l with
      | none => l
      | some (x, rest) => x :: d.fillSort p n (tset taken t (tget 0 taken t + 1)) rest

/-- C: 4,096 less the seats of the Recipe-level bounds known to be full (R199). DESIGN CHOICE (log 99): a bound below 4,096
is known to be full when the step just ended filled it. -/
def Device.seatsToShare (d : Device) : Nat :=
  Config.seatCount - (d.recipes.map (fun s =>
    let b := s.2.info.seatBound
    if b < Config.seatCount && (d.reqs.filter (fun r => r.2.state == .seated && r.2.recipe == s.1)).length ≥ b then b
    else 0)).sum

/-! ## Draft lengths -/

/-- The largest draft length that R172 allows at log length L: the cap of each local layer. -/
def draftCap (info : RecipeInfo) (L k : Nat) : Nat :=
  (upto info.layers.length).foldl (fun k l =>
    if (info.layer l).kind = 2 then
      (let T := (info.layerPool l).tokens
       let c := (L / T + 1) * T - L
       if c < k then c else k)
    else k) k

/-- The draft length a step begins with (R264): d, under R172; 0 for a first sample from kept logits (R59). -/
def Device.draftOf (d : Device) (i : Nat) : Nat :=
  let r := d.req i
  let x := d.ctx r.context
  if !r.kept.isEmpty then 0 else draftCap (d.info r.recipe) x.logLength x.sampler.draft

/-! ## The five checks -/

/-- The largest number at most k for which p holds, if any. -/
def largest (p : Nat → Bool) : Nat → Option Nat
  | 0 => if p 0 then some 0 else none
  | k + 1 => if p (k + 1) then some (k + 1) else largest p k

/-- Check 1 (R28): in ascending request index, the stream ring's records. -/
def Device.checkRing (e : Env) (d : Device) (passed batch : List (Nat × Nat)) : List (Nat × Nat) :=
  (sortBy (fun a b => decide (a.1 ≤ b.1)) batch).foldl (fun ok x =>
    let n := (d.req x.1).stream
    let used := (((passed ++ ok).filter (fun y => (d.req y.1).stream == n)).map d.reserves).sum
    match largest (fun k => decide (used + d.reserves (x.1, k) ≤ d.streamFree e n)) x.2 with
    | some k => ok ++ [(x.1, k)]
    | none => ok) []

/-- Check 2 (R116): the seat store. -/
def Device.checkStore (d : Device) (passed batch : List (Nat × Nat)) : List (Nat × Nat) :=
  let need := fun (x : Nat × Nat) => (d.info (d.req x.1).recipe).seatNeed
  batch.foldl (fun ok x =>
    let all := passed ++ ok
    let n := need x
    let same := (all.filter (fun y => (d.req y.1).recipe == (d.req x.1).recipe)).length
    if same < (d.info (d.req x.1).recipe).seatBound && (all.map need).sum + n ≤ 64 * Config.mib then
      ok ++ [x] else ok) []

/-- The pages outside the Loaf that a sequence's step reads; none for a first sample from kept logits. -/
def Device.stepReads (d : Device) (i : Nat) : List Page :=
  let r := d.req i
  let L := (d.ctx r.context).logLength
  if r.kept.isEmpty then d.outside r.context (L - 1) L else []

/-- Move a request out of E to a waiting state: its seat and slot are freed (R117, R146). -/
def Device.toWait (e : Env) (d : Device) (i : Nat) (st : ReqState) : Device :=
  ((d.setState e i st).unseat i).modReq i (fun r => { r with slot := false, kept := [] })

/-- Check 3 (R189, R191, R227): every page read is staged, and no page written is moving. -/
def Device.checkStage (e : Env) (d : Device) (batch : List (Nat × Nat)) : Device × List (Nat × Nat) :=
  batch.foldl (fun (a : Device × List (Nat × Nat)) x =>
    let d := a.1
    let c := (d.req x.1).context
    let v := (d.ctx c).valid
    let ps := d.stepReads x.1
    if d.allStaged c ps && !d.writeMoving c v ((d.ctx c).logLength + x.2) then (d, a.2 ++ [x])
    else match d.tooMany e c ps with
      | some d => (d, a.2)
      | none => ((d.toWait e x.1 .waitFetch).modReq x.1 (fun r => { r with waitFrom := none, reserved := false }), a.2))
    (d, [])

/-- Requests in WAIT_FETCH, first come first served: those whose pages are all in place become READY, the others
reserve their stagings (R189). -/
def Device.serveFetch (e : Env) (d : Device) : Device :=
  let ws := sortBy (fun (a b : Nat × Request) => decide (a.2.since ≤ b.2.since))
    (d.reqs.filter (fun r => r.2.state == .waitFetch))
  ws.foldl (fun d w =>
    let c := w.2.context
    let ps := d.stepReads w.1
    if d.allStaged c ps && !d.writeMoving c (d.ctx c).valid (d.ctx c).logLength then d.setState e w.1 .ready
    else match d.tooMany e c ps with
      | some d => d
      | none => if w.2.reserved then d else (d.reserve e c ps).getD d) d

/-- Logits slots held outside the step being settled: kept slots of READY requests and last chunks (R146). -/
def Device.otherSlots (d : Device) (passed : List (Nat × Nat)) : Nat :=
  (d.reqs.filter (fun r => r.2.slot && r.2.state != .seated && !passed.any (fun x => x.1 == r.1))).length

/-- Check 4 (R117): 2k + 1 logits slots, the draft length lowered to what fits. A slot kept from a last chunk is the
first. -/
def Device.checkSlots (e : Env) (d : Device) (passed batch : List (Nat × Nat)) : List (Nat × Nat) :=
  batch.foldl (fun ok x =>
    let all := passed ++ ok
    let used := d.otherSlots (x :: all) + (all.map (fun y => 2 * y.2 + 1)).sum
    match largest (fun k => decide (used + 2 * k + 1 ≤ logitsSlots e)) x.2 with
    | some k => ok ++ [(x.1, k)]
    | none => ok) []

/-- The pages a sequence's step needs at draft length k (R182): from V to p + k, none for kept logits (R178, R59). -/
def Device.growNeeds (d : Device) (i k : Nat) : List (Nat × Nat × Nat) :=
  let r := d.req i
  let x := d.ctx r.context
  if !r.kept.isEmpty then [] else x.needs (d.info r.recipe) x.valid (x.logLength + k)

/-- What a sequence's step at draft length 0 asks of each pool and of the list frames. -/
def Device.growLacks (d : Device) (i : Nat) : List (Lack × Nat) := d.lacks (d.req i).context (d.growNeeds i 0)

/-- Reclaim for a growth grant in the order of Table 07.8, for frames and list frames, beside what was promised to
earlier requesters. -/
def Device.reclaimFor (e : Env) (d : Device) (i : Nat) (granted : List Nat) (promised : List (Lack × Nat)) : Device :=
  (d.growLacks i).foldl (fun d n =>
      let need := n.2 + ((promised.filter (fun q => q.1 == n.1)).map (·.2)).sum
      (d.reclaim23 e n.1 need).reclaim4 e i n.1 need granted d.reqs.length) d

/-- Check 5 for one sequence: its frames, all together or none, at the largest draft length they allow; else reclaim,
and WAIT_PAGE while what it yields is zeroed (R182, R183, R185). -/
def Device.growOne (e : Env) (granted : List Nat) (promised : List (Lack × Nat)) (i k : Nat) (d : Device) :
    Device × Option Nat :=
  let c := (d.req i).context
  let fits := fun (d : Device) => largest (fun k => d.canGrant e c (d.growNeeds i k)) k
  match fits d with
  | some k => (d.grant c (d.growNeeds i k), some k)
  | none =>
    let d := d.reclaimFor e i granted promised
    match fits d with
    | some k => (d.grant c (d.growNeeds i k), some k)
    | none => (d, none)

/-- Detail of R186 for a growth wait: list frames when the pools would do. DESIGN CHOICE (log 97): where both are short,
KV frames. -/
def Device.growKind (d : Device) (i : Nat) : Nat :=
  let r := d.req i
  if (needPools (d.info r.recipe) (d.growNeeds i 0)).all (fun n => n.2 ≤ (d.freeSlots r.recipe n.1).length) then 3 else 1

/-- The order of R182: descending priority, then ascending admission. -/
def Device.growBefore (d : Device) (a b : Nat × Nat) : Bool :=
  let x := d.req a.1
  let y := d.req b.1
  decide (y.priority < x.priority) || (x.priority == y.priority &&
    (decide (x.admitted < y.admitted) || (x.admitted == y.admitted && decide (x.order ≤ y.order))))

/-- Check 5 (R182, R185): the sequences checked, with those that wait for growth frames, in the order of R182. -/
def Device.checkGrow (e : Env) (passed batch waiting : List (Nat × Nat)) (d : Device) : Device × List (Nat × Nat) :=
  let st := (sortBy d.growBefore (batch ++ waiting)).foldl
    (fun (a : Device × List (Nat × Nat) × List (Lack × Nat)) x =>
      let (d, ok, owed) := a
      let r := d.req x.1
      let waits := r.state == .waitPage
      if r.state != .ready && r.state != .seated && !waits then a
      else match d.growOne e ((passed ++ ok).map (·.1)) owed x.1 (if waits then 0 else x.2) with
        | (d, some k) =>
          if waits then ((d.setState e x.1 .ready).modReq x.1 (fun r => { r with waitFrom := none }), ok, owed)
          else (d, ok ++ [(x.1, k)], owed)
        | (d, none) =>
          let owed := owed ++ d.growLacks x.1
          let kind := d.growKind x.1
          if waits then (d.modReq x.1 (fun r => { r with waitKind := kind }), ok, owed)
          else
            let d := (d.toWait e x.1 .waitPage).modReq x.1 (fun r => { r with waitFrom := some e.now, waitKind := kind })
            ({ d with kn := { d.kn with waited := sat lim16 (d.kn.waited + 1) } }, ok, owed)) (d, [], [])
  (st.1, st.2.1)

/-- A batch through the five checks: what passes, with draft lengths, and what the first check turned away. -/
def Device.sweep (e : Env) (p : Tbl Int) (passed : List (Nat × Nat)) (batch : List Nat) (waiting : List (Nat × Nat))
    (d : Device) : Device × List (Nat × Nat) × List Nat :=
  let b0 := batch.map (fun i => (i, d.draftOf i))
  let b1 := d.checkRing e passed b0
  let held := batch.filter (fun i => !b1.any (fun x => x.1 == i))
  let b1 := batch.filterMap (fun i => b1.find? (fun x => x.1 == i))
  let b2 := d.checkStore passed (if p.isEmpty then b1 else d.fillSort p b1.length [] b1)
  let (d, b3) := d.checkStage e b2
  let b4 := d.checkSlots e passed b3
  let (d, b5) := d.checkGrow e passed b4 waiting
  (d, passed ++ b5, held)

/-- The refill (R195): seats left are offered one by one in fill order (or, in token-budget mode, in list order). -/
def Device.refill (e : Env) (p : Tbl Int) (budget : Bool) :
    Nat → Tbl Nat → List Nat → List (Nat × Nat) → List Nat → Device → Device × List (Nat × Nat) × List Nat
  | 0, _, _, passed, held, d => (d, passed, held)
  | n + 1, taken, rest, passed, held, d =>
    if passed.length ≥ Config.seatCount then (d, passed, held) else
    let who := if budget then rest.head?.map (fun i => (d.req i).tenant)
      else fillNext p taken ((rest.map (fun i => (d.req i).tenant)).eraseDups)
    match who with
    | none => (d, passed, held)
    | some t =>
      match takeFirst (fun i => (d.req i).tenant == t) rest with
      | none => (d, passed, held)
      | some (i, rest) =>
        let r := d.req i
        if r.state != .ready && r.state != .seated then d.refill e p budget n taken rest passed held
        else
          let (d, passed', h) := d.sweep e p passed [i] []
          let taken := if passed'.length > passed.length then tset taken t (tget 0 taken t + 1) else taken
          d.refill e p budget n taken rest passed' (held ++ h)

/-! ## Assigning seats (R196) -/

/-- The lowest free seat index. -/
def Device.freeSeat (d : Device) : Nat :=
  ((upto Config.seatCount).find? (fun s => (tfind d.kn.seats s).isNone)).getD 0

/-- Unseat what was seated and did not pass: READY, a preemption counted unless its stream ring is full (R61, R216). -/
def Device.unseatRest (e : Env) (passed : List (Nat × Nat)) (held : List Nat) (d : Device) : Device :=
  let gone := (d.reqs.filter (fun r => r.2.state == .seated && !passed.any (fun x => x.1 == r.1))).map (·.1)
  gone.foldl (fun d i =>
    let d := if held.contains i then d else d.countPreempt i
    ((d.setState e i .ready).unseat i).modReq i (fun r => { r with slot := false })) d

/-- Seat what passed: kept seats stay, new ones take the lowest free index; each seat is charged to its tenant. -/
def Device.assign (e : Env) (passed : List (Nat × Nat)) (d : Device) : Device :=
  passed.foldl (fun d x =>
    let r := d.req x.1
    let d := if r.state == .seated then d
      else
        let s := d.freeSeat
        let d := d.setState e x.1 .seated
        { d with kn := { d.kn with seats := tset d.kn.seats s x.1 } }
    let n := if r.slot then r.slotNo else d.freeLogits
    let d := d.modReq x.1 (fun r => { r with draftNow := x.2, slot := true, slotNo := n, firstFromKept := !r.kept.isEmpty,
                                             reserved := r.reserved || !(d.stepReads x.1).isEmpty })
    d.modTenant r.tenant (fun t => { t with seatSteps := sat lim64 (t.seatSteps + 1) })) d

/-- The stream rings that withhold a seat (Table 02.13). -/
def Device.markWithheld (d : Device) (held : List Nat) : Device :=
  let rs := held.map (fun i => (d.req i).stream)
  { d with ts := d.ts.map (fun r => (r.1, { r.2 with withheld := rs.contains r.1 })) }

/-- Settle the seats of a boundary: shares, checks, refill, assignment, deficits (R194 to R199, R204). -/
def Device.settle (e : Env) (d : Device) : Device :=
  let es := d.candidates
  let waiting := (d.reqs.filter (fun r => r.2.state == .waitPage)).map (fun r => (r.1, 0))
  let fin := fun (x : Device × List (Nat × Nat) × List Nat) =>
    (((x.1.unseatRest e x.2.1 x.2.2).assign e x.2.1).markWithheld x.2.2)
  if tokenBudgetMode e then
    let ok := (es.filter (fun r => (d.tenant r.2.tenant).inBudget)).map (·.1)
    let (d, passed, held) := d.sweep e [] [] (ok.take Config.seatCount) waiting
    fin (d.refill e [] true ok.length [] (ok.drop Config.seatCount) passed held)
  else
    let ts := sortedSet (es.map (·.2.tenant))
    let of_ := fun (t : Nat) => es.filter (fun r => r.2.tenant == t)
    let old : Tbl Int := ts.map (fun t => (t, (d.tenant t).seatDeficit))
    let (k, p) := seatShares d.seatsToShare (ts.map (fun t => (t, (of_ t).length, (d.tenant t).weight))) old
    let first := (ts.map (fun t => ((of_ t).take (tget 0 k t)).map (·.1))).flatten
    let chosen := first.take Config.seatCount
    let rest := first.drop Config.seatCount ++ (ts.map (fun t => ((of_ t).drop (tget 0 k t)).map (·.1))).flatten
    let (d, passed, held) := d.sweep e p [] chosen waiting
    let (d, passed, held) := d.refill e p false rest.length [] rest passed held
    let filled := fun (t : Nat) => (passed.filter (fun x => (d.req x.1).tenant == t)).length
    let d := fin (d, passed, held)
    let all := d.kn.tenants.map (fun t =>
      (t.1, { t.2 with seatDeficit := if ts.contains t.1 then tget 0 p t.1 else 0 }))
    let d := { d with kn := { d.kn with tenants := all } }
    ts.foldl (fun d t => d.modTenant t (fun x => { x with
      seatDeficit := tget 0 p t + ((tget 0 k t : Nat) : Int) * 65536 - (filled t : Nat) * 65536 })) d

end Sys2Proof.Machine
end

