-- ==== Sys2Proof/Machine/Boundary.lean ====
section
/-! DEFINITION. Boundaries (08: R194, R197, R206, R207; R184, R185, R187, R192, R238, R298): the bake-step, idle and held
boundaries, the moment a job takes the chip, zeroed frames and completed stagings. -/

namespace Sys2Proof.Machine

/-! ## The lines of R194 before the seats -/

/-- End what the step just ended decided: DONE for a met stop condition, then the statuses that wait for a boundary. -/
def Device.endDue (e : Env) (d : Device) : Device :=
  let d := (d.reqs.filter (fun r => r.2.state == .seated && r.2.stop != 0)).foldl
    (fun d r => d.endReq e r.1 0 r.2.stop 0) d
  (d.reqs.filter (fun r => r.2.going && r.2.ending.isSome && !r.2.inChunk)).foldl
    (fun d r => match r.2.ending with
      | some (st, det) => d.endReq e r.1 st 0 det
      | none => d) d

/-! ## A job takes the chip (R206, R207) -/

/-- The save slots in use. -/
def Device.slotsUsed (d : Device) : List Nat := d.kn.jobs.filterMap (·.slot)

/-- The lowest free save slot. -/
def Device.freeSlot (e : Env) (d : Device) : Option Nat := (upto (saveSlots e)).find? (fun s => !d.slotsUsed.contains s)

/-- The eligible job with the oldest ready time, then the lower save slot, then the earlier admission. -/
def Device.eligibleJob (e : Env) (d : Device) : Option Job :=
  if d.jobHolds || e.now < d.kn.released + jobGap e then none
  else
    let lt := fun (a b : Job) => decide (a.ready < b.ready) || (a.ready == b.ready &&
      (decide (a.slot.getD 16 < b.slot.getD 16) || (a.slot.getD 16 == b.slot.getD 16 && decide (a.order < b.order))))
    leastBy lt (d.kn.jobs.filter (fun j => j.state == .saved || (j.state == .queued && (d.freeSlot e).isSome)))

/-- Replace a job in the list. -/
def Device.setJob (d : Device) (j : Job) : Device :=
  { d with kn := { d.kn with jobs := d.kn.jobs.map (fun x => if x.seq == j.seq then j else x) } }

/-- Steps 1 and 2 of Table 08.1: every sequence unseated, each one preemption; the posted item that has not started is
withdrawn, its staged tokens dropped, and keeps its grants. -/
def Device.takeChip (e : Env) (d : Device) (j : Job) : Device :=
  let slot := match j.slot with
    | some s => some s
    | none => d.freeSlot e
  let d := d.setJob { j with state := .taking, slot := slot }
  let d := (d.reqs.filter (fun r => r.2.state == .seated)).foldl (fun (d : Device) r =>
    (((d.countPreempt r.1).setState e r.1 .ready).unseat r.1).modReq r.1 (fun r => { r with slot := false })) d
  let out := match d.oven.items.drop 1 with
    | it :: _ => some it
    | [] => d.kn.withdrawn
  let d := d.keepItems (fun k _ => k == 0)
  { d with kn := { d.kn with withdrawn := out } }

/-! ## Background reclaim and the boundary's events -/

/-- Steps 2 and 3 of Table 07.8 where free zeroed frames are below the low-water mark (R184). -/
def Device.background (e : Env) (d : Device) : Device :=
  d.recipes.foldl (fun d s =>
    (upto s.2.info.pools.length).foldl (fun d pi =>
      let mark := (s.2.info.pool pi).lowWater
      if (d.freeSlots s.1 pi).length < mark then d.reclaim23 e (.pool s.1 pi) mark else d) d) d

/-- Free zeroed frames across all pools. -/
def Device.allFree (d : Device) : Nat :=
  (d.recipes.map (fun s => ((upto s.2.info.pools.length).map (fun pi => (d.freeSlots s.1 pi).length)).sum)).sum

/-- PAGE_RECLAIM (R187). -/
def Device.reclaimEvent (e : Env) (d : Device) : Device :=
  let k := d.kn
  if k.reclaimed = 0 && k.reclaimedCtx = 0 && k.blocksDropped = 0 && k.unseated = 0 && k.waited = 0 then d
  else
    let d := d.raise e 0x0021 (k.reclaimed + k.reclaimedCtx * 2 ^ 32 + k.blocksDropped * 2 ^ 48)
      (k.unseated + k.waited * 2 ^ 16 + sat (2 ^ 31 - 1) d.allFree * 2 ^ 32)
    { d with kn := { d.kn with reclaimed := 0, reclaimedCtx := 0, blocksDropped := 0, unseated := 0, waited := 0 } }

/-- FALLBACK_USED (R238). DESIGN CHOICE (log 110): its bake step number is that of the step which begins at the boundary that
raises it. -/
def Device.fallbackEvent (e : Env) (d : Device) : Device :=
  match d.peel.firstDecision with
  | none => d
  | some (stream, recipe, kind, oven) =>
    let p := d.peel
    let d := d.raise e 0x0020 (stream + recipe * 2 ^ 16 + kind * 2 ^ 20 + b2n oven * 2 ^ 22 + d.kn.step % 2 ^ 32 * 2 ^ 32)
      (p.shadow + p.skip * 2 ^ 16 + p.nextExpert * 2 ^ 32 + sat 32767 p.lateStall * 2 ^ 48)
    { d with peel := { d.peel with firstDecision := none, shadow := 0, skip := 0, nextExpert := 0, lateStall := 0 } }

/-- HANDOFF_REBUILD, for each loss since the last boundary (R298). -/
def Device.lostEvents (e : Env) (d : Device) : Device :=
  let ls := d.kn.lost
  ls.foldl (fun d x => d.raise e 0x0040 (x.1 + x.2.1 * 2 ^ 32 + x.2.2.1 * 2 ^ 38) (x.2.2.2.1 + x.2.2.2.2 * 2 ^ 23))
    { d with kn := { d.kn with lost := [] } }

/-! ## Boundaries -/

/-- Nothing in the seat store and no crumb unit is live across a boundary; logits slots end with their step (R109, R117,
R196). -/
def Device.clearStep (d : Device) : Device :=
  { d with eng := { d.eng with seatStore := [], marks := [], units := [], logits := [] } }

/-- The first three lines of R194, which every boundary runs. -/
def Device.boundaryStart (e : Env) (d : Device) : Device := ((d.clearStep.endDue e).applyChanges e).checkTimes e

/-- What ends every boundary: its events and a waiting RESYNC's snapshot. -/
def Device.boundaryEnd (e : Env) (d : Device) : Device :=
  (((d.reclaimEvent e).fallbackEvent e).lostEvents e).snapshot e

/-- Unconditional streamed tensors of the seated Recipes are asked for: the step pins a committed one, else a
promotion is asked for (R233). The count of KV promotions starts again (R231). -/
def Device.triggers (d : Device) : Device :=
  let d := { d with peel := { d.peel with promoted := 0 } }
  let rs := ((d.kn.seats.map (fun s => (d.req s.2).recipe)).eraseDups).filter (fun r => (d.recipe r).isSome)
  rs.foldl (fun d r => match d.recipe r with
    | none => d
    | some s => (upto s.streams.length).foldl (fun (d : Device) i =>
        let en := s.streams.getD i ⟨0, 0, 0, 0⟩
        if bit en.q0 3 then d else d.wantTensor r i (.step d.kn.step)) d) d

/-- A boundary outside a job: a job that is eligible takes the chip; else the seats are settled, Oven items posted, and
the decode of the seated list begins. A boundary that seats a sequence begins a bake step (R197). -/
def Device.boundary (e : Env) (d : Device) : Device :=
  let d := d.boundaryStart e
  match d.eligibleJob e with
  | some j => (d.takeChip e j).boundaryEnd e
  | none =>
    let d := (((d.serveFetch e).settle e).fillOven e).background e
    let go := !d.kn.seats.isEmpty
    let d := { d with kn := { d.kn with decoding := go, step := d.kn.step + b2n go,
                                        workAt := if go then e.now else d.kn.workAt } }
    (d.triggers.boundaryEnd e)

/-- May a boundary be held: no decode in progress. -/
def Device.atBoundary (e : Env) (d : Device) : Bool := d.serving e && !d.kn.decoding

/-- BAKE_STEP_BOUNDARY. -/
def effBakeStepBoundary (e : Env) (d : Device) : Device := if d.atBoundary e && !d.jobHolds then d.boundary e else d

/-- IDLE_BOUNDARY: no sequence is seated and no job holds the chip (R197). -/
def effIdleBoundary (e : Env) (d : Device) : Device :=
  if d.atBoundary e && !d.jobHolds && d.kn.seats.isEmpty then d.boundary e else d

/-- HELD_BOUNDARY: while a job holds the chip, the first three lines only (R197). -/
def effHeldBoundary (e : Env) (d : Device) : Device :=
  if d.serving e && d.jobHolds then ((d.boundaryStart e).lostEvents e).snapshot e else d

def execBakeStepBoundary (t : Nat) (s : State) : Host.Outcome State Fault Refusal := s.act t effBakeStepBoundary
def execIdleBoundary (t : Nat) (s : State) : Host.Outcome State Fault Refusal := s.act t effIdleBoundary
def execHeldBoundary (t : Nat) (s : State) : Host.Outcome State Fault Refusal := s.act t effHeldBoundary

/-! ## FRAME_ZEROED (R185, R242) -/

/-- Requests in WAIT_PAGE whose frames have come: granted in the order of R182, READY (R185). -/
def Device.serveGrowth (e : Env) (d : Device) : Device :=
  let ws := sortBy d.growBefore ((d.reqs.filter (fun r => r.2.state == .waitPage)).map (fun r => (r.1, 0)))
  ws.foldl (fun d x =>
    let c := (d.req x.1).context
    let ns := d.growNeeds x.1 0
    if d.canGrant e c ns then
      ((d.grant c ns).setState e x.1 .ready).modReq x.1 (fun r => { r with waitFrom := none }) else d) d

/-- A frame's zeroing is complete: the frame is free, and a waiting grant completes. The Peel zeroes whether or not the
Kneader may start work. Recipe slot number 16 stands for the list area: the slot is a list frame's number. -/
def effFrameZeroed (recipe pool slot : Nat) (e : Env) (d : Device) : Device :=
  if d.logicFrozen || d.mode != .running || !d.isZeroing recipe pool slot then d
  else (d.zeroed recipe pool slot).serveGrowth e

def execFrameZeroed (t recipe pool slot : Nat) (s : State) : Host.Outcome State Fault Refusal :=
  s.act t (effFrameZeroed recipe pool slot)

/-! ## STAGING_COMPLETE (R188–R192) -/

/-- A page whose content is lost or bad: its entry is cleared and V falls to its first position (R230, R166). -/
def Device.losePage (e : Env) (d : Device) (c : Nat) (p : Page) : Device :=
  (d.releasePages c (fun q => q.layer == p.layer && q.index == p.index)).lowerV e c p.first

/-- The status that takes effect at the next boundary; the first one stands. -/
def Device.endLater (d : Device) (i status detail : Nat) : Device :=
  d.modReq i (fun r => { r with ending := match r.ending with
    | none => some (status, detail)
    | some x => some x })

/-- A staging ends. Its data are a tier-1 image's bytes (a tier-2 image's came in fabric responses). -/
def effStagingComplete (c layer index : Nat) (how : StageEnd) (e : Env) (d : Device) : Device :=
  match d.staging c layer index, (d.ctx c).page layer index with
  | some (key, false), some p =>
    let mine := fun (o : FabOp) => o.user == .stage c layer index
    let quiet := p.tier != 2 || ((tget {} d.frames key).asked && !d.pem.ops.any mine && !d.pem.waiting.any mine)
    if !d.serving e || !quiet then d else
    let x := d.ctx c
    let info := d.info x.recipe
    let pl := info.layerPool layer
    match how with
    | .ok =>
      let f := tget {} d.frames key
      let slot := key % 2 ^ 24
      let img := mreads 0 d.lp (p.frame * 4096) pl.slotBytes
      let d := if p.tier = 1 then { d with loaf := slotWrite pl slot d.loaf 0 img } else d
      let d := { d with frames := tset d.frames key { f with owner := .stage c layer index true, lastUse := e.now } }
      (match d.liveReq c with
      | none => d
      | some i => if (d.req i).state == .waitFetch && d.allStaged c (d.stepReads i) then d.setState e i .ready else d)
    | .dead =>
      (match d.liveReq c with
      | none => d.losePage e c p
      | some i => (d.endLater i 0x41 3).losePage e c p)
    | .bad =>
      (match d.liveReq c with
      | none => d.losePage e c p
      | some i => (d.endLater i 0x43 4).losePage e c p)
  | _, _ => d

def execStagingComplete (t context layer index : Nat) (how : StageEnd) (s : State) :
    Host.Outcome State Fault Refusal :=
  s.act t (effStagingComplete context layer index how)

end Sys2Proof.Machine
end

