-- ==== Sys2Proof/Machine/CrumbRun.lean ====
section
/-! DEFINITION. The Crumb array runs a program (05: R107–R114, R117–R123; 07: R173–R178; R91): lanes in pairs, operation
by operation under the scoreboard of the seat feed, every operator of Table 05.4. -/

namespace Sys2Proof.Machine

/-- A lane slot of a pass (R114, R120): its request, its place among the request's positions, position and token. -/
structure Lane where
  request : Nat
  slot : Nat
  pos : Nat
  tok : Nat
  deriving DecidableEq, Repr

/-- A pass in progress: the device, the Loaf rows found uncorrectable, the requests whose seat-store or activation words
are, streamed tensors used, entries whose owner tag did not match, requests with a poisoned result and its detail,
numeric events, and whether a tensor is missing. -/
structure Pass where
  dev : Device
  bad : List Nat
  store : List Nat
  used : List Nat := []
  stale : List (Nat × Nat × Nat) := []
  poison : List (Nat × Nat) := []
  nans : Nat := 0
  sats : Nat := 0
  blocked : Bool := false

def Pass.view (p : Pass) : View := ⟨p.dev.loaf, p.bad⟩

/-! ## Seat store and scoreboard (R122) -/

/-- The vector in a region of a lane slot. -/
def Device.seatVec (d : Device) (l : Lane) (region : Nat) : SeatVec :=
  (d.eng.seatStore.find? (fun s => s.request == l.request && s.slot == l.slot && s.region == region)).getD
    ⟨l.request, l.slot, region, {}, [], 0, 0⟩

/-- Results are written by their tag. -/
def Device.putSeat (d : Device) (x : SeatVec) : Device :=
  { d with eng := { d.eng with seatStore := x :: d.eng.seatStore.filter (fun s =>
      !(s.request == x.request && s.slot == x.slot && s.region == x.region)) } }

/-- What a lane reads of a region: poisoned where its request's seat store or activation words are bad (R127). -/
def Pass.input (p : Pass) (l : Lane) (region : Nat) : SeatVec :=
  let s := p.dev.seatVec l region
  if p.store.contains l.request && s.vec.bad = 0 then { s with vec := { s.vec with bad := 3 } } else s

/-- A result goes into the seat store; poison in it touches its request (R127). -/
def Pass.seat (p : Pass) (l : Lane) (region n q : Nat) (v : Vec) (probs : List (List PageProbs)) : Pass :=
  { p with dev := p.dev.putSeat ⟨l.request, l.slot, region, v, probs, n, q⟩,
           poison := if v.bad = 0 then p.poison else p.poison ++ [(l.request, v.bad)] }

/-- Narrow what an operator made to its region's format and write it (Table 05.6, steps 5 and 7). -/
def Pass.put (p : Pass) (i : RecipeInfo) (l : Lane) (region n q : Nat) (m : Made) : Pass :=
  let (v, k) := narrowVec (i.regionFmt region) false nearest m.vals m.bad
  { p with nans := p.nans + m.nans, sats := p.sats + k }.seat l region n q v []

/-- The regions an operation reads: its input; ADD also the region it adds to; attention also the regions that the
layer's KV_APPEND marks (R123). -/
def regionsRead (prog : List OpRec) (r : OpRec) : List Nat :=
  r.input :: ((if r.op = 0x1B then [r.output] else []) ++
    (if r.op = 0x11 || r.op = 0x12 then (prog.filter (fun x => x.op == 0x10 && x.layer == r.layer)).map (·.output) else []))

/-- May operation n be issued for pair q: every earlier operation that writes a region it reads, or reads the region it
writes, is done for the pair (R122). -/
def Device.issuable (d : Device) (prog : List OpRec) (n q : Nat) : Bool :=
  let r := prog.getD n ⟨0, 0, 0, 0⟩
  (upto n).all (fun m =>
    let x := prog.getD m ⟨0, 0, 0, 0⟩
    (!(regionsRead prog r).contains x.output && !(regionsRead prog x).contains r.output) || d.eng.marks.contains ⟨m, q⟩)

/-- Pairs of lanes in list order; an odd count leaves a half pair (R114). -/
def lanePairs (ls : List Lane) : List (List Lane) := blocks 2 ls

/-! ## The operators, lane by lane (Table 05.4) -/

/-- A lane's activations in the operand format of the operation. -/
def Vec.as (x : Vec) (f : Nat) : Vec × Nat := if x.fmt = f then (x, 0) else narrowVec f false nearest x.words x.bad

/-- The units of a group after an operation: each lane's current activation chunk, the last scale beats, and the
accumulator words of the rows that the unit owns (Table 05.3, R112). -/
def Device.fillUnits (d : Device) (g : List Run) (R : Nat) (rows xs : List Vec) (outs : List (List Nat)) : Device :=
  let r := ceilDiv R (runPairs g)
  let one := fun (t : Tbl CrumbUnit) (i : Nat) => match pairAt g i with
    | none => t
    | some (s, p) => tset t (1024 * s + p)
        { act := xs.map (fun x => (Machine.blocks 8192 x.bytes).getLastD []),
          scale := ((rows.getD (i * r) {}).sc.map (BitVec.ofNat 8)).take 256,
          acc := outs.map (fun o => (o.drop (i * r)).take r) }
  if r = 0 then d else { d with eng := { d.eng with units := (upto (ceilDiv R r)).foldl one d.eng.units } }

/-- Does a Recipe's KV writer keep a BF16 value within range: the saturate flag of the prefill program's KV_QUANT of the
layer, so that a page does not depend on the engine that writes it (R85, Table 04.5). -/
def Device.kvSaturate (d : Device) (recipe layer : Nat) : Bool := match d.recipe recipe with
  | none => false
  | some s => (sectionRecords s.ovenCode).any (fun r => r.op == 0x50 && r.layer == layer && r.saturate)

/-- KV_APPEND: the lane's K heads, then its V heads; nothing at a position whose KV is stored (R178). -/
def Pass.append (p : Pass) (recipe : Nat) (r : OpRec) (l : Lane) (x : Vec) : Pass :=
  let c := (p.dev.req l.request).context
  if l.pos < (p.dev.ctx c).valid then p else
  let pl := (p.dev.info recipe).layerPool r.layer
  let ws := x.words
  { p with dev := (upto (2 * pl.heads)).foldl (fun d k =>
      d.writeKv true c ⟨r.layer, l.pos, k % pl.heads, k / pl.heads, p.dev.kvSaturate recipe r.layer,
        (ws.drop (k * pl.dim)).take pl.dim⟩) p.dev }

/-- The pages of a layer that a lane's attention reads; entries with a wrong owner tag are noted (R166, R181). -/
def Pass.pages (p : Pass) (recipe : Nat) (r : OpRec) (l : Lane) : List PageView × List Nat :=
  let i := p.dev.info recipe
  p.dev.pageViews p.view (p.dev.req l.request).context r.layer
    (fun g => pageSkipped r.attMode (r.attConst i).window (i.attPool r).tokens l.pos g.first)

/-- ATT_SCORE of a lane: for every query head the partials of each page, in ascending page index (R173–R175). -/
def Pass.score (p : Pass) (recipe : Nat) (r : OpRec) (n q : Nat) (l : Lane) : Pass :=
  let i := p.dev.info recipe
  let pl := i.attPool r
  let per := (i.layer r.layer).queryHeads / pl.heads
  let a := r.attConst i
  let x := (p.input l r.input).vec
  let (ws, st) := p.pages recipe r l
  let see := fun (t : KvTok) => visible r.attMode a.window l.pos t.pos 0 0
  let ps : List (List PageProbs) := overHeads pl.heads per (fun h => ws.map (fun w =>
    pageScores false a r.softCap see (x.head pl.dim h) w.index (p.view.tokens w (h / per))))
  let all : List PageProbs := ps.flatten
  let nans := (all.map (fun (y : PageProbs) => y.nans)).sum
  let p := { p with nans := p.nans + nans, stale := p.stale ++ st.map (fun k => (l.request, r.layer, k)) }
  p.seat l r.output n q { bad := firstBad (x.bad :: all.map (fun (y : PageProbs) => y.bad)) } ps

/-- ATT_VALUE of a lane: each page's o_P and the merge, head by head (R175, R176). -/
def Pass.value (p : Pass) (recipe : Nat) (r : OpRec) (l : Lane) : Made :=
  let i := p.dev.info recipe
  let pl := i.attPool r
  let per := (i.layer r.layer).queryHeads / pl.heads
  let s := p.input l r.input
  let ws := (p.pages recipe r l).1
  let hs := overHeads pl.heads per (fun h =>
    let parts := (s.probs.getD h []).filterMap (fun pp => (ws.find? (fun w => w.index == pp.index)).map (fun w =>
      let ts := p.view.tokens w (h / per)
      ((pp, pageValues false pl.dim pp ts),
       firstBad (pp.bad :: (ts.zip pp.seen).map (fun t => if t.2 then t.1.v.bad else 0)))))
    (mergePages pl.dim (parts.map (·.1)), firstBad (parts.map (·.2))))
  Made.ofNums ((hs.map (·.1)).flatten) (firstBad (s.vec.bad :: hs.map (·.2)))

/-- SCAN of a lane slot: h from the slot of the position before it, the new state into its own (R118, R119); where V
covers the position the state stands as it is. -/
def Pass.scan (p : Pass) (r : OpRec) (l : Lane) : Pass × Made :=
  let d := p.dev
  let c := (d.req l.request).context
  let y := d.ctx c
  let x := (p.input l r.input).vec
  let again := l.pos < y.valid
  let (h, hb) := d.readState p.view c r.layer (if l.slot = 0 || again then y.stateSlot else l.slot - 1) r.rows
  if again then (p, ⟨h, 0, firstBad [x.bad, hb]⟩)
  else
    let m := Made.ofNums (opScan r.rows x.words h) (firstBad [x.bad, hb])
    ({ p with dev := d.writeState true c r.layer l.slot false m.vals }, m)

/-- A lane's router weight for the expert that a record works for; none where the lane is not routed to it. -/
def Pass.share (p : Pass) (i : RecipeInfo) (program n : Nat) (l : Lane) : Option Nat :=
  match (i.useOf program n).bind (·.expert) with
  | none => some oneF32
  | some (region, e) => routedTo (p.dev.seatVec l region).vec.el e

/-- Top-k with the step's decisions applied, renormalised (R235, Table 09.7). -/
def Device.routeLane (d : Device) (recipe program : Nat) (r : OpRec) (scores : List Nat) : List Nat :=
  let c := (d.info recipe).const r.aux
  routeWords c.which scores (applyFates scores (d.expertFate recipe program r.output) (d.expertHere recipe program r.output)
    (topExperts scores c.which))

/-- A lane's logits into its slot: the first position's is the one its request holds, the others take free ones (R117). -/
def Device.putLogits (d : Device) (l : Lane) (draft : Bool) (m : Made) : Device :=
  let rest := d.eng.logits.filter (fun s => !(s.request == l.request && s.draft == draft && s.pos == l.pos))
  let d := { d with eng := { d.eng with logits := rest } }
  let n := if l.slot = 0 && !draft then (d.req l.request).slotNo else d.freeLogits
  { d with eng := { d.eng with logits := rest ++ [⟨n, l.request, draft, l.pos, m.vals, m.bad⟩] } }

/-- An operation on one lane: `o` is its operand, `rows` the operand's rows. -/
def Pass.lane (p : Pass) (recipe program : Nat) (r : OpRec) (n q : Nat) (o : Operand) (rows : List Vec) (l : Lane) :
    Pass :=
  let i := p.dev.info recipe
  match p.share i program n l with
  | none => p
  | some w =>
    let x := (p.input l r.input).vec
    let vec := fun (ys : List Num) => p.put i l r.output n q (Made.ofNums ys x.bad)
    let mac := fun (rs : List Vec) => let (a, k) := x.as r.actFmt
      (matVec false o.const rs a, k)
    if r.op = 0x01 then (let (m, k) := mac rows; let p := p.put i l r.output n q m; { p with sats := p.sats + k })
    else if r.op = 0x02 then
      (match p.dev.adapterRows (p.dev.req l.request).adapter (p.dev.req l.request).version r r.weightFmt with
      | none => p.put i l r.output n q ⟨List.replicate r.rows 0, 0, x.bad⟩
      | some rs => let (m, k) := mac rs; let p := p.put i l r.output n q m; { p with sats := p.sats + k })
    else if r.op = 0x03 then
      (let y := p.view.row o i.vocab r.rows l.tok
       p.put i l r.output n q (Made.ofNums (y.words.zipIdx.map (fun z => scaleBias o.const z.2 ⟨z.1, 0⟩)) y.bad))
    else if r.op = 0x10 then
      (p.append recipe r l x).seat l r.output n q { bad := x.bad } []
    else if r.op = 0x11 then p.score recipe r n q l
    else if r.op = 0x12 then p.put i l r.output n q (p.value recipe r l)
    else if r.op = 0x18 then vec (opNorm o.const x.words)
    else if r.op = 0x19 then vec (opAct o.const r.rows x.words)
    else if r.op = 0x1A then vec (opRope o.const l.pos x.words)
    else if r.op = 0x1B then
      (let old := (p.dev.seatVec l r.output).vec
       let s := if w = oneF32 then o.const.scales.headD oneF32 else w
       p.put i l r.output n q (Made.ofNums (opAdd s old.words x.words) (firstBad [x.bad, old.bad])))
    else if r.op = 0x1C then
      p.seat l r.output n q { el := p.dev.routeLane recipe program r x.words, bad := x.bad } []
    else if r.op = 0x20 then (let (p, m) := p.scan r l; p.put i l r.output n q m)
    else
      (let (m, k) := mac rows
       { p with dev := p.dev.putLogits l (program == 1) m,
                nans := p.nans + m.nans, sats := p.sats + k,
                poison := if m.bad = 0 then p.poison else p.poison ++ [(l.request, m.bad)] })

/-! ## A pass (R113, R122) -/

/-- Operation n for pair q, where the scoreboard lets it be issued; a lane that needs a streamed tensor which is not
there holds up the pass. -/
def Pass.issue (p : Pass) (recipe program : Nat) (prog : List OpRec) (n : Nat) (q : Nat) (ls : List Lane) : Pass :=
  if p.blocked || !p.dev.issuable prog n q then p else
  let r := prog.getD n ⟨0, 0, 0, 0⟩
  let i := p.dev.info recipe
  let g := i.groups.getD r.group []
  let mine := ls.filter (fun l => (p.share i program n l).isSome)
  let done := fun (p : Pass) =>
    let eng := { p.dev.eng with marks := p.dev.eng.marks ++ [(⟨n, q⟩ : Mark)] }
    { p with dev := { p.dev with eng := eng } }
  if mine.isEmpty then done p else
  match p.dev.operand recipe program n g r.weightFmt r with
  | none => { p with blocked := true }
  | some o =>
    let used := match (i.useOf program n).bind (·.stream) with
      | some s => [streamKey recipe s]
      | none => []
    let rows := if r.op = 0x01 || r.op = 0x28 then (upto r.rows).map (p.view.row o r.rows r.reduction) else []
    let p := mine.foldl (fun p l => p.lane recipe program r n q o rows l) { p with used := p.used ++ used }
    let xs := mine.map (fun l => ((p.input l r.input).vec.as r.actFmt).1)
    let outs := mine.map (fun l => (p.dev.seatVec l r.output).vec.words)
    done (if r.op = 0x01 then { p with dev := p.dev.fillUnits o.group r.rows rows xs outs } else p)

/-- A pass over a program of a Recipe (0 main, 1 draft): operation by operation, pair by pair. -/
def Pass.run (p : Pass) (recipe program : Nat) (lanes : List Lane) : Pass :=
  let code := match p.dev.recipe recipe with
    | some s => sectionRecords s.crumb
    | none => []
  let k := (p.dev.info recipe).mainRecords
  let prog := if program = 0 then code.take k else code.drop k
  let p := { p with dev := { p.dev with eng := { p.dev.eng with marks := [] } } }
  (upto prog.length).foldl (fun p n =>
    (lanePairs lanes).zipIdx.foldl (fun p y => p.issue recipe program prog n y.2 y.1) p) p

end Sys2Proof.Machine
end

