-- ==== Sys2Proof/Machine/Halt.lean ====
section
/-! DEFINITION. The halt (17: R411, R412; R382 for flash writes, R378 and R31 for what is written last). -/

namespace Sys2Proof.Machine

/-! ## Stream records and completions as a halt writes them -/

/-- The bytes of a stream record, phase aside (Table 02.12). -/
def StreamRec.bytes (r : StreamRec) : List Byte :=
  toBytes 8 (r.cookie % 2 ^ 32 + r.request * 2 ^ 32 + r.type * 2 ^ 52 + b2n r.last * 2 ^ 56)
    ++ toBytes 8 (r.position + r.tokens * 2 ^ 22 + r.payload.length * 2 ^ 28)
    ++ r.payload ++ toBytes (44 - r.payload.length) 0 ++ toBytes 4 0

/-- Write one stream record to its ring. -/
def Device.putRecord (e : Env) (d : Device) (r : StreamRec) : Device := d.putEntry e .ts r.ring r.bytes true false

/-- Every queued record is written while its ring has space (R412, step 6). -/
def Device.drainRecords (e : Env) (d : Device) : Device :=
  let rs := d.prf.hostQueue
  rs.foldl (fun d r => if d.canPut e .ts r.ring then d.putRecord e r else d)
    { d with prf := { d.prf with hostQueue := [] } }

/-- A completion written only while its ring has space. -/
def Device.haltComplete (e : Env) (d : Device) (c : Completion) : Device :=
  if d.canPut e .cq (sqCq e c.ring) then d.writeCompletion e c else d

/-- DEVICE_HALTED completions: live requests in ascending index, then every other descriptor in flight in admission
order (R412). -/
def Device.haltCompletions (e : Env) (d : Device) (cause : Nat) : Device :=
  let live := (d.reqs.filter (fun r => r.2.live)).map (·.1)
  let d := live.foldl (fun d i =>
    d.haltComplete e { d.reqCompletion i with status := 0xFF, reason := 0, detail := cause }) d
  d.inflight.foldl (fun d x =>
    d.haltComplete e ⟨x.seq, x.ring, x.cookie, none, 0xFF, 0, cause, 0, 0, x.quiet⟩) d

/-! ## Flash writes at a halt (R382, R412 step 5) -/

/-- The record of a region under write is erased. -/
def Hearth.eraseRecord (h : Hearth) : FlashOp → Hearth
  | .commit _ bankB _ => if bankB then { h with bankB := { h.bankB with state := 0xFF } }
      else { h with bankA := { h.bankA with state := 0xFF } }
  | .calibration _ half _ => if half then { h with cal1 := [] } else { h with cal0 := [] }
  | .settings copy _ => if copy then { h with settings1 := [] } else { h with settings0 := [] }
  | .census _ => h

/-- Append a retirement to the census record. -/
def Hearth.append (h : Hearth) (b : Nat) : Hearth :=
  if h.census.contains b then h else { h with census := h.census ++ [b] }

/-- The banks whose census append waits. -/
def Hearth.pendingCensus (h : Hearth) : List Nat := h.ops.filterMap (fun o => match o with
  | .census b => some b
  | _ => none)

/-- Flash writes end: the one in progress leaves its record erased; pending census appends complete first unless the
cause is a power warning, which is counted (Table 16.12). -/
def Device.stopFlash (d : Device) (warn : Bool) : Device :=
  let h := d.hearth
  let stopped := b2n (warn && !h.ops.isEmpty)
  let banks := h.pendingCensus
  let h := match h.ops with
    | o :: _ => h.eraseRecord o
    | [] => h
  let h := if warn then h else banks.foldl Hearth.append h
  let left := if warn then d.health.pending else d.health.pending.filter (fun b => !banks.contains b)
  { d with hearth := { h with ops := [], stopped := sat lim16 (h.stopped + stopped) },
           health := { d.health with pending := left } }

/-! ## The halt -/

/-- The live requests' last stream records are formed. -/
def Device.lastRecords (e : Env) (d : Device) : Device :=
  ((d.reqs.filter (fun r => r.2.going)).map (·.1)).foldl (fun d i => d.finishOut e i) d

/-- What PWR_WARN reports of its recognition: live requests, and whether a flash write was in progress (R408). -/
def Device.warnNote (d : Device) : Nat × Bool := ((d.reqs.filter (fun r => r.2.live)).length, !d.hearth.ops.isEmpty)

/-- PWR_WARN (R408). -/
def Device.warnEvent (e : Env) (d : Device) (w : Nat × Bool) : Device := d.raise e 0x0002 w.1 (b2n w.2)

/-- Steps 3 to 7 of Table 17.4. -/
def Device.finishHalt (e : Env) (d : Device) : Device :=
  let cause := d.dmp.cause
  let early := if cause == 1 then 1 else 0
  let warns := fun (ws : List (Nat × Bool)) (d : Device) => ws.foldl (fun d w => d.warnEvent e w) d
  let clear := fun (r : DevRing) => { r with held := [] }
  let d := { d with kn := { d.kn with decoding := false, seats := [], jobs := [], withdrawn := none, changes := [] },
                    oven := { d.oven with items := [], embeds := [] }, eng := { d.eng with staged := [] },
                    fetched := [], resync := [], resyncDb := none,
                    cq := d.cq.map (fun (r : Nat × DevRing) => (r.1, clear r.2)) }
  let d := d.stopFlash (cause == 1)
  let d := (d.lastRecords e).drainRecords e
  let d := warns (d.dmp.warnsDue.take early) d
  let d := d.haltCompletions e cause
  let d := warns (d.dmp.warnsDue.drop early) d
  let down := fun (p : Port) => { p with state := if p.state = 0 then 0 else 3, unacked := [], replay := [] }
  { d with mode := .halted, jobMem := [], dmp := { d.dmp with warnsDue := [] },
           sift := { d.sift with queries := [] },
           pem := { d.pem with ports := d.pem.ports.map (fun (p : Nat × Port) => (p.1, down p.2)) } }

/-- A cause of a halt arises (R411): its code is stored, ALERT_N asserted. Under a power warning the bake step in
progress completes first; a frozen logic die halts at its thaw (R402). A later cause changes nothing. -/
def Device.halt (e : Env) (d : Device) (cause : Nat) : Device :=
  if d.mode != .running then d
  else if d.logicFrozen then
    { d with dmp := { d.dmp with haltPending := match d.dmp.haltPending with
      | none => some cause
      | some c => some c } }
  else
    let d := { d with mode := .halting, dmp := { d.dmp with cause := cause, alert := true } }
    if cause == 1 && d.kn.decoding then d else d.finishHalt e

end Sys2Proof.Machine
end

