-- ==== Sys2Proof/Machine/Jobs.lean ====
section
/-! DEFINITION. Exclusive jobs (08: R205–R214; 06: R153–R155; R325): grant, revoke, start, slices,
saves, overruns. -/

namespace Sys2Proof.Machine

/-! ## The job's memory and its save slot (Tables 08.3, 08.4) -/

/-- Bytes saved: trays, Oven accumulators, crumb accumulators, Sifter state. -/
def jobBytes : Nat := 0x0E000000

def slotAddr (e : Env) (i : Nat) : Nat := saveBase e + i * 2 ^ 28

/-- The header of a save slot. -/
def Job.header (j : Job) (now : Nat) : List Byte :=
  toBytes 8 (1 + j.recipe * 2 + j.program * 2 ^ 5 + j.cookie * 2 ^ 32) ++ toBytes 8 (j.next + j.saves * 2 ^ 32)
    ++ toBytes 8 now ++ toBytes 8 (if j.slice = 0 then 0 else j.remaining.toNat % 2 ^ 48) ++ toBytes 32 0

/-- Free a job's save slot: all of it zeroed (Tables 08.4, 09.9). -/
def Device.freeSave (e : Env) (d : Device) (j : Job) : Device :=
  match j.slot with
  | none => d
  | some s => d.lpClear (slotAddr e s) (slotAddr e s + 2 ^ 28)

/-- Does this job hold the chip. -/
def Job.holds (j : Job) : Bool := j.state == .taking || j.state == .running || j.state == .saving

/-- Does a job wait for its next step 5 (R216). -/
def Job.waiting (j : Job) : Bool := j.state == .queued || j.state == .saved || j.state == .taking

/-- The chip is released: the job's state zeroed (R211), the gap of R206 begins. -/
def Device.releaseChip (e : Env) (d : Device) : Device :=
  { d with jobMem := [], eng := { d.eng with tray := [], units := [] }, kn := { d.kn with released := e.now } }

/-- A job ends (R214): state zeroed, slot freed, then its completion. DESIGN CHOICE (log 102): the wait of a job that ends
before its next step 5 counts as queue waiting time up to its end (R216). -/
def Device.endJob (e : Env) (d : Device) (j : Job) (status detail : Nat) : Device :=
  let d := if j.state == .running then
      d.modTenant j.tenant (fun t => { t with jobRun := sat lim64 (t.jobRun + (e.now - j.began)) }) else d
  let d := if j.waiting then
      d.modTenant j.tenant (fun t => { t with queueWait := sat lim64 (t.queueWait + (e.now - j.ready)) }) else d
  let d := if j.holds then d.releaseChip e else d
  let d := d.freeSave e j
  let d := { d with kn := { d.kn with jobs := d.kn.jobs.filter (fun x => x.seq != j.seq) } }
  d.complete e ⟨j.seq, j.ring, j.cookie, none, status, 0, detail, 0, 0,
    d.inflight.any (fun x => x.seq == j.seq && x.quiet)⟩

/-- The jobs of a Recipe that needs re-placement (Table 08.5, order 3): at once unless running. DESIGN CHOICE (log 103): one
that is taking the chip or being saved ends at once, as one that is queued or saved. -/
def Device.faultJobs (e : Env) (d : Device) (recipe : Nat) : Device :=
  (d.kn.jobs.filter (fun j => j.recipe == recipe)).foldl (fun d j =>
    if j.state == .running then d.setJob { j with fault := true } else d.endJob e j 0x43 2) d

/-! ## JOB_GRANT, JOB_REVOKE -/

/-- JOB_GRANT (R205). -/
def effJobGrant (e : Env) (d : Device) (f : Fetched) : Device :=
  let program := bits (f.w 3) 15 0
  let slice := bits (f.w 2) 47 0
  match d.recipeFault f.recipe with
  | some x => d.completeD e f x.1 x.2 0
  | none =>
    if (d.tenant f.tenant).held then d.completeD e f 0x13 0 0
    else if program ≥ (d.info f.recipe).jobs.length || program > 63 || (slice != 0 && slice < 1000000)
        || bits (f.w 5) 31 0 > 65536 || saveSlots e = 0 then d.completeD e f 0x20 3 0
    else
      let j : Job :=
        { seq := f.seq, ring := f.ring.getD 0, cookie := f.cookie, tenant := f.tenant, recipe := f.recipe,
          program := program, slice := slice, argAddr := f.w 4, argLen := bits (f.w 5) 31 0, packed := f.packed,
          ready := e.now, order := d.kn.order, state := .queued, slot := none, next := 0, saves := 0,
          remaining := slice, sliceEnd := 0, began := 0, preempt := false, revoked := false, fault := false }
      { d with kn := { d.kn with jobs := d.kn.jobs ++ [j], order := d.kn.order + 1 } }

/-- JOB_REVOKE (R213): the earliest-admitted live job with the cookie. -/
def effJobRevoke (e : Env) (d : Device) (f : Fetched) : Device :=
  let cookie := bits (f.w 2) 31 0
  match leastBy (fun (a b : Job) => decide (a.order < b.order)) (d.kn.jobs.filter (fun j => j.cookie == cookie)) with
  | none => d.completeD e f 0 1 0
  | some j =>
    let d := d.completeD e f 0 0 0
    if j.state == .running then d.setJob { j with revoked := true } else d.endJob e j 0x50 1

def execJobGrant (t ring : Nat) (s : State) : Host.Outcome State Fault Refusal := s.act t (onDesc ring 0x12 effJobGrant)
def execJobRevoke (t ring : Nat) (s : State) : Host.Outcome State Fault Refusal :=
  s.act t (onDesc ring 0x13 effJobRevoke)

/-! ## Running -/

/-- The records of a job's program. -/
def Device.program (d : Device) (j : Job) : List JobRec := (d.info j.recipe).jobs.getD j.program []

/-- The handshake count of the record that last ended or was stopped (R154). -/
def Device.setCount (d : Device) (n : Nat) : Device := { d with oven := { d.oven with recordCount := sat lim32 n } }

/-- The next record of a job begins (R125). -/
def Device.recordBegins (e : Env) (d : Device) : Device := { d with kn := { d.kn with workAt := e.now } }

/-- JOB_START: steps 4 and 5 of Table 08.1, once the Oven's item has ended and every query in progress has completed
(R155, R325). `restoreOk` is false where the restore meets uncorrectable data, or the read of a new job's argument block
fails (R20; log 132). -/
def effJobStart (restoreOk : Bool) (e : Env) (d : Device) : Device :=
  if !d.serving e || !d.oven.items.isEmpty || d.sift.queries.any (fun q => q.ctx.isSome) then d
  else match d.kn.jobs.find? (fun j => j.state == .taking) with
    | none => d
    | some j =>
      let saved := j.saves > 0
      if !restoreOk then (if saved then d.endJob e j 0x43 4 else d.endJob e j 0x20 0x000A)
      else
        let d := d.modTenant j.tenant (fun t => { t with queueWait := sat lim64 (t.queueWait + (e.now - j.ready)) })
        let d := if saved then { d with jobMem := copyInto d.lp (slotAddr e (j.slot.getD 0)) jobBytes [] 0 }
          else { d with jobMem := mwrites 0 [] 0 (d.hostRead j.argAddr j.argLen) }
        let left := if saved then j.remaining else j.slice
        let j := { j with state := .running, began := e.now, preempt := j.slice != 0 && decide (left ≤ 0),
                          sliceEnd := if j.slice = 0 then 0 else e.now + left.toNat }
        if (d.program j).isEmpty then d.endJob e j 0 0 else (d.setJob j).recordBegins e

def execJobStart (t : Nat) (restoreOk : Bool) (s : State) : Host.Outcome State Fault Refusal :=
  s.act t (effJobStart restoreOk)

/-- The running job. -/
def Device.running (d : Device) : Option Job := d.kn.jobs.find? (fun j => j.state == .running)

/-- The record a job runs. -/
def Device.recordOf (d : Device) (j : Job) : JobRec := (d.program j).getD j.next ⟨false, ⟨0, 0, 0, 0⟩, 0⟩

/-- A record's declared duration in handshakes (Tables 05.5, 06.3). -/
def recDuration (r : OpRec) : Nat := bits r.q0 63 32

/-- Numeric events of the Crumb array or the Oven (R100). -/
def Device.numeric (d : Device) (crumb : Bool) (saturations nans : Nat) : Device :=
  let h := d.health
  let nan := sat (2 ^ 31 - 1)
  { d with health := if crumb then { h with crbSat := sat lim32 (h.crbSat + saturations), crbNan := nan (h.crbNan + nans) }
                     else { h with ovnSat := sat lim32 (h.ovnSat + saturations), ovnNan := nan (h.ovnNan + nans) } }

/-- COMMAND_OVERRUN: the record passed twice its declared duration (R209). -/
def Device.overrun (e : Env) (d : Device) (j : Job) (handshakes : Nat) : Device :=
  let d := d.setCount handshakes
  let d := d.modTenant j.tenant (fun t => { t with overruns := sat lim16 (t.overruns + 1) })
  d.endJob e j 0x51 (j.next % 65536)

/-- JOB_SLICE_END: LTIME passes the slice end, preemption is pending (R208). -/
def effJobSliceEnd (e : Env) (d : Device) : Device :=
  match d.running with
  | none => d
  | some j => if d.serving e && j.slice != 0 && e.now > j.sliceEnd then d.setJob { j with preempt := true } else d

def execJobSliceEnd (t : Nat) (s : State) : Host.Outcome State Fault Refusal := s.act t effJobSliceEnd

/-- JOB_SAVE_DONE: steps 3 to 6 of Table 08.2. -/
def effJobSaveDone (saveOk : Bool) (e : Env) (d : Device) : Device :=
  match d.kn.jobs.find? (fun j => j.state == .saving) with
  | none => d
  | some j =>
    if !d.serving e then d
    else if !saveOk then d.endJob e j 0x43 4
    else
      let a := slotAddr e (j.slot.getD 0)
      let j := { j with state := .saved, saves := j.saves + 1, ready := e.now, preempt := false }
      let d := { d with lp := mwrites 0 (copyInto d.jobMem 0 jobBytes d.lp a) (a + jobBytes) (j.header e.now) }
      let d := d.modTenant j.tenant (fun t => { t with jobPreempted := sat lim32 (t.jobPreempted + 1) })
      (d.setJob j).releaseChip e

def execJobSaveDone (t : Nat) (saveOk : Bool) (s : State) : Host.Outcome State Fault Refusal :=
  s.act t (effJobSaveDone saveOk)

/-- COMMAND_OVERRUN: seen while the record runs. -/
def effCommandOverrun (handshakes : Nat) (e : Env) (d : Device) : Device :=
  match d.running with
  | none => d
  | some j => if d.serving e && handshakes > 2 * recDuration (d.recordOf j).op then d.overrun e j handshakes
      else d

def execCommandOverrun (t handshakes : Nat) (s : State) : Host.Outcome State Fault Refusal :=
  s.act t (effCommandOverrun handshakes)

end Sys2Proof.Machine
end

