-- ==== Sys2Proof/Machine/Ecc.lean ====
section
/-! DEFINITION. Loaf errors (05: R126–R132; Tables 05.7–05.9): correctable and uncorrectable reports, retirement and
its effects by bank set, ECC_SUMMARY, patrol scrub, a hung Slice (R125). -/

namespace Sys2Proof.Machine

/-! ## Bank sets -/

/-- Does a run name a pair of a Slice. -/
def runHas (r : Run) (slice pair : Nat) : Bool := r.slice == slice && r.first ≤ pair && pair < r.first + r.count

/-- The set of a bank: 0 weight, 1 KV pool, 2 table, 3 bench. -/
def Device.bankSet (e : Env) (d : Device) (b : Nat) : Nat :=
  let s := b / 2048
  let p := b % 2048 / 2
  if (upto 16).any (fun i => runHas (tableRun e i) s p) then 2
  else if (upto 16).any (fun i => runHas (benchRun e i) s p) then 3
  else if d.recipes.any (fun r => r.2.info.pools.any (fun q => q.runs.any (fun x => runHas x s p))) then 1
  else 0

/-- Recipe slots with data in a bank. -/
def Device.recipesOf (d : Device) (b : Nat) : List Nat :=
  let s := b / 2048
  let p := b % 2048 / 2
  (d.recipes.filter (fun r => r.2.info.weightRuns.any (fun x => runHas x s p)
    || r.2.info.pools.any (fun q => q.runs.any (fun x => runHas x s p)))).map (·.1)

/-! ## Pages in a bank -/

/-- Is a tier-0 page of a Recipe in a bank. -/
def Device.pageIn (d : Device) (r : Nat) (b : Nat) (p : Page) : Bool :=
  p.tier == 0 && (((d.info r).layerPool p.layer).banksOf p.frame).contains b

/-- Clear a context's entries that meet a condition; V falls to the least first position among them (Table 05.7). -/
def Device.losePages (e : Env) (d : Device) (c : Nat) (which : Page → Bool) : Device :=
  let ps := (d.ctx c).pages.filter which
  match ps with
  | [] => d
  | p :: _ =>
    let low := ps.foldl (fun a q => if q.first < a then q.first else a) p.first
    (d.releasePages c which).lowerV e c low

/-- A block with a poisoned page leaves the index: no commit matches it, and its frames go with the last list that names
them (R128). -/
def Device.poisonBlock (d : Device) (k : Nat) : Device := match tfind d.blocks k with
  | some b => ({ d with blocks := tset d.blocks k { b with gone := true } } : Device).recount
  | none => d

/-- The blocks with a page in a row of a bank. -/
def Device.blocksAt (d : Device) (b row : Nat) : List Nat :=
  (d.blocks.filter (fun x => x.2.pages.any (fun p => d.pageIn x.2.recipe b p &&
    (let pl := (d.info x.2.recipe).layerPool p.layer
     (upto (ceilDiv pl.slotBytes 128)).any (fun k =>
       pl.byteAt p.frame (128 * k) / 128 == loafAddr (b / 2048) (b % 2048) (128 * row) / 128))))).map (·.1)

/-- A block whose bank has left the census: the contexts that name it lose its entries, and it goes. -/
def Device.loseBlock (e : Env) (d : Device) (k : Nat) : Device :=
  let cs := (d.ctxs.filter (fun c => c.2.pages.any (fun p => p.shared && p.block == k))).map (·.1)
  (cs.foldl (fun d c => d.losePages e c (fun p => p.shared && p.block == k)) d).dropBlock k

/-- Everything kept in a bank of the KV pool set is lost. -/
def Device.loseBank (e : Env) (d : Device) (b : Nat) : Device :=
  let bad := (d.blocks.filter (fun x => x.2.pages.any (d.pageIn x.2.recipe b))).map (·.1)
  let d := bad.foldl (fun d k => d.loseBlock e k) d
  (d.ctxs.map (·.1)).foldl (fun d c => d.losePages e c (fun p => !p.shared && d.pageIn (d.ctx c).recipe b p)) d

/-! ## Retirement -/

/-- A Recipe's weights are lost: its slot needs re-placement, its live requests end at the next boundary, its jobs end
(Tables 05.7, 05.8, 08.5). -/
def Device.needReplace (e : Env) (d : Device) (r : Nat) : Device :=
  match tfind d.recipes r with
  | none => d
  | some s =>
    let d := { d with recipes := tset d.recipes r { s with replace := true } }
    let live := (d.reqs.filter (fun q => q.2.going && q.2.recipe == r)).map (·.1)
    (live.foldl (fun d i => d.endLater i 0x43 2) d).faultJobs e r

/-- Moves in transit through a bench in this bank are cancelled and asked for again, ahead of the demands that wait
(R230). -/
def Device.benchLost (d : Device) (b : Nat) : Device :=
  let hit := fun (m : Move) => !m.committed && m.bench.map (· / 2) == some (b / 2)
  let again := (d.peel.moves.filter (fun m => hit m.2)).map (fun m =>
    (m.2.kind, m.2.obj, m.2.who.headD (.handoff 0), m.2.dest))
  let d := d.cancelMoves hit
  { d with peel := { d.peel with waiting := again ++ d.peel.waiting } }

/-- The effects of a hard retirement by set (Table 05.8). -/
def Device.hardEffects (e : Env) (d : Device) (b set : Nat) : Device :=
  match set with
  | 0 => (d.recipesOf b).foldl (fun d r => d.needReplace e r) d
  | 1 =>
    let hit := (d.reqs.filter (fun q => q.2.going && q.2.ctxValid
      && (d.ctx q.2.context).pages.any (d.pageIn q.2.recipe b))).map (·.1)
    (hit.foldl (fun d i => d.endLater i 0x43 1) d).loseBank e b
  | 2 => d.halt e 4
  | _ => d.benchLost b

/-- Queue a census append ahead of every waiting flash write (R382). -/
def Device.queueCensus (d : Device) (b : Nat) : Device :=
  let ops := d.hearth.ops
  { d with hearth := { d.hearth with ops := ops.take 1 ++ .census b :: ops.drop 1 },
           health := { d.health with pending := d.health.pending ++ [b] } }

/-- A bank is retired (R129, R130): the generation, BANK_RETIRED, the census append, the effects. -/
def Device.retire (e : Env) (d : Device) (b : Nat) (hard : Bool) : Device :=
  let set := d.bankSet e b
  let h := d.health
  let g := (h.generation + 1) % 2 ^ 32
  let d := { d with health := { h with generation := g, soft := if hard then h.soft else h.soft ++ [b],
                                       out := if hard then h.out ++ [b] else h.out } }
  let bitmap := (d.recipesOf b).foldl (fun a r => a + 2 ^ r) 0
  let d := d.raise e 0x0031 (b / 2048 + b % 2048 * 2 ^ 4 + b2n hard * 2 ^ 15 + set * 2 ^ 16 + g * 2 ^ 32) bitmap
  let d := if h.pending.contains b then d else d.queueCensus b
  if hard then d.hardEffects e b set else d

/-- The window of R129 for correctable errors, 3,600 s. -/
def ceWindow : Nat := 3600000000000

/-- One error of a bank (R126, R127, R129). -/
def Device.eccError (e : Env) (d : Device) (slice bank row : Nat) (bad : Bool) : Device :=
  let b := 2048 * slice + bank
  let h := d.health
  let x := tget {} h.banks b
  if bad then
    let fresh := !x.rows.contains row && x.rows.length < 16
    let n := b2n fresh
    let x := { x with rows := if fresh then x.rows ++ [row] else x.rows }
    let key := b * 16384 + row
    let since := if h.sinceRows.contains key then h.sinceRows else h.sinceRows ++ [key]
    let d := { d with health := { h with banks := tset h.banks b x, sinceRows := since,
                                         badRows := tset h.badRows slice (sat 255 (tget 0 h.badRows slice + n)) } }
    let d := (d.blocksAt b row).foldl (fun d k => d.poisonBlock k) d
    if x.rows.length ≥ ueLimit e && !h.out.contains b then d.retire e b true else d
  else
    let x := { x with times := (x.times.filter (fun t => e.now < t + ceWindow)) ++ [e.now] }
    let d := { d with health := { h with
      banks := tset h.banks b x, sinceCe := sat lim32 (h.sinceCe + 1),
      sinceBanks := tset h.sinceBanks b (sat lim32 (tget 0 h.sinceBanks b + 1)),
      corrected := tset h.corrected slice (sat lim16 (tget 0 h.corrected slice + 1)) } }
    if x.times.length > ceLimit e && !h.soft.contains b && !h.out.contains b then d.retire e b false else d

/-- Errors found while data were read. -/
def Device.eccReports (e : Env) (d : Device) (rs : List EccReport) : Device :=
  rs.foldl (fun d r => d.eccError e r.slice r.bank r.row r.bad) d

/-! ## Poison that reaches a request (Table 05.7) -/

/-- The banks with uncorrectable rows among these reports. -/
def badBanks (rs : List EccReport) : List Nat :=
  ((rs.filter (·.bad)).map (fun r => 2048 * r.slice + r.bank)).eraseDups

/-- A Recipe's slot needs re-placement: its weights, or a streamed tensor's origin, are uncorrectable (Table 05.7, R230). -/
def Device.wordsLost (e : Env) (d : Device) (r : Nat) : Device :=
  match tfind d.recipes r with
  | some s => { d with recipes := tset d.recipes r { s with replace := true } }.faultJobs e r
  | none => d

/-- Poison through a bench or a move that lay in no KV page (`kv` says whether one was found): the Recipe's streamed
tensors that were promoted with poisoned words go back to their origins; with none of them the poison came through a
bench from an origin, which is then uncorrectable (R230). -/
def Device.poisonTensors (e : Env) (d : Device) (r : Nat) (kv : Bool) : Device :=
  let hit := fun (x : Nat × Residency) => x.1 / 65536 == r && x.2.bad
  if d.peel.resident.any hit then
    { d with peel := { d.peel with resident := d.peel.resident.map (fun x =>
        if hit x then (x.1, { x.2 with slot := none, bad := false }) else x) } }
  else if kv then d else d.wordsLost e r

/-- The further effects of a poisoned result of a request, by its detail; `bad` are the banks the errors lay in. -/
def Device.poisonEffects (e : Env) (d : Device) (i detail : Nat) (bad : List Nat) : Device :=
  let r := d.req i
  if detail = 1 then
    d.losePages e r.context (fun p => !p.shared && bad.any (fun b => d.pageIn r.recipe b p))
  else if detail = 2 then
    d.wordsLost e r.recipe
  else if detail = 4 then
    -- R230: bench or moved data of a KV page: the entry is cleared, V lowered; the bank is not charged
    let which := fun (p : Page) => p.bad || (p.tier != 0 && (d.staging r.context p.layer p.index).isSome)
    (d.losePages e r.context which).poisonTensors e r.recipe ((d.ctx r.context).pages.any which)
  else d

/-- R166, R165: an entry whose owner tag does not match is absent: it is cleared, its frame left to whoever owns it; V falls
to its first position, a live request goes to REBUILD. -/
def Device.staleTag (e : Env) (d : Device) (c : Nat) (at_ : Nat × Nat) : Device :=
  match (d.ctx c).page at_.1 at_.2 with
  | some p => (d.clearPages c (fun q => q.layer == at_.1 && q.index == at_.2)).lowerV e c p.first
  | none => d

/-! ## ECC_SUMMARY, scrub, a hung Slice -/

/-- ECC_SUMMARY (R132): every interval in which an error has occurred. DESIGN CHOICE (log 100): of banks with equally many
correctable errors it names the lowest. -/
def effEccSummary (e : Env) (d : Device) : Device :=
  let h := d.health
  if !(d.serving e) || (h.sinceCe = 0 && h.sinceRows.isEmpty) || e.now < h.lastSummary + summaryInterval e then d
  else
    let worst := leastBy (fun (a b : Nat × Nat) => decide (b.2 < a.2)) h.sinceBanks
    let (b, n) := worst.getD (0, 0)
    let d := d.raise e 0x0030 (h.sinceCe + sat lim16 h.sinceRows.length * 2 ^ 32 + sat lim16 h.sinceBanks.length * 2 ^ 48)
      (b / 2048 + b % 2048 * 2 ^ 4 + n * 2 ^ 15)
    { d with health := { d.health with sinceCe := 0, sinceRows := [], sinceBanks := [], lastSummary := e.now } }

def execEccSummary (t : Nat) (s : State) : Host.Outcome State Fault Refusal := s.act t effEccSummary

/-- Rows of a bank: 1.5 MiB of 128 bytes (R102). -/
def bankRows : Nat := 12288

/-- PATROL_SCRUB: one row per entry of `errors`, from the bank's row pointer on (R126): no error, an error corrected and
written back (false), or an uncorrectable one (true). -/
def effPatrolScrub (slice bank : Nat) (errors : List (Option Bool)) (e : Env) (d : Device) : Device :=
  if d.mode == .off || d.mode == .held || d.mode == .waitGood || d.dmp.frozen.contains slice then d else
  let b := 2048 * slice + bank
  errors.foldl (fun d found =>
    let row := tget 0 d.health.scrub b
    let d := { d with health := { d.health with scrub := tset d.health.scrub b ((row + 1) % bankRows) } }
    match found with
    | none => d
    | some bad => d.eccError e slice bank row bad) d

def execPatrolScrub (t slice bank : Nat) (errors : List (Option Bool)) (s : State) : Host.Outcome State Fault Refusal :=
  s.act t (effPatrolScrub slice bank errors)

/-- Has a Slice held work for the hang limit: a group of a seated Recipe's main program or of the job's running crumb record
lies on it (R125). -/
def Device.holdsWork (e : Env) (d : Device) (slice : Nat) : Bool :=
  let on := fun (i : RecipeInfo) (rs : List OpRec) => rs.any (fun r => (i.groups.getD r.group []).any (fun g => g.slice == slice))
  let seated := d.kn.decoding && (d.kn.seats.map (fun s => (d.req s.2).recipe)).any (fun r => match d.recipe r with
    | some s => on s.info (sectionRecords s.crumb)
    | none => false)
  let job := match d.running with
    | some j => (d.recordOf j).crumb && on (d.info j.recipe) [(d.recordOf j).op]
    | none => false
  (seated || job) && e.now ≥ d.kn.workAt + hangLimit e

/-- SLICE_HANG: the device halts with cause 0x0003; a Slice without work is not hung, nor is a frozen one (R125, R401). -/
def effSliceHang (slice : Nat) (e : Env) (d : Device) : Device :=
  if d.dmp.frozen.contains slice || !d.holdsWork e slice then d else d.halt e 3

def execSliceHang (t slice : Nat) (s : State) : Host.Outcome State Fault Refusal := s.act t (effSliceHang slice)

end Sys2Proof.Machine
end

