-- ==== Sys2Proof/Machine/Sampler.lean ====
section
/-! DEFINITION. The sampler (10: R255–R260, R264–R266): one position's logits to one token, in exact FP32, and
speculative verification. -/

namespace Sys2Proof.Machine

/-- The sampler's replacement of non-finite values (R255, step 1). -/
def tame (a : Nat) : Nat := if isNan a then negInf else if a = posInf then maxF32 else a

/-- What the sampler needs for one position: the parameters, the penalty set's counts, which tokens the mask allows,
the vocabulary. -/
structure Pos where
  s : Sampling
  set : List Nat
  allowed : Nat → Bool
  vocab : Nat

/-- Update one entry of a list. -/
def modAt (l : List Nat) (i : Nat) (f : Nat → Nat) : List Nat :=
  match l, i with
  | [], _ => []
  | x :: xs, 0 => f x :: xs
  | x :: xs, n + 1 => x :: modAt xs n f

/-- Is a repetition penalty off: 0 or 1 (Table 10.1). -/
def repOff (r : Nat) : Bool := r % 2 ^ 31 = 0 || r = oneF32

/-- The penalised logit of a token with count n (R256). -/
def penalise (s : Sampling) (n z : Nat) : Nat :=
  let z := if repOff s.repetition then z else if flt 0 z then fdiv z s.repetition else fmul z s.repetition
  let z := fsub z (fmul (natF32 n) s.frequency)
  fsub z s.presence

/-- Steps 1 to 4 of R255: logits after bias, penalties and mask. -/
def prepare (p : Pos) (logits : List Nat) : List Nat :=
  let z := (upto p.vocab).map (fun t => tame (logits.getD t negInf))
  let z := (p.s.bias.foldl (fun z b => modAt z b.1 (fun v => fadd v b.2)) z).map tame
  let z := ((p.set.eraseDups).foldl (fun z t => modAt z t (penalise p.s (p.set.filter (· == t)).length)) z).map tame
  ((z.zip (upto p.vocab)).map (fun x => if p.allowed x.2 then x.1 else negInf))

/-- The allowed tokens. -/
def Pos.tokens (p : Pos) : List Nat := (upto p.vocab).filter p.allowed

/-- Greedy choice: the greatest logit among allowed tokens, ties to the lowest ID (R255, step 5). -/
def greedy (p : Pos) (logits : List Nat) : Nat :=
  let z := prepare p logits
  (leastBy (fun a b => flt (z.getD b negInf) (z.getD a negInf)) p.tokens).getD 0

/-- The sum of weights in list order. -/
def sumF32 (ws : List Nat) : Nat := ws.foldl fadd 0

/-- Top-k: the k tokens of greatest weight, ties to the lower ID, given in ascending ID. -/
def topK (k : Nat) (ws : List (Nat × Nat)) : List (Nat × Nat) :=
  if k = 0 then ws
  else
    let keep := (sortBy (fun a b => fle b.2 a.2) ws).take k
    ws.filter (fun w => keep.any (fun x => x.1 == w.1))

/-- Probabilities of retained weights. -/
def probs (ws : List (Nat × Nat)) : List (Nat × Nat) :=
  let t := sumF32 (ws.map (·.2))
  ws.map (fun w => (w.1, fdiv w.2 t))

/-- The length of the shortest leading part whose cumulative sum reaches p. -/
def reach (p : Nat) : Nat → List Nat → Nat
  | _, [] => 0
  | acc, x :: xs => let a := fadd acc x; if fle p a then 1 else 1 + reach p a xs

/-- Top-p. -/
def topP (p : Nat) (ws : List (Nat × Nat)) : List (Nat × Nat) :=
  if p % 2 ^ 31 = 0 || p = oneF32 then ws
  else
    let order := sortBy (fun a b => fle b.2 a.2) (probs ws)
    let keep := order.take (reach p 0 (order.map (·.2)))
    ws.filter (fun w => keep.any (fun x => x.1 == w.1))

/-- Min-p. -/
def minP (m : Nat) (ws : List (Nat × Nat)) : List (Nat × Nat) :=
  let ps := probs ws
  let top := ps.foldl (fun a x => if flt a x.2 then x.2 else a) 0
  let low := fmul m top
  ws.filter (fun w => ps.any (fun x => x.1 == w.1 && !flt x.2 low))

/-- Steps 6 to 8 of R255: the retained tokens with their weights, ascending. -/
def weights (p : Pos) (logits : List Nat) : List (Nat × Nat) :=
  let z4 := prepare p logits
  let ts := p.tokens
  if ts.all (fun t => z4.getD t negInf = negInf) then minP p.s.minP (topP p.s.topP (topK p.s.topK (ts.map (fun t => (t, oneF32)))))
  else
    let z := z4.map (fun v => tame (fdiv v p.s.temperature))
    let m := z.foldl (fun a v => if flt a v then v else a) negInf
    let w := fun (t : Nat) => let v := z.getD t negInf; if v = negInf then 0 else fexp (fsub v m)
    minP p.s.minP (topP p.s.topP (topK p.s.topK (ts.map (fun t => (t, w t)))))

/-- A draw with a uniform of 24 bits (R258). -/
def drawToken (ws : List (Nat × Nat)) (u : Nat) : Nat :=
  let total := sumF32 (ws.map (·.2))
  let target := fmul (toF32 false u (-24)) total
  let rec go : Nat → List (Nat × Nat) → Option Nat
    | _, [] => none
    | acc, w :: r => let a := fadd acc w.2; if flt target a then some w.1 else go a r
  match go 0 ws with
  | some t => t
  | none => (ws.getLastD (0, 0)).1

/-- The probability of a token under retained weights. -/
def probOf (ws : List (Nat × Nat)) (t : Nat) : Nat :=
  match (probs ws).find? (fun x => x.1 == t) with
  | some x => x.2
  | none => 0

/-- Greedy requests: temperature 0. -/
def Sampling.isGreedy (s : Sampling) : Bool := s.temperature % 2 ^ 31 = 0

/-- One token from one position's logits, with purpose 0 or 2 (R255, R260). -/
def sampleAt (p : Pos) (seed who pos purpose : Nat) (logits : List Nat) : Nat :=
  if p.s.isGreedy then greedy p logits else drawToken (weights p logits) (drawUniform seed who pos purpose)

/-- Is a drafted token accepted (R265)? -/
def accepted (p : Pos) (seed who pos tok : Nat) (main draft : List Nat) : Bool :=
  if p.s.isGreedy then greedy p main == tok
  else
    let u := toF32 false (drawUniform seed who pos 1) (-24)
    fle (fmul u (probOf (weights p draft) tok)) (probOf (weights p main) tok)

/-- The weights max(0, P − Q) of R265, ascending; P when all of them are 0. -/
def residual (main draft : List (Nat × Nat)) : List (Nat × Nat) :=
  let ws := (probs main).map (fun x =>
    let v := fsub x.2 (probOf draft x.1)
    (x.1, if flt 0 v then v else 0))
  if ws.all (fun w => w.2 = 0) then main else ws

/-- The token that follows a rejection at a position (R265). -/
def afterReject (p : Pos) (seed who pos : Nat) (main draft : List Nat) : Nat :=
  if p.s.isGreedy then greedy p main
  else drawToken (residual (weights p main) (weights p draft)) (drawUniform seed who pos 0)

/-- The draft length after a step (R266): d, D, steps at zero, k, a. -/
def nextDraft (d dMax zs k a : Nat) : Nat × Nat :=
  let (d', z) :=
    if k ≥ 1 && a = 0 then (d / 2, zs)
    else if k = d && d ≥ 1 && a = k then ((if 2 * d < dMax then 2 * d else dMax), zs)
    else if d = 0 then
      (if zs + 1 ≥ 64 then ((if dMax < 1 then dMax else 1), 0) else (0, zs + 1))
    else (d, zs)
  (d', if d' = 0 then z else 0)

end Sys2Proof.Machine
end

