-- ==== Sys2Proof/Machine/Decoding.lean ====
section
/-! DEFINITION. The end of a bake step's decode (05: R124; 10: R255–R269; R12, R178, R237, R279, R322): drafting,
verification, token appends, stop conditions. -/

namespace Sys2Proof.Machine

/-- The Mill tables of a Recipe slot. -/
def Device.millOf (d : Device) (recipe : Nat) : List Byte := match d.recipe recipe with
  | some s => s.mill
  | none => []

/-- The grammar image that constrains a request. -/
def Device.grammarOf (d : Device) (r : Request) : Option (List Byte) :=
  if r.ctxValid && (d.ctx r.context).grammar.active then (tfind d.grammars (d.ctx r.context).grammar.handle).map (·.image)
  else none

/-! ## One position -/

/-- What constrains a position: the image, and the configuration before the position's token. -/
structure Constraint where
  image : Option (List Byte)
  cfg : GrammarState

/-- Is a token allowed. -/
def Constraint.allows (c : Constraint) (t : Nat) : Bool := match c.image with
  | none => true
  | some g => c.cfg.allows g t

/-- GRAMMAR_DEAD's detail, when the mask allows nothing. -/
def Constraint.dead (c : Constraint) : Option Nat := match c.image with
  | none => none
  | some g => c.cfg.dead g

/-- The constraint after a token. -/
def Constraint.next (c : Constraint) (t : Nat) : Constraint := match c.image with
  | none => c
  | some g => { c with cfg := (c.cfg.step g t).1 }

/-- Resolve a constrained position's mask through the cache (R321). -/
def Device.lookMask (d : Device) (c : Constraint) : Device := match c.image with
  | none => d
  | some g => match c.cfg.keyOf g with
    | none => d
    | some k => d.resolveMask c.cfg.handle k c.cfg.isFull

/-- The penalty source's last words and, after them, drafted tokens as words (R256). -/
def Device.penaltyWords (d : Device) (r : Request) (drafted : List Nat) : List Nat :=
  let x := d.ctx r.context
  let w := r.sampling.window
  let from_ := if r.sampling.scopeLog then 0 else r.genStart
  let lo := if from_ < x.logLength - w then x.logLength - w else from_
  let all := d.logWords x.logBase lo x.logLength ++ drafted
  ((all.drop (all.length - w)).filter (fun v => !bit v 18)).map (fun v => v % 2 ^ 18)

/-- A generated token's word (Table 00.6), the revived flag aside. -/
def tokenWord (mill : List Byte) (t : Nat) : Nat := t % 2 ^ 18 + b2n (tokControl mill t) * 2 ^ 18 + 2 ^ 20

/-- The sampler's view of a position. -/
def Device.posOf (d : Device) (r : Request) (drafted : List Nat) (c : Constraint) : Pos :=
  { s := r.sampling, set := d.penaltyWords r (drafted.map (tokenWord (d.millOf r.recipe))), allowed := c.allows,
    vocab := (d.info r.recipe).vocab }

/-- c0 of the sampler's counter (R260). -/
def Request.who (r : Request) : Nat := if r.session = 0 then r.cookie else r.session

/-! ## Drafting (R120, R264) -/

/-- What has been drafted for a request: tokens, and the constraints met before each and after the last. -/
structure Drafted where
  request : Nat
  toks : List Nat
  cs : List Constraint

/-- The constraint after the tokens drafted so far. -/
def Drafted.now (x : Drafted) : Constraint := x.cs.getLastD ⟨none, {}⟩

/-- Nothing drafted yet. -/
def Device.undrafted (d : Device) (i : Nat) : Drafted :=
  ⟨i, [], [⟨d.grammarOf (d.req i), (d.ctx (d.req i).context).grammar⟩]⟩

/-- Token ID of a request's last log entry. -/
def Device.lastTok (d : Device) (i : Nat) : Nat :=
  let x := d.ctx (d.req i).context
  (d.logWords x.logBase (x.logLength - 1) x.logLength).headD 0 % 2 ^ 18

/-- The FP32 logits of a request's position in its slot (R117). -/
def Device.logitsAt (d : Device) (i : Nat) (draft : Bool) (pos : Nat) : List Nat :=
  match d.eng.logits.find? (fun x => x.request == i && x.draft == draft && x.pos == pos) with
  | some x => x.vals
  | none => []

/-- The lane slot of a request's j-th position after its last logged one. -/
def Drafted.laneAt (d : Device) (x : Drafted) (j : Nat) : Lane :=
  ⟨x.request, j, (d.ctx (d.req x.request).context).logLength - 1 + j,
    if j = 0 then d.lastTok x.request else x.toks.getD (j - 1) 0⟩

/-- The next token out of the draft logits of the round just run. -/
def Device.draftToken (d : Device) (x : Drafted) : Drafted :=
  let r := d.req x.request
  let L := (d.ctx r.context).logLength
  let j := x.toks.length
  let t := sampleAt (d.posOf r x.toks x.now) r.sampling.seed r.who (L + j) 2 (d.logitsAt x.request true (L - 1 + j))
  { x with toks := x.toks ++ [t], cs := x.cs ++ [x.now.next t] }

/-- Rounds over the draft program, lanes in seat pairs, at most n: a sequence takes part while it has drafted fewer than
its k tokens and its mask is not dead. -/
def Pass.drafts (recipe : Nat) : Nat → Pass → List Drafted → Pass × List Drafted
  | 0, p, xs => (p, xs)
  | n + 1, p, xs =>
    let on := fun (x : Drafted) => decide (x.toks.length < (p.dev.req x.request).draftNow) && x.now.dead.isNone
    if !xs.any on then (p, xs) else
    let p := p.run recipe 1 ((xs.filter on).map (fun x => x.laneAt p.dev x.toks.length))
    p.drafts recipe n (xs.map (fun x => if on x then p.dev.draftToken x else x))

/-- The decode of one Recipe's seated sequences: draft rounds, then the main program over k + 1 positions of each, lanes
in seat order and then position order (R114, R120). -/
def Pass.recipe (p : Pass) (r : Nat) : Pass × List Drafted :=
  let mine := (p.dev.kn.seats.map (·.2)).filter (fun i =>
    let q := p.dev.req i
    q.state == .seated && q.recipe == r && !q.firstFromKept)
  let n := mine.foldl (fun a i => if a < (p.dev.req i).draftNow then (p.dev.req i).draftNow else a) 0
  let (p, xs) := p.drafts r n (mine.map p.dev.undrafted)
  (p.run r 0 ((xs.map (fun x => (upto (x.toks.length + 1)).map (x.laneAt p.dev))).flatten), xs)

/-- The decode of a bake step: every Recipe with a seated sequence (R114, R124). -/
def Device.decode (d : Device) (ecc : List EccReport) (store : List Nat) : Pass × List Drafted :=
  let rs := sortBy (fun a b => decide (a ≤ b)) ((d.kn.seats.map (fun s => (d.req s.2).recipe)).eraseDups)
  rs.foldl (fun (a : Pass × List Drafted) r => let (p, xs) := a.1.recipe r; (p, a.2 ++ xs))
    ({ dev := d, bad := badRowKeys ecc, store := store }, [])

/-! ## Verification (R265) -/

/-- What a step emits: accepted drafted tokens, then one token of the main model, or the detail of a dead mask. -/
structure Emit where
  accepted : Nat
  tokens : List Nat
  dead : Option Nat

/-- Verify the drafted tokens `todo`, of which `before` are accepted, against main and draft logits. -/
def Device.verify (d : Device) (r : Request) (pos : Nat) (before : List Nat) :
    List Nat → List (List Nat) → List (List Nat) → List Constraint → Emit
  | todo, main, drafts, cs =>
    let c := cs.headD ⟨none, {}⟩
    let p := d.posOf r before c
    let at_ := pos + before.length
    let z := main.headD []
    match todo with
    | [] => (match c.dead with
      | some k => ⟨before.length, before, some k⟩
      | none => ⟨before.length, before ++ [sampleAt p r.sampling.seed r.who at_ 0 z], none⟩)
    | t :: rest =>
      if accepted p r.sampling.seed r.who at_ t z (drafts.headD []) then
        d.verify r pos (before ++ [t]) rest (main.drop 1) (drafts.drop 1) (cs.drop 1)
      else ⟨before.length, before ++ [afterReject p r.sampling.seed r.who at_ z (drafts.headD [])], none⟩

/-! ## Appending (R12, R267–R269) -/

/-- The reason of the stop conditions a token meets, first first (R268); 0 for none. -/
def stopReason (eos grammarEnd stopString length : Bool) : Nat :=
  if eos then 1 else if grammarEnd then 4 else if stopString then 2 else if length then 3 else 0

/-- Append one generated token: log, counts, Stencil, Mill. Nothing after a stop condition. -/
def Device.appendToken (e : Env) (d : Device) (i t : Nat) : Device :=
  let r := d.req i
  let c := r.context
  let x := d.ctx c
  if r.stop != 0 then d else
  match d.logEnsure e x.logBase (x.logLength + 1) with
  | none => d.modReq i (fun r => { r with noExtent := true, stop := 3 })
  | some (b, d) =>
    let mill := d.millOf r.recipe
    let word := tokenWord mill t + b2n r.revived * 2 ^ 21
    let d := d.logPut b x.logLength [word]
    let (g, done) := match d.grammarOf r with
      | none => (x.grammar, false)
      | some im => x.grammar.step im t
    let d := d.modCtx c (fun x => { x with
      logBase := b, logLength := x.logLength + 1, lastProgress := e.now, grammar := g,
      sampler := { x.sampler with lastToken := t } })
    let d := d.modTenant r.tenant (fun n => { n with tokens := sat lim64 (n.tokens + 1), used := n.used + 1 })
    let logged := r.logged + 1
    let d := if r.tokenMode then d else d.noteReplaced (r.out.replaced (tokText mill t))
    let (o, rs, hit) := r.out.token r.tokenMode r.sampling.stops (tokText mill t) word e.now r.genStart logged
    let why := stopReason (!r.sampling.ignoreEos && (d.info r.recipe).eos.contains t) done hit
      (decide (logged ≥ r.newLimit) || decide (x.logLength + 1 ≥ Config.maxLog))
    (d.modReq i (fun r => { r with
      logged := logged, lastToken := e.now, out := o, stop := why,
      revivedDone := r.revivedDone || r.revived })).emit e i rs

/-- The sampling step of one sequence: verification of what was drafted, appends, the next draft length (R265–R267). -/
def Device.sampleStep (e : Env) (d : Device) (i : Nat) (xs : List Nat) (cs : List Constraint) : Device :=
  let r := d.req i
  let c := r.context
  let x := d.ctx c
  let L := x.logLength
  let at_ := (upto (xs.length + 1)).map (fun j => L - 1 + j)
  let main := if r.firstFromKept then [r.kept] else at_.map (d.logitsAt i false)
  let drafts := at_.map (d.logitsAt i true)
  let d := cs.foldl (fun d c => d.lookMask c) d
  let em := d.verify r L [] xs main drafts cs
  let d := em.tokens.foldl (fun d t => d.appendToken e i t) d
  let d := match em.dead with
    | some det => if (d.req i).stop = 0 then d.endLater i 0x30 det else d
    | none => d
  let made := (d.ctx c).logLength - L
  let good := if em.accepted ≤ made then em.accepted else made
  let (dl, zs) := nextDraft x.sampler.draft x.sampler.draftMax x.sampler.stepsAtZero xs.length em.accepted
  d.modCtx c (fun y => { y with
    valid := L + (if r.firstFromKept then 0 else good),
    stateSlot := if r.firstFromKept || x.valid ≥ L then y.stateSlot else good,
    sampler := { y.sampler with draft := dl, stepsAtZero := zs,
                                drafted := sat lim32 (y.sampler.drafted + xs.length),
                                accepted := sat lim32 (y.sampler.accepted + good) } })

/-- One seated sequence at the end of the decode. `bad` are the banks with uncorrectable rows. -/
def Device.stepSeq (e : Env) (bad : List Nat) (p : Pass) (xs : List Drafted) (d : Device) (i : Nat) : Device :=
  let r := d.req i
  if r.state != .seated then d
  else
    let d := match p.poison.find? (fun x => x.1 == i), p.stale.filter (fun x => x.1 == i) with
      | some (_, det), _ => (d.endLater i 0x43 det).poisonEffects e i det bad
      | none, [] =>
        let x := (xs.find? (fun (y : Drafted) => y.request == i)).getD (d.undrafted i)
        (if r.firstFromKept then d else d.useStagings e r.context).sampleStep e i x.toks x.cs
      | none, st => st.foldl (fun (d : Device) (x : Nat × Nat × Nat) => d.staleTag e r.context x.2) d
    d.modReq i (fun r => { r with draftNow := 0, kept := [], firstFromKept := false, reserved := false })

/-! ## Streamed tensors of a step or item -/

/-- A requester ends: its pins and its decisions are gone; the tensors it used were last used now (R233, R239). -/
def Device.endUse (e : Env) (d : Device) (who : Requester) (used : List Nat) : Device :=
  let oven := match who with
    | .item _ => true
    | _ => false
  let go := fun (x : Nat × Residency) =>
    let y := x.2
    let y := { y with pins := y.pins.filter (· != who),
                      lastUse := if used.contains x.1 && y.slot.isSome then e.now else y.lastUse }
    (x.1, if y.oven == oven then { y with needAt := none, lanes := [], late := false, decided := false, fell := 0 } else y)
  let left := fun (m : Move) => { m with who := m.who.filter (· != who) }
  { d with peel := { d.peel with resident := d.peel.resident.map go, moves := d.peel.moves.map (fun m => (m.1, left m.2)),
                                 waiting := d.peel.waiting.filter (fun w => w.2.2.1 != who) } }

/-! ## DECODE_END -/

/-- DECODE_END: the decode of every seated sequence, its numeric events, the errors found, then every sequence in seat
order; the streamed tensors that lanes used. `store` are requests whose seat-store or activation words were
uncorrectable. The decode does not end while a streamed tensor that a lane needs is missing. Under a power warning the
halt goes on from here (R412, step 2). -/
def effDecodeEnd (ecc : List EccReport) (store : List Nat) (e : Env) (d : Device) : Device :=
  if !d.kn.decoding || !(d.serving e || (d.mode == .halting && !d.logicFrozen)) then d else
  let (p, xs) := d.decode ecc store
  if p.blocked then d else
  let d := ((d.ranBy p.dev).numeric true p.sats p.nans).eccReports e ecc
  if !d.kn.decoding then d else
  let d := (d.kn.seats.map (·.2)).foldl (fun d i => d.stepSeq e (badBanks ecc) p xs i) d
  let d := d.endUse e (.step d.kn.step) p.used
  let d := { d with kn := { d.kn with decoding := false } }
  if d.mode == .halting then d.finishHalt e else d

def execDecodeEnd (t : Nat) (ecc : List EccReport) (storeBad : List Nat) (s : State) :
    Host.Outcome State Fault Refusal :=
  s.act t (effDecodeEnd ecc storeBad)

end Sys2Proof.Machine
end

