-- ==== Sys2Proof/Machine/Chunks.lean ====
section
/-! DEFINITION. The end of an Oven chunk (06: R144–R150; R63, R64, R171), publication of prefix blocks (R288), EMBED
and its row groups (R151, R152), the Mill's quantum (R302). -/

namespace Sys2Proof.Machine

/-! ## Publication (R288) -/

/-- The own tier-0 pages of a block in a layer, if the context holds them all. -/
def Context.blockPages (x : Context) (info : RecipeInfo) (l j : Nat) : Option (List Page) :=
  let T := (info.layerPool l).tokens
  let ps := (upto (256 / T)).filterMap (fun k =>
    let pg := j * (256 / T) + k
    x.pages.find? (fun p => p.layer == l && p.index == info.indexOf l (pg * T) && !p.shared && p.tier == 0 && !p.moving
      && p.first == pg * T))
  if ps.length = 256 / T then some ps else none

/-- Does the context reference block j: one of its pages is a shared page of it. -/
def Context.references (x : Context) (j : Nat) : Bool :=
  x.pages.any (fun p => p.shared && 256 * j ≤ p.first && p.first < 256 * (j + 1))

/-- The lowest free prefix index entry. -/
def Device.freeBlock (d : Device) : Option Nat :=
  let rec go (used : List (Nat × PrefixEntry)) : Nat → Nat → Option Nat
    | 0, _ => none
    | fuel + 1, i => match used with
      | [] => if i < Config.prefixEntries then some i else none
      | (k, _) :: r => if k = i then go r fuel (i + 1) else some i
  go d.blocks (d.blocks.length + 1) 0

/-- Publish one block: its pages become shared pages of the entry, without a copy. -/
def Device.publishBlock (e : Env) (d : Device) (r : Request) (c k h : Nat) (prior : Option Nat) (ps : List Page)
    (info : RecipeInfo) : Device :=
  let mine := fun (p : Page) => ps.any (fun q => q.layer == p.layer && q.index == p.index)
  let pages := ps.map (fun (p : Page) =>
    { p with shared := true, block := k, index := p.first / (info.layerPool p.layer).tokens })
  let entry : PrefixEntry :=
    { hash := h, prior := prior.getD 0, first := prior.isNone, recipe := r.recipe,
      format := (ps.filter (fun p => p.format < 3)).foldl (fun a p => if p.format < a then p.format else a) 0xF,
      refcount := 0, followers := 0, lastMatched := e.now,
      localPresent := (upto info.layers.length).foldl (fun a l =>
        if (info.layer l).kind = 2 && ps.any (fun p => p.layer == l) then a + 2 ^ info.localRank l else a) 0,
      pages := pages,
      adapter := r.adapter, version := r.version, scope := scopeOf e r.tenant }
  let d := { d with blocks := tset d.blocks k entry }
  let d := ps.foldl (fun d p =>
    let pi := (info.layer p.layer).pool
    d.setFrame r.recipe pi p.frame { d.frame r.recipe pi p.frame with owner := .block k }) d
  (d.modCtx c (fun x => { x with pages := x.pages.map (fun p =>
    if mine p then { p with shared := true, block := k } else p) })).recount

/-- Blocks from j on, n of them at most: `prior` is the entry of block j − 1, if in the index under the context's
chain. -/
def Device.publishFrom (e : Env) (i c : Nat) (info : RecipeInfo) (digest : Nat) (words : List Nat) :
    Nat → Nat → Nat → Option Nat → Device → Device
  | 0, _, _, _, d => d
  | n + 1, j, prev, prior, d =>
    let r := d.req i
    let x := d.ctx c
    if 256 * (j + 1) > x.valid || j ≥ publishLimit e then d else
    let h := blockHash prev digest r.adapter r.version (scopeOf e r.tenant) ((words.drop (256 * j)).take 256)
    let found := (d.blocks.find? (fun b => !b.2.gone && b.2.hash == h && b.2.recipe == r.recipe && b.2.adapter == r.adapter
      && b.2.version == r.version && b.2.scope == scopeOf e r.tenant && b.2.first == (j == 0)
      && (j == 0 || some b.2.prior == prior))).map (·.1)
    if j > 0 && prior.isNone then d
    else if x.references j || found.isSome then publishFrom e i c info digest words n (j + 1) h found d
    else
      let layers := upto info.layers.length
      let globals := (layers.filter (fun l => (info.layer l).kind == 1)).map (fun l => x.blockPages info l j)
      let locals := (layers.filter (fun l => (info.layer l).kind == 2)).map (fun l => x.blockPages info l j)
      let ps := (globals.filterMap id).flatten ++ (locals.filterMap id).flatten
      match d.freeBlock with
      | none => d
      | some k =>
        if globals.any (·.isNone) || ps.isEmpty || ceilDiv ps.length 512 > d.listFree e then d
        else publishFrom e i c info digest words n (j + 1) h (some k)
          (d.publishBlock e r c k h (if j = 0 then none else prior) ps info)

/-- Leading blocks all of whose global pages are shared pages of the context's lists. -/
def Context.sharedRun (x : Context) (info : RecipeInfo) : Nat → Nat → Nat
  | 0, j => j
  | n + 1, j =>
    let full := (upto info.layers.length).all (fun l => (info.layer l).kind != 1 ||
      (let T := (info.layerPool l).tokens
       (upto (256 / T)).all (fun k => x.pages.any (fun p => p.layer == l && p.shared && p.first == 256 * j + k * T))))
    if x.references j && full then x.sharedRun info n (j + 1) else j

/-- Publication at a chunk end; the positions covered by shared-prefix pages grow with it. -/
def Device.publish (e : Env) (d : Device) (i : Nat) : Device :=
  let r := d.req i
  let c := r.context
  match d.recipe r.recipe with
  | none => d
  | some s =>
    if publishLimit e = 0 || !s.info.shares then d else
    let x := d.ctx c
    let words := d.logWords x.logBase 0 x.valid
    let d := d.publishFrom e i c s.info (s.digest % 2 ^ 64) words (x.valid / 256) 0 0 none
    d.modCtx c (fun x => { x with prefixLen := 256 * x.sharedRun s.info (x.valid / 256) 0 })

/-! ## CHUNK_END -/

/-- A chunk as the Oven runs it: the prefill program over its positions, drawn by session and log position (R96, R144). -/
def Device.chunkWork (e : Env) (d : Device) (i start stop : Nat) : Work :=
  let r := d.req i
  { recipe := r.recipe, program := 2, items := [0], ctx := some r.context, start := start, stop := stop,
    final := stop == r.target, adapter := r.adapter, version := r.version, stream := r.session, random := stochasticOn e }

/-- The first of the log entries lo to hi − 1 whose data are uncorrectable (R149). -/
def Device.badLog (d : Device) (base lo hi : Nat) : Option Nat :=
  ((upto (hi - lo)).map (lo + ·)).find? (fun p => d.lpPoisoned (d.entryAddr base p))

/-- After a chunk: cancels and parks, then statuses due, then the deadline; a last chunk makes the request READY
(R13, R64). -/
def Device.afterChunk (e : Env) (d : Device) (i stop : Nat) (logits : List Nat) : Device :=
  let d := d.applyChunkChanges e i
  let r := d.req i
  if !r.going then d
  else match r.ending with
    | some (st, det) => d.endReq e i st 0 det
    | none =>
      if pastDeadline e r then d.endReq e i 0x31 0 1
      else if (r.state == .prefill || r.state == .rebuild) && stop == r.target
          && (d.ctx r.context).valid == stop then
        (d.modReq i (fun r => { r with kept := if r.slot then logits else [] })).setState e i .ready
      else d

/-- One chunk of a request ends, with what the Oven made of it; `bad` are the banks with uncorrectable rows. -/
def Device.chunkDone (e : Env) (d : Device) (i start stop : Nat) (x : Bake) (bad : List Nat) : Device :=
  let d := d.charge e i
  let d := d.modReq i (fun r => { r with chunk := none, oven := sat (2 ^ 23 - 1) (r.oven + (stop - start)) })
  let c := (d.req i).context
  let d := d.useStagings e c
  let setV := fun (d : Device) (v : Nat) => d.modCtx c (fun x => { x with valid := v, stateSlot := 0, lastProgress := e.now })
  if x.poison != 0 then
    ((d.poisonEffects e i x.poison bad).applyChunkChanges e i).endReq e i 0x43 0 x.poison
  else match d.badLog (d.ctx c).logBase start stop with
    | some b => ((setV d b).applyChunkChanges e i).endReq e i 0x43 0 4
    | none =>
      if x.stale.isEmpty then ((setV d stop).publish e i).afterChunk e i stop x.logits
      else (x.stale.foldl (fun (d : Device) p => d.staleTag e c p) d).afterChunk e i stop []

/-- What an item did, apart from its results: its numeric events (R100), the errors found (R126), its trays. -/
def Device.baked (d : Device) (x : Bake) (e : Env) (ecc : List EccReport) : Device :=
  let d := d.ranBy { x.dev with eng := { x.dev.eng with tray := x.mem } }
  (d.numeric false x.sats x.nans).eccReports e ecc

/-- CHUNK_END: the chunk in progress runs to its end (Table 06.4); it does not end while a streamed tensor that it needs is
missing. -/
def effChunkEnd (ecc : List EccReport) (e : Env) (d : Device) : Device :=
  match d.oven.items with
  | .chunk i start stop :: _ =>
    if !d.serving e then d else
    let x := d.bake (d.chunkWork e i start stop) ecc
    if x.blocked then d else
    let d := d.baked x e ecc
    if d.oven.items.isEmpty then d else
    let d := d.keepItems (fun k _ => k != 0)
    let d := { d with oven := { d.oven with chunks := sat lim32 (d.oven.chunks + 1) } }
    let d := if (d.req i).going && (d.req i).chunk == some (start, stop) then
      d.chunkDone e i start stop x (badBanks ecc) else d
    (d.endUse e (.item i) x.used).fillOven e
  | _ => d

def execChunkEnd (t : Nat) (ecc : List EccReport) (s : State) : Host.Outcome State Fault Refusal :=
  s.act t (effChunkEnd ecc)

/-! ## EMBED (R151, R152) -/

/-- Bytes of an EMBED record. -/
def embedRecord (info : RecipeInfo) : Nat := ceilDiv info.embedBytes 64 * 64

/-- Rows of items given by their lengths, each with its item numbers: packed, or one item each padded to 256. -/
def embedRows (packed : Bool) (S : Nat) (lens : List Nat) : List (Nat × List Nat) :=
  let xs := lens.zip (upto lens.length)
  if packed then
    xs.foldl (fun (rows : List (Nat × List Nat)) x =>
      match rows.getLast? with
      | some (n, is) => if n + x.1 ≤ S && is.length < 64 then rows.dropLast ++ [(n + x.1, is ++ [x.2])]
          else rows ++ [(x.1, [x.2])]
      | none => [(x.1, [x.2])]) []
  else xs.map (fun x => (roundUp x.1 256, [x.2]))

/-- Row groups: a packed row each, or unpacked rows up to S positions together. -/
def embedGroups (packed : Bool) (S : Nat) (rows : List (Nat × List Nat)) : List (Nat × List Nat) :=
  if packed then rows
  else rows.foldl (fun (gs : List (Nat × List Nat)) r =>
    match gs.getLast? with
    | some (n, is) => if n + r.1 ≤ S then gs.dropLast ++ [(n + r.1, is ++ r.2)] else gs ++ [r]
    | none => [r]) []

/-- Replace an EMBED in flight. -/
def Device.setEmbed (d : Device) (y : EmbedJob) : Device :=
  { d with oven := { d.oven with embeds := d.oven.embeds.map (fun (z : EmbedJob) => if z.seq == y.seq then y else z) } }

/-- The EMBED ends: its descriptor completes, the adapter version it held is released (R274). -/
def Device.endEmbed (e : Env) (d : Device) (x : EmbedJob) (status detail result : Nat) : Device :=
  let d := d.keepItems (fun _ it => match it with
    | .rows s _ _ => s != x.seq
    | .chunk _ _ _ => true)
  let d := { d with oven := { d.oven with embeds := d.oven.embeds.filter (fun y => y.seq != x.seq) } }
  ((d.dropDeficit x.tenant).complete e ⟨x.seq, x.ring, x.cookie, none, status, 0, detail, result, 0,
    d.inflight.any (fun y => y.seq == x.seq && y.quiet)⟩).sweepAdapters

/-- Every item's tokens are known: its rows are formed, or the descriptor is refused (R151, R152). -/
def Device.formEmbed (e : Env) (d : Device) (x : EmbedJob) : Device :=
  let info := d.info x.recipe
  let mill := d.millOf x.recipe
  let made : List (List Nat × Nat) := x.parts.map (fun p => stageParts mill [p])
  let control := fun (ts : List Nat) => ts.map (fun t => t % 2 ^ 18 + 2 ^ 18)
  let toks := made.map (fun t => control info.embedLead ++ t.1 ++ control info.embedTrail)
  let lens := toks.map (·.length)
  let d := d.noteReplaced ((made.map (·.2)).sum)
  let S := d.chunkS e x.recipe
  if lens.any (fun n => n > S) || x.items * embedRecord info > x.capacity then d.endEmbed e x 0x20 3 0
  else
    let gs := embedGroups x.packed S (embedRows x.packed S lens)
    let y := { x with parts := [], textLeft := 0, tokens := toks, groups := gs, left := gs.length }
    if gs.isEmpty then d.endEmbed e x 0 0 0
    else
      let d := d.setEmbed y
      d.fillOven e

/-- EMBED: checks 1 to 3 of admission, its spans, then its rows, at once when no item is text. -/
def effEmbed (hostOk : Bool) (e : Env) (d : Device) (f : Fetched) : Device :=
  let ss := d.spans (f.w 2) (bits (f.w 3) 15 0)
  if textOver ss then d.completeD e f 0x20 3 0
  else match d.recipeFault f.recipe with
    | some x => d.completeD e f x.1 x.2 0
    | none => match d.adapterFault f.recipe f.adapter f.version with
      | .inl k => d.completeD e f 0x23 k 0
      | .inr v =>
        if !hostOk then d.completeD e f 0x20 0x000A 0
        else match d.embedFault (d.millOf f.recipe) ss with
          | some k => d.completeD e f 0x20 k 0
          | none =>
            let parts := ss.map (fun s => if s.type ≤ 1 then Part.text (s.type == 1) (d.hostRead s.addr s.len)
              else Part.words (d.spanWords s))
            let x : EmbedJob :=
              { seq := f.seq, ring := f.ring.getD 0, cookie := f.cookie, tenant := f.tenant, priority := f.priority,
                recipe := f.recipe, adapter := f.adapter, version := v, order := d.kn.order, admitted := e.now, out := f.w 4,
                parts := parts, textLeft := partsText parts, tokens := [], groups := [], left := 0, postedAt := [], items := ss.length,
                capacity := bits (f.w 5) 39 0, packed := f.packed }
            let d := { d with kn := { d.kn with order := d.kn.order + 1 },
                              oven := { d.oven with embeds := d.oven.embeds ++ [x] } }
            if x.textLeft = 0 then d.formEmbed e x else d

/-- No EMBED starts while a job holds the chip (08). -/
def execEmbed (t ring : Nat) (hostOk : Bool) (s : State) : Host.Outcome State Fault Refusal :=
  s.act t (fun e d => if d.jobHolds then d else onDesc ring 0x20 (effEmbed hostOk) e d)

/-- Write a row group's records: item k's at output + k × record size, its unused tail zero. -/
def Device.writeRecords (d : Device) (x : EmbedJob) (items : List Nat) (vectors : List (List Byte)) : Device :=
  let n := embedRecord (d.info x.recipe)
  let body := (d.info x.recipe).embedBytes
  (items.zip vectors).foldl (fun d p =>
    let v := p.2.take body
    d.hostWrite (x.out + p.1 * n) (v ++ List.replicate (n - v.length) 0)) d

/-- A row group as the Oven runs it: the embed program over its items, drawn by the descriptor's cookie (R96, R151). -/
def EmbedJob.work (x : EmbedJob) (e : Env) (items : List Nat) : Work :=
  { recipe := x.recipe, program := 3, items := items, ctx := none, start := 0, stop := 0, final := false,
    adapter := x.adapter, version := x.version, stream := x.cookie, random := stochasticOn e }

/-- The vectors that a row group's program left, item by item. -/
def Bake.vectors (y : Bake) (w : Work) : List (List Byte) :=
  w.items.map (y.vector w (y.dev.ovenProgram w.recipe w.program) (y.dev.info w.recipe).embedBytes)

/-- One row group of an EMBED ends (R151, R152, Table 05.7). -/
def Device.groupDone (e : Env) (d : Device) (x : EmbedJob) (items : List Nat) (poison : Nat) (vs : List (List Byte)) :
    Device :=
  if poison != 0 then
    (let d := if poison = 2 then d.wordsLost e x.recipe
       else if poison = 4 then d.poisonTensors e x.recipe false else d
     d.endEmbed e x 0x43 poison 0)
  else
    let d := d.writeRecords x items vs
    let y := { x with left := x.left - 1, postedAt := x.postedAt.drop 1 }
    if y.left = 0 then d.endEmbed e y 0 0 (x.items * embedRecord (d.info x.recipe)) else d.setEmbed y

/-- EMBED_ROW_GROUP_END: the row group in progress runs to its end; it does not end while the link is down (R21), nor while
a streamed tensor that it needs is missing. -/
def effRowGroupEnd (ecc : List EccReport) (e : Env) (d : Device) : Device :=
  match d.oven.items with
  | .rows seq _ items :: _ =>
    if !d.serving e || !d.hif.linkUp then d else
    (match d.oven.embeds.find? (fun x => x.seq == seq) with
    | none => (d.keepItems (fun k _ => k != 0)).fillOven e
    | some x =>
      let w := x.work e items
      let y := d.bake w ecc
      if y.blocked then d else
      let d := d.baked y e ecc
      if d.oven.items.isEmpty then d else
      let d := (d.keepItems (fun k _ => k != 0)).groupDone e x items y.poison (y.vectors w)
      (d.endUse e (.item (1048576 + seq)) y.used).fillOven e)
  | _ => d

def execEmbedRowGroupEnd (t : Nat) (ecc : List EccReport) (s : State) : Host.Outcome State Fault Refusal :=
  s.act t (effRowGroupEnd ecc)

/-! ## MILL_INTAKE_QUANTUM (R302) -/

/-- One quantum: 1 MiB of the text of the next one served; the whole of a text taken in is tokenised. Intake goes on
while a job holds the chip. -/
def effMillQuantum (e : Env) (d : Device) : Device :=
  if !d.serving e then d else
  match nextServed d.mill.lastServed d.millWaiters with
  | none => d
  | some (order, isReq, key) =>
    let d := { d with mill := { d.mill with lastServed := order } }
    if isReq then
      let d := d.modReq key (fun r => { r with textLeft := r.textLeft - Config.mib })
      if (d.req key).textLeft = 0 then d.stageText key else d
    else match d.oven.embeds.find? (fun x => x.seq == key) with
      | none => d
      | some x =>
        let y := { x with textLeft := x.textLeft - Config.mib }
        let d := d.setEmbed y
        if y.textLeft = 0 then d.formEmbed e y else d

def execMillIntakeQuantum (t : Nat) (s : State) : Host.Outcome State Fault Refusal := s.act t effMillQuantum

end Sys2Proof.Machine
end

