-- ==== Sys2Proof/Machine/Mirror.lean ====
section
/-! DEFINITION. What the device keeps in the window beside stored bytes: the request and context mirrors (03: R51,
R54, R74–R76), the accounting table (08: R215, R217), the census map (09: R249). They read as the state stands. -/

namespace Sys2Proof.Machine

/-- The code of a request state (Table 03.2). -/
def stateCode : ReqState → Nat
  | .free => 0
  | .admitted => 1
  | .intake => 2
  | .prefill => 3
  | .rebuild => 4
  | .ready => 5
  | .seated => 6
  | .waitPage => 7
  | .waitFetch => 8
  | .done => 9
  | .failed => 10

/-- A request entry (Table 03.1) with its queue link. -/
def reqEntry (link : Nat) (r : Request) : List Byte :=
  toBytes 8 (stateCode r.state + b2n r.pin * 2 ^ 4 + b2n r.tokenMode * 2 ^ 5 + b2n r.ctxValid * 2 ^ 6
      + r.tenant % 2 ^ 12 * 2 ^ 8 + r.priority % 8 * 2 ^ 20 + r.recipe % 16 * 2 ^ 23 + r.cookie % 2 ^ 32 * 2 ^ 32)
    ++ toBytes 8 (r.session % 2 ^ 32 + r.context % 2 ^ 16 * 2 ^ 32 + r.sq % 256 * 2 ^ 48 + r.stream % 64 * 2 ^ 56)
    ++ toBytes 8 r.deadline ++ toBytes 8 r.admitted
    ++ toBytes 8 (r.adapter % 2 ^ 12 + r.version % 256 * 2 ^ 12 + r.grammar % 2 ^ 12 * 2 ^ 20 + r.epoch % 2 ^ 16 * 2 ^ 32
      + r.incarnation % 2 ^ 16 * 2 ^ 48)
    ++ toBytes 8 (r.newLimit % 2 ^ 23 + r.logged % 2 ^ 23 * 2 ^ 23)
    ++ toBytes 8 (r.target % 2 ^ 23 + sat (2 ^ 23 - 1) r.oven * 2 ^ 23)
    ++ toBytes 8 (r.endStatus % 256 + r.reason % 16 * 2 ^ 8 + r.detail % 2 ^ 16 * 2 ^ 12
      + link % 2 ^ 20 * 2 ^ 28)

/-- The queue link of an entry: 0 while it has never been used, then a free value, which a FREE entry keeps (R51). -/
def Device.linkOf (d : Device) (i : Nat) : Nat :=
  if d.fresh ≤ i then 0 else Config.queueLink i (d.req i).incarnation

/-- The page-list root (Table 07.6), with the number of the directory list frame. -/
def pageRoot (dir : Nat) (info : RecipeInfo) (x : Context) : List Byte :=
  if x.pages.isEmpty then toBytes 64 0
  else
    let own := x.pages.filter (fun p => !p.shared)
    toBytes 8 (dir % 2 ^ 32 + info.layers.length % 2 ^ 10 * 2 ^ 32 + 2 ^ 63)
      ++ toBytes 8 (listFramesOf info x.pages % 2 ^ 32 + (x.pages.length - own.length) % 2 ^ 32 * 2 ^ 32)
      ++ toBytes 48 ((own.filter (fun p => p.tier == 1)).length % 2 ^ 32 + (own.filter (fun p => p.tier == 2)).length * 2 ^ 32)

/-- A context entry (Tables 03.3, 10.2, 12.7, 11.2); zero while it is not held (R54). -/
def ctxEntry (dir : Nat) (info : RecipeInfo) (x : Context) : List Byte :=
  if !x.held then toBytes 256 0
  else
    let s := x.sampler
    let g := x.grammar
    let a := x.dir
    toBytes 8 (x.session % 2 ^ 32 + b2n x.held * 2 ^ 32 + b2n x.pinned * 2 ^ 33 + b2n x.parked * 2 ^ 34
        + b2n x.live * 2 ^ 35 + x.recipe % 16 * 2 ^ 36 + x.adapter % 2 ^ 12 * 2 ^ 40 + x.version % 256 * 2 ^ 52
        + x.format % 16 * 2 ^ 60)
      ++ toBytes 8 (x.request % 2 ^ 20 + x.cls % 8 * 2 ^ 20 + x.tenant % 2 ^ 12 * 2 ^ 23)
      ++ toBytes 8 x.logBase ++ toBytes 8 (x.logLength % 2 ^ 23 + x.valid % 2 ^ 23 * 2 ^ 23)
      ++ toBytes 8 (x.prefixLen % 2 ^ 23 + x.frames % 2 ^ 32 * 2 ^ 32)
      ++ toBytes 8 x.lastUse ++ toBytes 8 x.lastProgress ++ toBytes 8 (x.quality % 2 ^ 63)
      ++ pageRoot dir info x
      ++ toBytes 8 s.seed
      ++ toBytes 8 (s.draft % 256 + s.draftMax % 256 * 2 ^ 8 + s.stepsAtZero % 64 * 2 ^ 16)
      ++ toBytes 8 (sat lim32 s.drafted + sat lim32 s.accepted * 2 ^ 32) ++ toBytes 40 (s.lastToken % 2 ^ 18)
      ++ toBytes 8 (g.handle % 2 ^ 12 + b2n g.active * 2 ^ 12 + g.stack.length % 128 * 2 ^ 13 + g.state % 2 ^ 20 * 2 ^ 32
        + g.stack.getLastD 0 % 256 * 2 ^ 52)
      ++ toBytes 24 (g.key % 2 ^ 32 + sat lim32 g.steps * 2 ^ 32)
      ++ toBytes 8 (a.slot % 2 ^ 24 + b2n a.recordValid * 2 ^ 24 + b2n a.outgoing * 2 ^ 25 + b2n a.incoming * 2 ^ 26
        + a.phase % 2 * 2 ^ 27 + a.peer % 64 * 2 ^ 28 + a.epoch % 2 ^ 16 * 2 ^ 34)
      ++ toBytes 8 (a.sentV % 2 ^ 23 + a.pagesLeft % 2 ^ 32 * 2 ^ 23) ++ toBytes 8 a.opened
      ++ toBytes 8 (x.incarnation % 2 ^ 16)

/-- An accounting record (Table 08.6). -/
def acctRecord (t : Tenant) : List Byte :=
  let w := fun (v : Nat) => toBytes 8 (sat lim64 v)
  w t.tokens ++ w t.positions ++ w t.seatSteps ++ w t.queueWait ++ w t.frameWait ++ w t.preemptions ++ w t.jobRun
    ++ toBytes 8 (sat lim32 t.jobPreempted + sat lim16 t.overruns * 2 ^ 32)

/-- A tenant's record with the time of the spans still open: its waiting requests, its waiting jobs, its running job
(R216, Table 08.6). -/
def Device.openTenant (e : Env) (d : Device) (n : Nat) : Tenant :=
  let t := d.tenant n
  let mine := d.reqs.filter (fun r => r.2.tenant == n)
  let span := fun (p : Request → Bool) => ((mine.filter (fun r => p r.2)).map (fun r => e.now - r.2.since)).sum
  let jobs := d.kn.jobs.filter (fun j => j.tenant == n)
  let idle := ((jobs.filter (fun j => j.state == .queued || j.state == .saved || j.state == .taking)).map
    (fun j => e.now - j.ready)).sum
  let ran := ((jobs.filter (fun j => j.state == .running)).map (fun j => e.now - j.began)).sum
  { t with queueWait := t.queueWait + span (fun r => r.queueing) + idle,
           frameWait := t.frameWait + span (fun r => r.frameWaiting), jobRun := t.jobRun + ran }

/-- Byte i of the census map (R249). -/
def Device.censusByte (d : Device) (i : Nat) : Byte :=
  if i < 3072 then
    BitVec.ofNat 8 (((upto 8).filter (fun k => !d.health.out.contains (8 * i + k))).map (2 ^ ·)).sum
  else if i < 3076 then (toBytes 4 d.health.generation).getD (i - 3072) 0
  else 0

/-- Byte a of LPDDR5X as a reader finds it once set-up has closed: what the device keeps current in the window's
regions, or the stored byte. -/
def Device.lpByte (e : Env) (d : Device) (a : Nat) : Byte :=
  let o := a - winBase e
  let within := fun (base len : Nat) => winBase e ≤ a && base ≤ o && o < base + len
  if !e.closed then mread 0 d.lp a
  else if within (reqMirror e) (2 ^ 26) then
    (reqEntry (d.linkOf ((o - reqMirror e) / 64)) (d.req ((o - reqMirror e) / 64))).getD ((o - reqMirror e) % 64) 0
  else if within (ctxMirror e) (2 ^ 24) then
    let c := (o - ctxMirror e) / 256
    let x := d.ctx c
    (ctxEntry (d.listOf ⟨.ctx c, 0, 0, 0, false⟩) (d.info x.recipe) x).getD ((o - ctxMirror e) % 256) 0
  else if within (acctBase e) (2 ^ 18) then
    (acctRecord (d.openTenant e ((o - acctBase e) / 64))).getD ((o - acctBase e) % 64) 0
  else if within (censusMap e) 4096 then d.censusByte (o - censusMap e)
  else mread 0 d.lp a

/-- n bytes from an address of LPDDR5X as a reader finds them. -/
def Device.lpSeen (e : Env) (d : Device) (a n : Nat) : List Byte := (upto n).map (fun i => d.lpByte e (a + i))

end Sys2Proof.Machine
end

