-- ==== Sys2Proof/Machine/Shaping.lean ====
section
/-! DEFINITION. The Proofer (15): gate lists, credit shaping, the host token stream's outlet; the stream hold time
(R43) and the interrupt time threshold (R44). -/

namespace Sys2Proof.Machine

/-! ## GATE_ARM, GATE_DISARM, GATE_TAKEOVER (R375, R376) -/

/-- The longest run for which a class stays closed around the cycle of a list. -/
def closedRun (c : Nat) (l : List (Nat × Nat)) : Nat :=
  ((l ++ l).foldl (fun (s : Nat × Nat) x =>
    let run := if bit x.1 c then 0 else s.1 + x.2
    (run, if s.2 < run then run else s.2)) (0, 0)).2

/-- Does a class close for at most 20,000 ns at a stretch. -/
def shortClosed (l : List (Nat × Nat)) (c : Nat) : Bool :=
  l.isEmpty || (l.any (fun x => bit x.1 c) && closedRun c l ≤ 20000)

/-- The conditions of R376. -/
def Gate.mayArm (e : Env) (p : Nat) (g : Gate) : Bool :=
  let l := g.pendings
  e.now + 1000 ≤ g.takeover && l.all (fun x => x.2 != 0)
    && (p ≥ 8 || (shortClosed l (kindClass e 0) && shortClosed l (kindClass e 2)))

/-- The takeover instant X for a time T. -/
def Gate.instant (g : Gate) : Nat :=
  let C := cycleLen g.actives
  if g.activeLen = 0 || C = 0 then g.takeover else g.base + C * ceilDiv (g.takeover - g.base) C

/-- A write of PRF_GATE_CTL_p: length, arm, and the error bit's clear (Table 15.6). The pending length is part of the
pending list, which an armed takeover holds. -/
def Gate.ctl (e : Env) (p v : Nat) (g : Gate) : Gate :=
  let n := bits v 8 0
  let g := { g with pendingLen := if g.armed || n > 256 then g.pendingLen else n,
                    error := g.error && !bit v 11 }
  if bit v 9 then
    if g.armed then g
    else if g.mayArm e p then { g with armed := true, at_ := g.instant } else { g with error := true }
  else if g.armed && e.now < g.at_ then { g with armed := false } else g

/-- PRF_GATE_CTL_p, PRF_TAKEOVER_p and the gate banks are heard whenever the registers are. -/
def Device.gateCtl (e : Env) (d : Device) (p v : Nat) : Device :=
  let d := d.settleOutlet e p
  d.setGate p ((d.gate p).ctl e p v)

/-- Register writes by the host are served: not in a halted device (R412 step 7). -/
def Device.regsUp (d : Device) : Bool := d.hif.linkUp && (d.mode == .running || d.mode == .halting)

def effGateArm (p v : Nat) (e : Env) (d : Device) : Device :=
  if d.regsUp && p ≤ 8 && bit v 9 then d.gateCtl e p v else d

def effGateDisarm (p v : Nat) (e : Env) (d : Device) : Device :=
  if d.regsUp && p ≤ 8 && !bit v 9 then d.gateCtl e p v else d

/-- GATE_TAKEOVER: at X the pending bank becomes active, X the cycle base. -/
def effGateTakeover (p : Nat) (e : Env) (d : Device) : Device :=
  let g := d.gate p
  if d.mode != .running || p > 8 || !g.armed || e.now < g.at_ then d else
  let d := d.settleOutlet e p
  d.setGate p { g with pending := g.active, active := g.pending, activeLen := g.pendingLen, bankB := !g.bankB,
                       armed := false, base := g.at_, takeovers := (g.takeovers + 1) % 65536 }

def execGateArm (t outlet value : Nat) (s : State) : Host.Outcome State Fault Refusal := s.act t (effGateArm outlet value)
def execGateDisarm (t outlet value : Nat) (s : State) : Host.Outcome State Fault Refusal :=
  s.act t (effGateDisarm outlet value)
def execGateTakeover (t outlet : Nat) (s : State) : Host.Outcome State Fault Refusal := s.act t (effGateTakeover outlet)

/-! ## The host outlet (R377, R378) -/

/-- May the record of a class's head be written now. -/
def Device.hostEligible (e : Env) (d : Device) (c : Nat) : Option StreamRec :=
  match d.prf.hostQueue.find? (fun r => recClass e r == c) with
  | none => none
  | some r =>
    if (d.gate 8).isOpen e.now c && creditOk e 8 c d.prf.hostCredit && d.canPut e .ts r.ring then some r else none

/-- HOST_RECORD_WRITE: the head record of the highest-numbered eligible class. A written end record lets the
request's completion go (R27). -/
def effHostRecordWrite (e : Env) (d : Device) : Device :=
  if !(d.serving e) || !d.hif.linkUp then d else
  let d := d.settleOutlet e 8
  match ((upto 8).reverse.findSome? (fun c => (d.hostEligible e c).map (fun r => (c, r)))) with
  | none => d
  | some (c, r) =>
    match takeFirst (fun x => recClass e x == c) d.prf.hostQueue with
    | none => d
    | some (_, rest) =>
      let cr := chargeCredit e 8 c (64 + portOverhead e 8) (!rest.any (fun x => recClass e x == c)) d.prf.hostCredit
      let d := { d with prf := { d.prf with hostQueue := rest, hostCredit := cr } }
      let d := d.putRecord e r
      if r.last then d.complete e (d.reqCompletion r.request) else d

def execHostRecordWrite (t : Nat) (s : State) : Host.Outcome State Fault Refusal := s.act t effHostRecordWrite

/-- STREAM_HOLD_TIMEOUT: the record in hand is formed once its oldest byte has waited the ring's hold time. -/
def effHoldTimeout (i : Nat) (e : Env) (d : Device) : Device :=
  let r := d.req i
  match r.out.since with
  | none => d
  | some t0 =>
    if !(d.serving e) || !r.going || r.out.finished || e.now < t0 + tsHold e r.stream then d
    else
      let (o, x) := r.out.close r.genStart r.logged false
      (d.modReq i (fun r => { r with out := o })).emit e i [x]

def execStreamHoldTimeout (t request : Nat) (s : State) : Host.Outcome State Fault Refusal :=
  s.act t (effHoldTimeout request)

/-! ## INTERRUPT_TIME_THRESHOLD (R44) -/

/-- The kinds of ring by number: 0 completion, 1 token stream, 2 event. -/
def ringKindOf (k : Nat) : RingKind := match k with
  | 0 => .cq
  | 1 => .ts
  | _ => .eq

/-- The oldest pending entry has waited the ring's time threshold: its message is sent. -/
def effTimeThreshold (kind ring : Nat) (e : Env) (d : Device) : Device :=
  let k := ringKindOf kind
  match (d.ring k ring).pend with
  | [] => d
  | (_, t0) :: _ => if d.heard && e.now ≥ t0 + devTime e k ring then d.interrupt e k ring else d

def execInterruptTimeThreshold (t kind ring : Nat) (s : State) : Host.Outcome State Fault Refusal :=
  s.act t (effTimeThreshold kind ring)

end Sys2Proof.Machine
end

