-- ==== Sys2Proof/Machine/Pemos.lean ====
section
/-! DEFINITION. Pemos's ports, links and routes, the issue of operations, and what a home serves (14: R347–R361;
R368–R371). -/

namespace Sys2Proof.Machine

/-! ## Routes (R351) -/

/-- Valid ports of the route to a node: primary, then alternate. -/
def routePorts (e : Env) (n : Nat) : List Nat :=
  let w := routeWord e n
  (if bit w 3 then [bits w 2 0] else []) ++ (if bit w 9 then [bits w 8 6] else [])

/-- The port in use for a node. -/
def Device.routePort (e : Env) (d : Device) (n : Nat) : Option Nat :=
  let w := routeWord e n
  if d.pem.alternate.contains n && bit w 9 then some (bits w 8 6) else (routePorts e n).head?

def Device.isUp (d : Device) (p : Nat) : Bool := (d.port p).state == 2

/-- Is some port of a route up. -/
def Device.routeUp (e : Env) (d : Device) (n : Nat) : Bool := (routePorts e n).any d.isUp

/-- The response timer T_r (R362). -/
def respTimer (e : Env) (n : Nat) : Nat :=
  let w := routeWord e n
  let a := if bit w 3 then bits w 5 4 else 0
  let b := if bit w 9 then bits w 11 10 else 0
  1000 + 2000 * (if a < b then b else a)

/-! ## Queues -/

/-- Queue a packet on a port: management by itself, else in its kind's class (R368, R369). -/
def Device.enqueue (e : Env) (d : Device) (p kind : Nat) (k : Pkt) : Device :=
  let d := d.settleOutlet e p
  let x := d.port p
  if k.chan = 3 then d.setPort p { x with mgmt := x.mgmt ++ [k] }
  else
    let c := kindClass e kind
    d.setPort p { x with queues := tset x.queues c (tget [] x.queues c ++ [k]) }

/-- Send a packet by the route in use; without a route it goes nowhere. -/
def Device.sendTo (e : Env) (d : Device) (kind : Nat) (k : Pkt) : Device :=
  match d.routePort e k.dest with
  | some p => d.enqueue e p kind k
  | none => d

/-- A PROBE to a node by a port. Probes carry tag 65,535, which no operation takes. -/
def Device.probeBy (e : Env) (d : Device) (n p : Nat) : Device :=
  d.enqueue e p 0 ⟨n, nodeNumber e, 3, 0x20, 0, 65535, 0, 0, n * 2 ^ 42, 0, 0, 0, 0, false, 0, []⟩

/-! ## The issue of operations (R357, R358) -/

/-- An aligned 64-byte line of a global address. -/
def pktLine (k : Pkt) : Nat := k.addr / 64

/-- The first tag from n on that no outstanding operation has, and no attempt of the last 128 µs. -/
def Device.findTag (e : Env) (d : Device) : Nat → Nat → Option Nat
  | 0, _ => none
  | fuel + 1, n =>
    let t := n % 65535
    if d.pem.ops.any (fun o => o.pkt.tag == t) || d.pem.recent.any (fun r => r.2.1 == t && decide (e.now < r.2.2.1 + 128000))
      then d.findTag e fuel (n + 1) else some t

/-- May an operation be issued now (R358). -/
def Device.mayIssue (e : Env) (d : Device) (o : FabOp) : Bool :=
  let p := d.pem
  p.ops.length < 16384
    && (p.ops.filter (fun x => pktLine x.pkt == pktLine o.pkt)).length < 16
    && (!o.once || (p.ops.filter (fun x => x.once && x.pkt.dest == o.pkt.dest && decide (e.now < x.issued + 64000))).length
        + (p.recent.filter (fun r => r.1 == o.pkt.dest && r.2.2.2 && decide (e.now < r.2.2.1 + 64000))).length < 2048)

/-- Issue one operation: its tag, its packet queued, its timer started. -/
def Device.issueOp (e : Env) (d : Device) (o : FabOp) : Device :=
  match d.findTag e (d.pem.ops.length + d.pem.recent.length + 1) d.pem.nextTag with
  | none => { d with pem := { d.pem with waiting := d.pem.waiting ++ [o] } }
  | some t =>
    let o := { o with pkt := { o.pkt with tag := t, src := nodeNumber e, attempt := 0 }, issued := e.now, last := e.now,
                      probed := false, probedAt := e.now }
    let keep := d.pem.recent.filter (fun r => decide (e.now < r.2.2.1 + 128000))
    let d := { d with pem := { d.pem with ops := d.pem.ops ++ [o], nextTag := (t + 1) % 65535, recent := keep } }
    d.sendTo e o.kind o.pkt

/-- READs of whole units that fetch n bytes at a node's offset, 128 units at most each. -/
def readOps (node off n kind : Nat) (user : FabUser) : List FabOp :=
  (upto (ceilDiv n 4096)).map (fun i =>
    let u := ceilDiv (if n - 4096 * i < 4096 then n - 4096 * i else 4096) 32
    ⟨⟨node, 0, 2, 0x01, 0, 0, 0, 0, node * 2 ^ 42 + off + 4096 * i, 0, u, 0, 0, false, 0, []⟩, false, 0, 0, false, 0, user, kind⟩)

/-- Stagings of tier-2 pages whose READs are not yet asked for (R188). -/
def Device.askStagings (d : Device) : Device :=
  let todo := d.frames.filter (fun f => !f.2.asked && (match f.2.owner with
    | .stage c l i false => (match (d.ctx c).page l i with
      | some p => p.tier == 2
      | none => false)
    | _ => false))
  todo.foldl (fun d f => match f.2.owner with
    | .stage c l i _ => (match (d.ctx c).page l i with
      | some p =>
        let n := ((d.info (d.ctx c).recipe).layerPool l).imageBytes
        let ops := readOps p.node (p.frame * 4096) n 3 (.stage c l i)
        { d with frames := tset d.frames f.1 { f.2 with asked := true },
                 pem := { d.pem with waiting := d.pem.waiting ++ ops } }
      | none => d)
    | _ => d) d

/-- Issue what may be issued, in order; an operation that must wait holds back later request-channel operations to
its home. Operations to dead nodes stay for their resolution. -/
def Device.pump (e : Env) (d : Device) : Device :=
  let d := d.askStagings
  let ws := d.pem.waiting
  (ws.foldl (fun (s : Device × List Nat) o =>
    let (d, held) := s
    let n := o.pkt.dest
    let stay := fun (d : Device) => { d with pem := { d.pem with waiting := d.pem.waiting ++ [o] } }
    if d.pem.dead.contains n || (o.pkt.chan = 0 && held.contains n) then (stay d, held)
    else if d.mayIssue e o then (d.issueOp e o, held)
    else (stay d, if o.pkt.chan = 0 then n :: held else held))
    ({ d with pem := { d.pem with waiting := [] } }, [])).1

/-- Ask for an operation. -/
def Device.ask (d : Device) (o : FabOp) : Device := { d with pem := { d.pem with waiting := d.pem.waiting ++ [o] } }

/-! ## The link layer (R349) -/

/-- Acknowledged packets leave the replay buffer; what a link word returns of credit is added. -/
def Port.acked (x : Port) (k : Pkt) : Port :=
  let hit := x.unacked.any (fun u => u.seq == k.ack)
  let rec after : List Pkt → List Pkt
    | [] => []
    | u :: r => if u.seq == k.ack then r else after r
  let left := if hit then after x.unacked else x.unacked
  { x with unacked := left, streak := if hit then 0 else x.streak,
           replay := x.replay.filter (fun u => left.any (fun v => v.seq == u.seq)),
           credits := (upto 4).map (fun c => x.credits.getD c 0 + bits k.credits (8 * c + 7) (8 * c)) }

/-- Replay from the first unacknowledged packet. -/
def Port.goBack (x : Port) : Port :=
  if x.unacked.isEmpty then x
  else { x with replay := x.unacked, replays := sat lim32 (x.replays + 1), sinceUp := sat lim32 (x.sinceUp + 1),
                streak := x.streak + 1 }

/-- LINK_DOWN (R348). -/
def Device.linkEvent (e : Env) (d : Device) (p : Nat) (up : Bool) (cause lanes : Nat) : Device :=
  d.raise e 0x0010 (p + b2n up * 2 ^ 3 + cause % 16 * 2 ^ 4 + lanes % 16 * 2 ^ 8) (sat (2 ^ 31 - 1) (d.port p).sinceUp)

/-- The route to a node changes from port p to port q: its packets not yet sent go with it (R351, R369). -/
def Device.switchRoute (e : Env) (d : Device) (n p q : Nat) : Device :=
  let on := d.pem.alternate.contains n
  let alt := if on then d.pem.alternate.filter (· != n) else d.pem.alternate ++ [n]
  let d := ({ d with pem := { d.pem with alternate := alt } }.settleOutlet e p).settleOutlet e q
  let x := d.port p
  let y := d.port q
  let stay := fun (l : List Pkt) => l.filter (fun k => k.dest != n)
  let go := fun (l : List Pkt) => l.filter (fun k => k.dest == n)
  let y' := (upto 8).foldl (fun (y : Port) c =>
    let more := go (tget [] x.queues c)
    if more.isEmpty then y else { y with queues := tset y.queues c (tget [] y.queues c ++ more) }) y
  let d := d.setPort q { y' with mgmt := y.mgmt ++ go x.mgmt }
  d.setPort p { x with mgmt := stay x.mgmt, queues := x.queues.map (fun (c : Nat × List Pkt) => (c.1, stay c.2)) }

/-- Routes in use by a port that goes down move to the other valid port at once. -/
def Device.moveRoutes (e : Env) (d : Device) (p : Nat) : Device :=
  (upto 64).foldl (fun d n => match d.routePort e n, (routePorts e n).find? (· != p) with
    | some r, some q => if r == p then d.switchRoute e n p q else d
    | _, _ => d) d

/-- An up port goes down: it retrains at once. -/
def Device.portDown (e : Env) (d : Device) (p cause lanes : Nat) : Device :=
  if !d.isUp p then d else
  let d := d.modPort p (fun x => { x with state := 1, lanes := lanes, trainAt := e.now, unacked := [], replay := [], streak := 0,
                                          nack := false })
  (d.linkEvent e p false cause lanes).moveRoutes e p

/-- A port comes up: sequence numbers and credits start afresh. -/
def Device.portUp (e : Env) (d : Device) (p lanes : Nat) : Device :=
  let d := d.modPort p (fun x => { x with state := 2, lanes := lanes, sinceUp := 0, txSeq := 0, rxSeq := 0, nack := false,
                                          unacked := [], replay := [], streak := 0, credits := [2048, 2048, 16384, 128],
                                          freed := [0, 0, 0, 0] })
  d.linkEvent e p true 0 lanes

/-- LINK_DOWN: a port comes up, or goes down. -/
def effLinkDown (p : Nat) (up : Bool) (cause lanes : Nat) (e : Env) (d : Device) : Device :=
  if !(d.serving e) || p ≥ 8 || !portEnabled e p then d
  else if up then (if d.isUp p then d else d.portUp e p lanes)
  else d.portDown e p cause lanes

/-- PORT_TRAIN_TIMEOUT: a port not up 500 ms after its training began is down; it tries again 1 s after its last try
began. -/
def effTrainTimeout (p : Nat) (e : Env) (d : Device) : Device :=
  let x := d.port p
  if d.serving e && x.state == 1 && decide (x.trainAt + 500000000 ≤ e.now) then d.modPort p (fun x => { x with state := 3 })
  else if d.serving e && x.state == 3 && decide (x.trainAt + 1000000000 ≤ e.now) then
    d.modPort p (fun x => { x with state := 1, trainAt := e.now })
  else d

/-- LINK_REPLAY: a negative acknowledgement came in, or a packet that failed its CRC was dropped. The sixteenth replay
of one packet takes the port down. -/
def effLinkReplay (p : Nat) (received : Bool) (e : Env) (d : Device) : Device :=
  if !(d.serving e) || !d.isUp p then d
  else if received then
    let d := d.modPort p Port.goBack
    if (d.port p).streak ≥ 16 then d.portDown e p 1 (d.port p).lanes else d
  else d.modPort p (fun x => { x with nack := true })

/-- A packet arrives: the link word, then what its type says. -/
def Device.arrive (e : Env) (d : Device) (p : Nat) (k : Pkt) (f : Device → Device) : Device :=
  if !(d.serving e) || !d.isUp p || (k.type != 0 && k.dest != nodeNumber e) then d
  else
    let d := d.modPort p (fun x =>
      let x := x.acked k
      let x := if k.neg then x.goBack else x
      { x with rxSeq := if k.type = 0 then x.rxSeq else k.seq,
               freed := (upto 4).map (fun c => x.freed.getD c 0 + (if c = k.chan && k.type != 0 then k.units + 1 else 0)) })
    f d

/-! ## PORT_PACKET_BOUNDARY (R370, R371, R373) -/

/-- Bytes of a packet on the wire with the port's overhead. -/
def wireLen (e : Env) (p : Nat) (k : Pkt) : Nat := 32 + 32 * k.units + portOverhead e p

/-- Has a port link credit for a packet, and room in its replay buffer (R355, R349). -/
def Port.mayCarry (x : Port) (k : Pkt) : Bool :=
  k.units + 1 ≤ x.credits.getD k.chan 0
    && (x.unacked.map (fun u => 32 + 32 * u.units)).sum + 32 + 32 * k.units ≤ 262144

/-- A packet's bytes: header and payload, the CRC over bytes 0 to 23 and the payload (Table 14.3). -/
def pktBytes (k : Pkt) : List Byte :=
  let head := toBytes 8 (k.dest + k.src * 2 ^ 6 + k.chan * 2 ^ 12 + k.type * 2 ^ 16 + k.attempt * 2 ^ 24 + k.tag * 2 ^ 32
      + k.units * 2 ^ 48 + k.status * 2 ^ 56)
    ++ toBytes 8 (k.addr + k.size * 2 ^ 48 + k.readUnits * 2 ^ 50)
    ++ toBytes 8 (k.seq + k.ack * 2 ^ 12 + b2n k.neg * 2 ^ 24 + k.credits * 2 ^ 32)
  head ++ toBytes 8 (crc32 (head ++ k.payload)) ++ k.payload

/-- Put a packet on the wire: its link word says what is acknowledged and freed. -/
def Device.transmit (e : Env) (d : Device) (p : Nat) (k : Pkt) : Device :=
  d.modPort p (fun x =>
    let give := x.freed.map (fun n => if n ≤ 255 then n else 255)
    let word := give.getD 0 0 + give.getD 1 0 * 2 ^ 8 + give.getD 2 0 * 2 ^ 16 + give.getD 3 0 * 2 ^ 24
    let k := { k with ack := x.rxSeq, neg := x.nack, credits := word }
    { x with sent := some k, wire := pktBytes k, nack := false,
             freed := (x.freed.zip give).map (fun y => y.1 - y.2), busyUntil := 100 * e.now + wireLen e p k })

/-- Send a new packet of a channel: it takes the next sequence number, credit, and a place in the replay buffer. -/
def Device.sendNew (e : Env) (d : Device) (p : Nat) (k : Pkt) : Device :=
  let k := { k with seq := (d.port p).txSeq }
  (d.modPort p (fun x => { x with
    txSeq := (x.txSeq + 1) % 4096, unacked := x.unacked ++ [k],
    credits := (upto 4).map (fun c => x.credits.getD c 0 - (if c = k.chan then k.units + 1 else 0)) })).transmit e p k

/-- A class's head packet, when the class is eligible but for the guard. -/
def Device.classHead (e : Env) (d : Device) (p c : Nat) : Option Pkt :=
  let x := d.port p
  match tget [] x.queues c with
  | [] => none
  | k :: _ => if (d.gate p).isOpen e.now c && creditOk e p c x.credit && x.mayCarry k then some k else none

/-- Does the guard of R373 let a packet of a class start now. -/
def Device.guardOk (e : Env) (d : Device) (p c : Nat) (k : Pkt) : Bool := (d.gate p).openFor c 64 e.now (wireLen e p k)

/-- Count head packets that only the guard holds, once each (R373). -/
def Device.noteHold (e : Env) (d : Device) (p : Nat) : Device :=
  let held := (upto 8).any (fun c => match d.classHead e p c with
    | some k => !d.guardOk e p c k
    | none => false)
  let g := d.gate p
  let d := if held && !(d.port p).guardHeld then d.setGate p { g with holds := sat lim32 (g.holds + 1) } else d
  d.modPort p (fun x => { x with guardHeld := held })

/-- PORT_PACKET_BOUNDARY. -/
def effPacketBoundary (p : Nat) (e : Env) (d : Device) : Device :=
  if !(d.serving e) || !d.isUp p || 100 * e.now < (d.port p).busyUntil then d else
  let d := ((d.pump e).settleOutlet e p).noteHold e p
  let x := d.port p
  match x.replay with
  | k :: r => (d.setPort p { x with replay := r }).transmit e p k
  | [] =>
    match (x.mgmt.filter x.mayCarry).head?, x.mgmt with
    | some k, m :: rest =>
      if k == m then (d.setPort p { x with mgmt := rest }).sendNew e p k else d
    | _, _ =>
      match ((upto 8).reverse.findSome? (fun c => match d.classHead e p c with
        | some k => if d.guardOk e p c k then some (c, k) else none
        | none => none)) with
      | some (c, k) =>
        let rest := (tget [] x.queues c).drop 1
        (d.setPort p { x with queues := tset x.queues c rest,
                              credit := chargeCredit e p c (wireLen e p k) rest.isEmpty x.credit }).sendNew e p k
      | none =>
        d.transmit e p ⟨0, nodeNumber e, 0, 0, 0, 0, 0, 0, 0, 0, 0, x.txSeq, 0, false, 0, []⟩

/-! ## What a home serves (R350, R353, R354, R357, R361) -/

/-- Is a range in the export window. -/
def exported (e : Env) (off n : Nat) : Bool :=
  exportBase e ≤ off && off + n ≤ exportBase e + exportSize e && off + n ≤ Config.lpBytes

/-- The offset of a global address. -/
def pktOff (k : Pkt) : Nat := k.addr % 2 ^ 42

/-- Is a unit of a range uncorrectable. -/
def Device.anyPoison (d : Device) (off n : Nat) : Bool := d.lpBad.any (fun u => off < 32 * u + 32 && 32 * u < off + n)

/-- All-ones payload of n units. -/
def onesPayload (n : Nat) : List Byte := List.replicate (32 * n) 0xFF

/-- The type of a response. -/
def respType (t : Nat) : Nat := if 0x10 ≤ t && t ≤ 0x15 then 0x90 else if t = 1 then 0x81 else if t = 2 then 0x82 else 0xA0

/-- Answer a packet. A management command's answer goes by the management channel. -/
def Device.respond (e : Env) (d : Device) (p : Nat) (k : Pkt) (status : Nat) (payload : List Byte) : Device :=
  let r : Pkt := ⟨k.src, nodeNumber e, if k.chan = 3 then 3 else 1, respType k.type, k.attempt, k.tag, payload.length / 32,
    status, k.addr, 0, 0, 0, 0, false, 0, payload⟩
  let d := { d with pem := { d.pem with lastResponse := some r } }
  let kind := if k.chan = 2 && k.type = 1 then 1 else 0
  match d.routePort e k.src with
  | some q => d.enqueue e q kind r
  | none => d.enqueue e p kind r

/-- The live entry of a once-operation (R360). -/
def Device.replayed (e : Env) (d : Device) (src tag : Nat) : Option ReplayEntry :=
  d.pem.store.find? (fun x => x.src == src && x.tag == tag && decide (e.now < x.at_ + 64000))

/-- Enter an applied once-operation: the source's oldest entry makes room. -/
def Device.remember (e : Env) (d : Device) (k : Pkt) (status result : Nat) : Device :=
  let mine := d.pem.store.filter (fun x => x.src == k.src)
  let full := mine.length ≥ 4096
  let store := match mine with
    | x :: _ => if full then d.pem.store.erase x else d.pem.store
    | [] => d.pem.store
  let bitsMap := if d.pem.applied.contains (k.src, k.tag) then d.pem.applied else (k.src, k.tag) :: d.pem.applied
  { d with pem := { d.pem with store := store ++ [⟨k.src, k.tag, k.attempt, result, status, e.now⟩], applied := bitsMap } }

/-- The payload of an answer to a once-operation: OLD and ACK carry the result in one unit. -/
def onceAnswer (k : Pkt) (status result : Nat) : List Byte :=
  if k.type = 2 then [] else if status = 0 then toBytes 32 result else onesPayload 1

/-- A once-operation by Table 14.6: `run` answers status, result and device. -/
def Device.once (e : Env) (d : Device) (p : Nat) (k : Pkt) (run : Device → Nat × Nat × Device) : Device :=
  match d.replayed e k.src k.tag with
  | some x =>
    ({ d with pem := { d.pem with served := sat lim32 (d.pem.served + 1) } }).respond e p k x.status (onceAnswer k x.status x.result)
  | none =>
    if d.pem.applied.contains (k.src, k.tag) && k.attempt != 0 then
      ({ d with pem := { d.pem with expired := sat lim32 (d.pem.expired + 1) } }).respond e p k 2 (onceAnswer k 2 0)
    else
      let (status, result, d) := run d
      let d := if status = 0 then d.remember e k status result else d
      d.respond e p k status (onceAnswer k status result)

/-- READ. -/
def Device.serveRead (e : Env) (d : Device) (p : Nat) (k : Pkt) : Device :=
  let n := 32 * k.readUnits
  let most := if k.chan = 2 then 128 else 8
  if (pktOff k) % 32 != 0 || !exported e (pktOff k) n || k.readUnits = 0 || k.readUnits > most then
    d.respond e p k 3 (onesPayload (sat 128 k.readUnits))
  else if d.anyPoison (pktOff k) n then d.respond e p k 1 (onesPayload k.readUnits)
  else d.respond e p k 0 (d.lpSeen e (pktOff k) n)

/-- The effect of a WRITE: whole units, which are good data afterwards. -/
def Device.applyWrite (e : Env) (d : Device) (k : Pkt) : Nat × Nat × Device :=
  let n := 32 * k.units
  let most := if k.chan = 2 then 128 else 8
  if (pktOff k) % 32 != 0 || !exported e (pktOff k) n || k.units = 0 || k.units > most then (3, 0, d)
  else
    let bad := d.lpBad.filter (fun u => 32 * u + 32 ≤ (pktOff k) || (pktOff k) + n ≤ 32 * u)
    (0, 0, { d with lp := mwrites 0 d.lp (pktOff k) (k.payload.take n), lpBad := bad })

/-- WRITE: exactly once on the request channel. -/
def Device.serveWrite (e : Env) (d : Device) (p : Nat) (k : Pkt) : Device :=
  if k.chan = 2 then
    let (st, _, d) := d.applyWrite e k
    d.respond e p k st []
  else d.once e p k (fun d => d.applyWrite e k)

/-- Operand bytes of an atomic. -/
def atomBytes (size : Nat) : Nat := 4 * 2 ^ size

/-- A two's-complement value of n bytes. -/
def signedOf (n v : Nat) : Int := if v < 2 ^ (8 * n - 1) then v else (v : Int) - 2 ^ (8 * n)

/-- The new value of an atomic on n bytes: ADD, SMIN, SMAX, UMIN, UMAX (R353). -/
def atomNew (type n old x : Nat) : Nat :=
  match type with
  | 0x10 => (old + x) % 2 ^ (8 * n)
  | 0x11 => if signedOf n x < signedOf n old then x else old
  | 0x12 => if signedOf n old < signedOf n x then x else old
  | 0x13 => if x < old then x else old
  | 0x14 => if old < x then x else old
  | _ => old

/-- The effect of an atomic; the result is the old value. -/
def Device.applyAtomic (e : Env) (d : Device) (k : Pkt) : Nat × Nat × Device :=
  let n := atomBytes k.size
  let ok := if k.type = 0x15 then k.size = 1 || k.size = 2 else k.size ≤ 1
  if !ok || (pktOff k) % n != 0 || !exported e (pktOff k) n then (3, 0, d)
  else if d.anyPoison (pktOff k) n then (1, 0, d)
  else
    let old := d.lpNat (pktOff k) n
    let x := ofBytes (k.payload.take n)
    let new := if k.type = 0x15 then (if old = x then ofBytes ((k.payload.drop n).take n) else old) else atomNew k.type n old x
    (0, old, d.lpStore (pktOff k) n new)

/-- An atomic, exactly once. -/
def Device.serveAtomic (e : Env) (d : Device) (p : Nat) (k : Pkt) : Device := d.once e p k (fun d => d.applyAtomic e k)

/-- The packet as one of a type on a channel: what the command's name says. -/
def pktAs (k : Pkt) (type : Nat) : Pkt := { k with type := type, chan := if type = 1 || type = 2 then k.chan else 0 }

/-- REPLAY_ENTRY_EXPIRY: 64 µs after its operation was applied an entry is gone; the applied bit stays. -/
def effReplayExpiry (src tag : Nat) (e : Env) (d : Device) : Device :=
  { d with pem := { d.pem with store := d.pem.store.filter (fun x =>
      !(x.src == src && x.tag == tag && decide (x.at_ + 64000 ≤ e.now))) } }

end Sys2Proof.Machine
end

