-- ==== Sys2Proof/Machine/Moves.lean ====
section
/-! DEFINITION. Moves and streamed tensors (09: R223–R240): the move table, starting, committing, releasing and aborting
moves; need points, deadlines, fallbacks and their log. -/

namespace Sys2Proof.Machine

/-! ## The move table -/

/-- The record that owns an object's home entry. -/
def Device.moveOf (d : Device) (o : MoveObj) : Option (Nat × Move) :=
  d.peel.moves.find? (fun m => !m.2.committed && m.2.obj == o)

/-- Is a requester live (R228). -/
def Device.reqLive (d : Device) (w : Requester) : Bool :=
  match w with
  | .request i inc => (d.req i).live && (d.req i).incarnation == inc
  | .step n => d.kn.decoding && d.kn.step == n
  | .item i => d.oven.items.any (fun it => match it with
      | .chunk r _ _ => r == i
      | .rows s _ _ => 1048576 + s == i)
  | .handoff s => d.kn.handoffs.any (fun h => h.session == s && h.seq != 0)

/-- The lowest free record. -/
def Device.freeMove (d : Device) : Option Nat :=
  let n := (upto (d.peel.moves.length + 1)).find? (fun i => (tfind d.peel.moves i).isNone)
  match n with
  | some i => if i < 32768 then some i else none
  | none => none

/-- Write a record. -/
def Device.addMove (d : Device) (m : Nat) (x : Move) : Device :=
  let p := d.peel
  let n := p.moves.length + 1
  { d with peel := { p with moves := tset p.moves m { x with order := p.order }, order := p.order + 1,
                            peak := if p.peak < n then n else p.peak } }

def Device.delMove (d : Device) (m : Nat) : Device := { d with peel := { d.peel with moves := tdel d.peel.moves m } }

/-- Mark a page as owned by a move, or at rest. -/
def Device.setMoving (d : Device) (c l i : Nat) (b : Bool) : Device :=
  match (d.ctx c).page l i with
  | some p => d.modCtx c (fun x => x.putPage { p with moving := b })
  | none => d

/-- What became of a demand for a move: started, or joined; waiting, with what had to be done first; refused. -/
inductive Ask where
  | started (d : Device)
  | wait (d : Device)
  | refused

/-- A record as a move begins: nothing committed, no remote source, no bench. -/
def newMove (kind : MoveKind) (obj : MoveObj) (who : Requester) (dest destTier source sourceTier : Nat) : Move :=
  ⟨kind, obj, [who], dest, destTier, source, sourceTier, false, 0, 0, 0, false, none, []⟩

/-! ## Benches of the bench set (R225, R230, R423) -/

/-- The bench set's bank pairs past the logits slots, 1 MiB each, in run order; by their first banks. DESIGN CHOICE (log 104):
each is one bench. -/
def benches (e : Env) : List Nat :=
  (((upto 16).map (fun i => let r := benchRun e i; (upto r.count).map (fun k => 2048 * r.slice + 2 * (r.first + k)))).flatten).drop
    (ceilDiv (logitsSlots e) 3)

/-- The first bench that no move uses, in banks that still grant (Table 05.8). -/
def Device.freeBench (e : Env) (d : Device) : Option Nat :=
  (benches e).find? (fun b => [b, b + 1].all (fun x => !d.health.out.contains x && !d.health.soft.contains x)
    && !d.peel.moves.any (fun m => !m.2.committed && m.2.bench == some b))

/-! ## Stream slots (R239) -/

/-- The stream table entry of a tensor. -/
def Device.streamEntry (d : Device) (r i : Nat) : StreamEntry := match d.recipe r with
  | some s => s.streams.getD i ⟨0, 0, 0, 0⟩
  | none => ⟨0, 0, 0, 0⟩

def Device.residency (d : Device) (r i : Nat) : Residency := tget {} d.peel.resident (streamKey r i)
def Device.setResidency (d : Device) (r i : Nat) (x : Residency) : Device :=
  { d with peel := { d.peel with resident := tset d.peel.resident (streamKey r i) x } }

/-- The slot set of a tensor. -/
def Device.slotSet (d : Device) (r i : Nat) : Nat := bits (d.streamEntry r i).q0 11 4

/-- Slots of a set that are taken: by committed tensors, by promotions in flight, by evictions whose source is not yet
released. -/
def Device.takenSlots (d : Device) (r set : Nat) : List Nat :=
  (d.peel.resident.filterMap (fun x => if x.1 / 65536 = r && d.slotSet r (x.1 % 65536) = set then x.2.slot else none))
    ++ (d.peel.moves.filterMap (fun m => match m.2.obj with
      | .tensor r' i => if r' != r || d.slotSet r i != set then none
        else if m.2.kind == .promote then (if m.2.committed then none else some m.2.dest)
        else if m.2.committed then some m.2.source else none
      | _ => none))

/-- The lowest free slot of a set. -/
def Device.freeStream (d : Device) (r set : Nat) : Option Nat :=
  let taken := d.takenSlots r set
  (upto ((d.info r).slotSets.getD set ⟨0, 0, 0, 0⟩).count).find? (fun s => !taken.contains s)

/-- A promotion finds its set full: unless an eviction is on its way for it, the set's unpinned committed tensor whose last
use is oldest begins its eviction, by a record of its own (R239). -/
def Device.makeSlot (d : Device) (r set : Nat) (who : Requester) : Device :=
  let ours := fun (m : Move) => m.kind == .evict && m.who.contains who && (match m.obj with
    | .tensor r' i => r' == r && d.slotSet r i == set
    | _ => false)
  let lt := fun (a b : Nat × Residency) => decide (a.2.lastUse < b.2.lastUse) ||
    (a.2.lastUse == b.2.lastUse && decide (a.2.slot.getD 0 < b.2.slot.getD 0))
  let victim := leastBy lt (d.peel.resident.filter (fun x => x.1 / 65536 == r && d.slotSet r (x.1 % 65536) == set
    && x.2.slot.isSome && x.2.pins.isEmpty && (d.moveOf (.tensor r (x.1 % 65536))).isNone))
  match d.peel.moves.any (fun m => ours m.2), victim, d.freeMove with
  | false, some (k, x), some m => d.addMove m (newMove .evict (.tensor r (k % 65536)) who 0 1 (x.slot.getD 0) 0)
  | _, _, _ => d

/-! ## Starting (R225, R228, R231) -/

/-- Start a promotion or eviction of a tensor. -/
def Device.startTensor (d : Device) (kind : MoveKind) (r i : Nat) (who : Requester) (m : Nat) : Ask :=
  let x := d.residency r i
  match d.recipe r with
  | none => .refused
  | some s =>
    if i ≥ s.streams.length then .refused else
    match kind with
    | .promote =>
      if x.slot.isSome then .started (d.wantTensor r i who)
      else if !d.reqLive who then .refused
      else (match d.freeStream r (d.slotSet r i) with
        | none => .wait (d.makeSlot r (d.slotSet r i) who)
        | some slot => .started (d.addMove m (newMove .promote (.tensor r i) who slot 0 0 1)))
    | .evict =>
      if x.slot.isNone || !x.pins.isEmpty then .refused
      else .started (d.addMove m (newMove .evict (.tensor r i) who 0 1 (x.slot.getD 0) 0))
    | .transfer => .refused

/-- Start a move of an own KV page. A promotion serves R231 only: a staged page of a seated context, within the promote
limit, while its pool holds more than twice its low-water mark. An eviction serves phase 1 of an outgoing handoff, a
transfer step 8 of an incoming one. -/
def Device.startPage (e : Env) (d : Device) (kind : MoveKind) (c l i : Nat) (who : Requester) (m : Nat) : Ask :=
  let x := d.ctx c
  let info := d.info x.recipe
  let pi := (info.layer l).pool
  let pl := info.pool pi
  match x.page l i with
  | none => .refused
  | some p =>
    if p.shared then .refused else
    match kind with
    | .promote =>
      let own := (d.req x.request).state == .seated && who == .request x.request (d.req x.request).incarnation
      let free := d.freeSlots x.recipe pi
      let ready := match d.staging c l i with
        | some (_, ok) => ok
        | none => false
      if p.tier = 0 || !own || !ready || d.peel.promoted ≥ promoteLimit e || free.length ≤ 2 * pl.lowWater then .refused
      else match free.head? with
        | none => .wait d
        | some s =>
          let f := d.frame x.recipe pi s
          let d := (d.setFrame x.recipe pi s { f with owner := .ctx c }).setMoving c l i true
          let d := { d with peel := { d.peel with promoted := d.peel.promoted + 1 } }
          let d := d.addMove m { newMove .promote (.page c l i) who s 0 p.frame p.tier with node := p.node, tag := p.tag }
          .started (if p.tier = 2 then
            (readOps p.node (p.frame * 4096) pl.imageBytes 3 (.move m)).foldl (fun d o => d.ask o) d else d)
    | .evict =>
      let due := match who with
        | .handoff s => s == x.session && d.kn.handoffs.any (fun h => h.session == s && h.outgoing && h.step == 6)
        | _ => false
      if p.tier != 0 || !due then .refused
      else match d.tier1Alloc e pl.imageBytes with
        | none => .wait d
        | some (a, d) =>
          .started ((d.setMoving c l i true).addMove m (newMove .evict (.page c l i) who (a / 4096) 1 p.frame 0))
    | .transfer =>
      let due := match who with
        | .handoff s => s == x.session && d.kn.handoffs.any (fun h => h.session == s && !h.outgoing && h.step == 8
            && h.mode == 0)
        | _ => false
      if p.tier != 2 || !due then .refused
      else match d.tier1Alloc e pl.imageBytes with
        | none => .wait d
        | some (a, d) =>
          let d := (d.setMoving c l i true).addMove m
            { newMove .transfer (.page c l i) who (a / 4096) 1 p.frame 2 with node := p.node, tag := p.tag }
          .started ((readOps p.node (p.frame * 4096) pl.imageBytes 4 (.move m)).foldl (fun d o => d.ask o) d)

/-- The WRITEs of a log's transfer: extents on the bulk move channel, header and record on the request channel. No
field of the protocol carries the destination's addresses, so they are free values (R366). -/
def Device.logOps (e : Env) (d : Device) (c m node : Nat) : Device :=
  let x := d.ctx c
  let put := fun (d : Device) (chan : Nat) (bs : List Byte) (o : Nat) =>
    let (n, d) := d.draw
    let a := Config.remoteAddress n % 2 ^ 42 / 32 * 32 + o
    let k : Pkt := ⟨node, 0, chan, 0x02, 0, 0, bs.length / 32, 0, node * 2 ^ 42 + a % 2 ^ 42, 0, 0, 0, 0, false, 0, bs⟩
    d.ask ⟨k, chan == 0, 0, 0, false, 0, .move m, 4⟩
  let pad := fun (bs : List Byte) => bs ++ List.replicate (roundUp bs.length 32 - bs.length) 0
  let d := (upto (extentCount x.logLength)).foldl (fun d k =>
    let used := (if x.logLength < extentFirst (k + 1) then x.logLength else extentFirst (k + 1)) - extentFirst k
    (upto (ceilDiv (4 * used) 4096)).foldl (fun d j =>
      let n := if 4 * used - 4096 * j < 4096 then 4 * used - 4096 * j else 4096
      put d 2 (pad (mreads 0 d.lp (d.extentAddr x.logBase k + 4096 * j) n)) 0) d) d
  let d := put d 0 (mreads 0 d.lp x.logBase 128) 0
  put d 0 (x.record (d.dirRead e x.session)).bytes 0

/-- Start the transfer of a session's log, through a bench: step 4 of an outgoing handoff. Its context, if it was taken
for another session, is read from the record again (R295). -/
def Device.startLog (e : Env) (d : Device) (kind : MoveKind) (session : Nat) (m : Nat) : Ask :=
  match d.kn.handoffs.find? (fun h => h.session == session && h.outgoing && (h.step == 3 || h.step == 4)) with
  | none => .refused
  | some h =>
    if kind != .transfer then .refused
    else match d.freeBench e, d.residentFor e session with
    | some b, some (c, d) =>
      let d := d.modCtx c (fun x => { x with dir := { x.dir with
        outgoing := true, phase := 0, peer := h.peer, epoch := h.epoch, opened := h.opened } })
      let hs := d.kn.handoffs.map (fun (x : Handoff) => if x.session == session && x.outgoing then { x with step := 4 } else x)
      let d := { d with kn := { d.kn with handoffs := hs } }
      let base := (d.ctx c).logBase
      let d := d.addMove m { newMove .transfer (.log session) (.handoff session) 0 2 (base / 64) 1 with bench := some b }
      .started (d.logOps e c m h.peer)
    | _, _ => .wait d

/-- A demand meets the record that owns its object (Table 09.5). A handoff whose eviction meets a live promotion
waits for it. -/
def Device.conflict (d : Device) (m : Nat) (x : Move) (kind : MoveKind) (who : Requester) : Ask :=
  let join : Move := { x with who := if x.who.contains who then x.who else x.who ++ [who] }
  let joined := { d with peel := { d.peel with moves := tset d.peel.moves m join } }
  match x.kind, kind with
  | .promote, .promote => .started joined
  | .promote, _ =>
    if x.who.any d.reqLive then (match who with
      | .handoff _ => .wait d
      | _ => .refused)
    else .wait d
  | .evict, .promote => .wait d
  | .evict, _ => .started joined
  | .transfer, _ => .wait d

/-- Put a page or tensor back to rest after a cancelled or aborted move, its destination zeroed and freed (R229). -/
def Device.undoMove (d : Device) (m : Nat) (x : Move) : Device :=
  let d := d.loseOps (fun o => o.user == .move m)
  let d := match x.obj with
    | .page c l i =>
      let d := if x.destTier = 0 then d.releaseFrame (d.ctx c).recipe ((d.info (d.ctx c).recipe).layer l).pool x.dest
        else if x.destTier = 1 then d.tier1Free (x.dest * 4096) else d
      d.setMoving c l i false
    | _ => d
  d.delMove m

/-- Count a cancelled move. -/
def Device.noteCancel (d : Device) : Device :=
  { d with peel := { d.peel with cancelled := sat lim32 (d.peel.cancelled + 1) } }

/-- One demand for a move. A promotion without a live requester is cancelled for an eviction, which starts from the source
home: where that is no tier-0 home, nothing is left to evict. -/
def Device.askMove (e : Env) (d : Device) (kind : MoveKind) (obj : MoveObj) (who : Requester) : Ask :=
  let fresh := fun (d : Device) => match d.freeMove with
    | none => Ask.wait d
    | some m => match obj with
      | .page c l i => d.startPage e kind c l i who m
      | .tensor r i => d.startTensor kind r i who m
      | .log s => d.startLog e kind s m
  match d.moveOf obj with
  | none => fresh d
  | some (m, x) =>
    if x.kind == .promote && kind != .promote && !x.who.any d.reqLive then
      let d := (d.undoMove m x).noteCancel
      match fresh d with
      | .refused => .started d
      | a => a
    else d.conflict m x kind who

/-- Is a demand for the promotion of a tensor. -/
def tensorDemand (w : MoveKind × MoveObj × Requester × Nat) : Bool := match w with
  | (.promote, .tensor _ _, _, _) => true
  | _ => false

/-- Was demand a's need point reached no later than b's: one not reached yet comes last. -/
def Device.needBefore (d : Device) (a b : MoveKind × MoveObj × Requester × Nat) : Bool :=
  let at_ := fun (w : MoveKind × MoveObj × Requester × Nat) => match w.2.1 with
    | .tensor r i => (d.residency r i).needAt
    | _ => none
  match at_ a, at_ b with
  | some x, some y => decide (x ≤ y)
  | some _, none => true
  | none, some _ => false
  | none, none => true

/-- The waiting demands in the order served: as asked (R224), tensors in the order of their need points among
themselves (R239). -/
def Device.waitOrder (d : Device) : List (MoveKind × MoveObj × Requester × Nat) :=
  let rec put : List (MoveKind × MoveObj × Requester × Nat) → List (MoveKind × MoveObj × Requester × Nat) →
      List (MoveKind × MoveObj × Requester × Nat)
    | [], _ => []
    | w :: ws, ts => match tensorDemand w, ts with
      | true, t :: ts => t :: put ws ts
      | _, _ => w :: put ws ts
  put d.peel.waiting (sortBy d.needBefore (d.peel.waiting.filter tensorDemand))

/-- Try every waiting demand in its order (R224, R239). -/
def Device.retryMoves (e : Env) (d : Device) : Device :=
  let ws := d.waitOrder
  ws.foldl (fun d w => match d.askMove e w.1 w.2.1 w.2.2.1 with
    | .started d => d
    | .wait d => { d with peel := { d.peel with waiting := d.peel.waiting ++ [w] } }
    | .refused => d) { d with peel := { d.peel with waiting := [] } }

/-- MOVE_START. -/
def effMoveStart (kind : MoveKind) (obj : MoveObj) (who : Requester) (dest : Nat) (e : Env) (d : Device) : Device :=
  if !d.serving e then d else
  let w := (kind, obj, who, dest)
  let ws := d.peel.waiting
  { d with peel := { d.peel with waiting := if ws.contains w then ws else ws ++ [w] } }.retryMoves e

/-! ## Decisions (R234–R240) -/

/-- Add one to a fallback counter: SHADOW, SKIP, NEXT_EXPERT, STALL. -/
def bumpFallback (l : List Nat) (k : Nat) : List Nat :=
  (upto 4).map (fun i => if i = k then sat lim16 (l.getD i 0 + 1) else l.getD i 0)

/-- The Oven chunk in progress: its request and first position. -/
def Device.chunkNow (d : Device) : Option (Nat × Nat) := match d.oven.items with
  | .chunk i start _ :: _ => some (i, start)
  | _ => none

/-- The step number of a decision: of an Oven item, the number at which it was posted. -/
def Device.decisionStep (d : Device) (oven : Bool) : Nat :=
  if !oven then d.kn.step
  else match d.oven.items with
    | .chunk i _ _ :: _ => (d.req i).postedAt
    | .rows s _ _ :: _ => (match d.oven.embeds.find? (fun x => x.seq == s) with
      | some x => x.postedAt.headD d.kn.step
      | none => d.kn.step)
    | [] => d.kn.step

/-- A fallback log entry (Table 09.8). -/
def Device.fallbackEntry (d : Device) (r i kind : Nat) (oven late : Bool) (lanes wait : Nat) : List Byte :=
  let chunk := if oven then d.chunkNow else none
  let who := match chunk with
    | some (q, _) => q * 2 ^ 40 + 2 ^ 60
    | none => 0
  toBytes 8 (d.decisionStep oven)
    ++ toBytes 8 (i + r * 2 ^ 16 + kind * 2 ^ 20 + b2n oven * 2 ^ 22 + b2n late * 2 ^ 23 + sat lim16 lanes * 2 ^ 24 + who)
    ++ toBytes 8 ((chunk.getD (0, 0)).2) ++ toBytes 8 (d.peel.decisions / 65536 % 2 ^ 32 + sat lim32 wait * 2 ^ 32)

/-- A decision other than an in-time use: counted per lane and per kind, logged, kept for FALLBACK_USED. -/
def Device.decide_ (e : Env) (d : Device) (r i kind : Nat) (late : Bool) : Device :=
  let x := d.residency r i
  let slot := if kind = 0 then 3 else kind - 1
  let wait := if kind = 0 then e.now - x.needAt.getD e.now else bits (d.streamEntry r i).q3 31 0
  let d := x.lanes.eraseDups.foldl (fun (d : Device) q =>
    let y := d.req q
    if y.live && y.ctxValid then d.modCtx y.context (fun c => { c with fallbacks := bumpFallback c.fallbacks slot }) else d) d
  let d := if fallbackOn e then
      d.lpWrites (winBase e + fallbackLog e + 32 * (d.peel.decisions % 65536))
        (d.fallbackEntry r i kind x.oven late x.lanes.length wait)
    else d
  let p := d.peel
  let p := { p with decisions := p.decisions + 1,
                    firstDecision := match p.firstDecision with
                      | some y => some y
                      | none => some (i, r, kind, x.oven),
                    shadow := sat lim16 (p.shadow + b2n (kind == 1)), skip := sat lim16 (p.skip + b2n (kind == 2)),
                    nextExpert := sat lim16 (p.nextExpert + b2n (kind == 3)),
                    lateStall := sat 32767 (p.lateStall + b2n (kind == 0)) }
  ({ d with peel := p }).setResidency r i { x with decided := true, late := late, fell := kind }

/-- Who a decision serves: the present step, or the Oven item in progress. -/
def Device.whoNow (d : Device) (oven : Bool) : Requester :=
  if !oven then .step d.kn.step
  else match d.oven.items with
    | .chunk i _ _ :: _ => .item i
    | .rows s _ _ :: _ => .item (1048576 + s)
    | [] => .item 0

/-- STREAM_NEED_POINT: a committed tensor is used, else the device waits (R234). One decision per step or item. -/
def effNeedPoint (r i : Nat) (oven : Bool) (lanes : List Nat) (e : Env) (d : Device) : Device :=
  let x := d.residency r i
  let busy := if oven then !d.oven.items.isEmpty else d.kn.decoding
  if !(d.serving e) || !busy || x.decided || x.needAt.isSome || i ≥ (match d.recipe r with
      | some s => s.streams.length
      | none => 0) then d
  else
    let d := d.wantTensor r i (d.whoNow oven)
    let x := d.residency r i
    let here := x.slot.isSome && (d.moveOf (.tensor r i)).isNone
    d.setResidency r i { x with needAt := some e.now, lanes := lanes, oven := oven, late := false, fell := 0,
                                decided := here, lastUse := if here then e.now else x.lastUse }

/-- STREAM_DEADLINE: the deadline passes before the commit: the Recipe's fallback applies, STALL goes on waiting, and
EMBED items treat every entry as STALL (R234–R236). -/
def effStreamDeadline (r i : Nat) (noExpert : Bool) (e : Env) (d : Device) : Device :=
  let x := d.residency r i
  let en := d.streamEntry r i
  match x.needAt with
  | none => d
  | some t0 =>
    if !d.serving e || x.decided || x.slot.isSome || e.now < t0 + bits en.q3 31 0 then d
    else
      let embed := x.oven && d.chunkNow.isNone
      let k := bits en.q0 1 0
      if k = 0 || embed then d.setResidency r i { x with late := true }
      else d.decide_ e r i (if k = 3 && noExpert then 2 else k) false

/-! ## Commit, source release, abort -/

/-- A tensor's bytes go from its origin into a stream slot: unit by unit of the set's group, in each unit beat by beat, banks
in turn. DESIGN CHOICE (log 105): a unit's share of the slot is consecutive in the origin. -/
def Device.fillStream (d : Device) (r i slot : Nat) : Device :=
  match d.recipe r with
  | none => d
  | some s =>
    let en := d.streamEntry r i
    let set := s.info.slotSets.getD (bits en.q0 11 4) ⟨0, 0, 0, 0⟩
    let rows := set.rows s.info
    let g := s.info.groups.getD set.group []
    let row0 := set.base + slot * rows
    let place := fun (o : Nat) => match pairAt g (o / (256 * rows)) with
      | some (sl, p) => some (loafAddr sl (2 * p + o / 128 % 2) (128 * (row0 + o % (256 * rows) / 256) + o % 128))
      | none => none
    let clear := fun (m : Memory) (u : Nat) => match pairAt g u with
      | some (sl, p) => [2 * p, 2 * p + 1].foldl (fun m b =>
          mclear m (loafAddr sl b (128 * row0)) (loafAddr sl b (128 * row0) + 128 * rows)) m
      | none => m
    let a := s.area + bits en.q2 31 0 * 4096
    let n := bits en.q2 63 32 * 4096
    { d with loaf := (d.lp.filter (fun c => a ≤ c.1 && c.1 < a + n)).foldl (fun m c => match place (c.1 - a) with
        | some k => mwrite 0 m k c.2
        | none => m) ((upto (runPairs g)).foldl clear d.loaf) }

/-- A promoted tensor commits: its bytes lie in its slot; pinned by its live requesters; a step or item that waits for it
goes on, and a STALL past its deadline is counted. -/
def Device.commitTensor (e : Env) (d : Device) (r i : Nat) (x : Move) (bad : Bool) : Device :=
  let d := d.fillStream r i x.dest
  let y := d.residency r i
  let waits := y.needAt.isSome && !y.decided
  let en := d.streamEntry r i
  let stall := bits en.q0 1 0 = 0 || (y.oven && d.chunkNow.isNone)
  let late := y.late || (stall && e.now > y.needAt.getD e.now + bits en.q3 31 0)
  let d := if waits && late then d.decide_ e r i 0 true else d
  let y := d.residency r i
  d.setResidency r i { y with slot := some x.dest, pins := x.who.filter d.reqLive, lastUse := e.now, bad := bad,
                              decided := y.decided || waits }

/-- A page commits: its bytes are at the destination, its entry names it (R225, step 5). -/
def Device.commitPage (d : Device) (c l i : Nat) (x : Move) (bad : Bool) : Device :=
  let y := d.ctx c
  let info := d.info y.recipe
  let pi := (info.layer l).pool
  let pl := info.pool pi
  match y.page l i with
  | none => d
  | some p =>
    let d := d.dropStagings (fun c' l' i' => c' == c && l' == l && i' == i)
    if x.destTier = 0 then
      let f := d.frame y.recipe pi x.dest
      let tag := nextTag f.tag
      let m := if x.sourceTier = 1 then slotWrite pl x.dest d.loaf 0 (mreads 0 d.lp (x.source * 4096) pl.slotBytes) else d.loaf
      let m := slotWrite pl x.dest m (pl.frame + 12) (toBytes 2 (tag % 4096 + p.format * 4096))
      let d := ({ d with loaf := m }).setFrame y.recipe pi x.dest { f with owner := .ctx c, tag := tag }
      d.modCtx c (fun z => z.putPage { p with tier := 0, frame := x.dest, node := 0, tag := tag, moving := false, bad := bad })
    else
      let d := if x.sourceTier = 0 then d.lpWrites (x.dest * 4096) (d.slotRead pl x.source 0 pl.slotBytes) else d
      let d := if bad then { d with lpBad := x.dest * 128 :: d.lpBad } else d
      d.modCtx c (fun z => z.putPage { p with tier := x.destTier, frame := x.dest, node := 0, moving := false, bad := bad })

/-- Are all of a move's fabric operations resolved. -/
def Device.moveQuiet (d : Device) (m : Nat) : Bool :=
  !(d.pem.ops.any (fun o => o.user == .move m)) && !(d.pem.waiting.any (fun o => o.user == .move m))

/-- What reads in progress may be on a source that is committed away now (R226). -/
def Device.readersNow (d : Device) : List Reader :=
  (if d.kn.decoding then [.decode d.kn.step] else []) ++ (if d.oven.items.isEmpty then [] else [.item d.oven.ended])
    ++ (d.frames.filter (fun f => match f.2.owner with
      | .stage _ _ _ ok => !ok
      | _ => false)).map (fun f => .staging f.1)

/-- Is such a read still in progress. -/
def Device.reading (d : Device) : Reader → Bool
  | .decode n => d.kn.decoding && d.kn.step == n
  | .item k => !d.oven.items.isEmpty && d.oven.ended == k
  | .staging f => (match (tget {} d.frames f).owner with
    | .stage _ _ _ ok => !ok
    | _ => false)

/-- MOVE_COMMIT, with the errors found in the words that were copied (R126). The commit of a log's transfer is taken up by
the handoff. While a job is being saved a move waits (R212). -/
def effMoveCommit (m : Nat) (poisoned : Bool) (ecc : List EccReport) (e : Env) (d : Device) : Device :=
  if !d.serving e || d.saving then d else
  let d := d.eccReports e ecc
  match tfind d.peel.moves m with
  | none => d
  | some x =>
    if x.committed || !d.moveQuiet m then d
    else
      let now := d.readersNow
      let d := match x.obj with
        | .page c l i => d.commitPage c l i x (poisoned || x.bad)
        | .tensor r i => if x.kind == MoveKind.evict then d.setResidency r i { d.residency r i with slot := none, bad := false }
            else d.commitTensor e r i x (poisoned || x.bad)
        | .log _ => d
      let isLog := match x.obj with
        | .log _ => true
        | _ => false
      let y := { x with committed := true, tag := if isLog then b2n (poisoned || x.bad) else x.tag, readers := now }
      { d with peel := { d.peel with moves := tset d.peel.moves m y } }

/-- MOVE_SOURCE_RELEASE: once every reader that began on it has ended, the source is released and zeroed, the record
freed; of a tensor, its stream slot (R225, R226). -/
def effSourceRelease (m : Nat) (e : Env) (d : Device) : Device :=
  match tfind d.peel.moves m with
  | none => d
  | some x =>
    if !d.serving e || !x.committed || (x.sourceTier = 0 && x.readers.any d.reading) then d
    else
      let d := match x.obj with
        | .page c l _ =>
          if x.sourceTier = 0 then d.releaseFrame (d.ctx c).recipe ((d.info (d.ctx c).recipe).layer l).pool x.source
          else if x.sourceTier = 1 then d.tier1Free (x.source * 4096)
          else d.askRelease x.node (x.source * 4096) x.tag
        | _ => d
      (d.delMove m).retryMoves e

/-- What an abort leaves: the object at rest at its source; an object whose only home was at a dead node is lost (R230). -/
def Device.abortMove (e : Env) (d : Device) (m : Nat) (x : Move) : Device :=
  let home := match x.obj with
    | .page c l i => (match (d.ctx c).page l i with
      | some p => if p.tier = 2 then some (c, p) else none
      | none => none)
    | _ => none
  let d := (d.undoMove m x).noteCancel
  match home with
  | some (c, p) =>
    if d.pem.dead.contains p.node then
      let d := match d.liveReq c with
        | some i => d.endLater i 0x41 3
        | none => d
      d.losePage e c p
    else d
  | none => d

/-- MOVE_ABORT. -/
def effMoveAbort (m : Nat) (e : Env) (d : Device) : Device :=
  match tfind d.peel.moves m with
  | none => d
  | some x => if !d.serving e || x.committed then d else (d.abortMove e m x).retryMoves e

end Sys2Proof.Machine
end

