-- ==== Sys2Proof/Machine/Handoffs.lean ====
section
/-! DEFINITION. Composition maps (11: R291–R293), HANDOFF and its fabric protocol on both nodes (R294–R298; 14: R366). -/

namespace Sys2Proof.Machine

/-! ## MAP_INSTALL, EPOCH_DRAINED (R291, R292) -/

/-- A map as read: none when a rule of R291 is broken. -/
def Device.mapAt (e : Env) (d : Device) (a len epoch : Nat) : Option Epoch :=
  let q := d.hostNat a 8
  let n := bits q 22 16
  let ws := (upto n).map (fun i => d.hostNat (a + 64 + 8 * i) 8)
  let nodes := ws.map (fun w => (⟨bits w 5 0, bits w 7 6, bits w 9 8, bits w 11 10, bits w 13 12⟩ : MapNode))
  let bad := bits q 15 0 != epoch || n > 64 || len != 64 + 8 * n || bits q 28 23 != nodeNumber e
    || bits q 63 32 != 0 || (d.hostRead (a + 8) 56).any (· != 0)
    || ws.any (fun w => bits w 63 14 != 0)
    || nodes.any (fun m => m.state == 3 || m.interactive == 3 || m.bulk == 3)
    || (nodes.map (·.node)).eraseDups.length != nodes.length
  if bad then none else some { num := epoch, threshold := bits q 31 29, nodes := nodes }

/-- A map is offered: behind an install that waits it waits, unjudged (log 133); one not ahead of the newest epoch is
refused; with one live epoch it is the newer at once; with two it waits until the older one drains. -/
def Device.offerMap (e : Env) (d : Device) (f : Fetched) (m : Epoch) : Device :=
  let ahead := (m.num + 65536 - d.kn.newer.num) % 65536
  if d.kn.install.isSome then { d with kn := { d.kn with installWait := d.kn.installWait ++ [(f, m)] } }
  else if ahead = 0 || ahead > 32767 then d.completeD e f 0x20 3 0
  else if d.kn.twoLive then { d with kn := { d.kn with install := some (f, m) } }
  else
    { d with kn := { d.kn with older := d.kn.newer, newer := m, twoLive := true, probesDue := d.pem.dead } }.completeD e f 0 0 0

/-- MAP_INSTALL (R291, R292). -/
def effMapInstall (hostOk : Bool) (e : Env) (d : Device) (f : Fetched) : Device :=
  let epoch := bits (f.w 2) 15 0
  if !hostOk then d.completeD e f 0x20 0x000A 0
  else match d.mapAt e (f.w 3) (bits (f.w 4) 31 0) epoch with
    | none => d.completeD e f 0x20 3 0
    | some m => d.offerMap e f m

def execMapInstall (t ring : Nat) (hostOk : Bool) (s : State) : Host.Outcome State Fault Refusal :=
  s.act t (onDesc ring 0x11 (effMapInstall hostOk))

/-- Does a request, handoff or move carry an epoch. A handoff's moves carry its epoch, and one that waits before step 1
carries its own. -/
def Device.carried (d : Device) (n : Nat) : Bool :=
  d.reqs.any (fun r => r.2.live && r.2.epoch == n) || d.kn.handoffs.any (fun h => h.epoch == n)
    || d.kn.handoffWait.any (fun f => bits (f.w 2) 31 16 == n)

/-- EPOCH_DRAINED: the older epoch is retired for the waiting one, and the installs behind it are offered in turn. -/
def effEpochDrained (e : Env) (d : Device) : Device :=
  match d.kn.install with
  | none => d
  | some (f, m) =>
    if !d.serving e || d.carried d.kn.older.num then d
    else
      let k := { d.kn with older := d.kn.newer, newer := m, install := none, installWait := [], probesDue := d.pem.dead }
      d.kn.installWait.foldl (fun d w => d.offerMap e w.1 w.2) ({ d with kn := k }.completeD e f 0 0 0)

def execEpochDrained (t : Nat) (s : State) : Host.Outcome State Fault Refusal := s.act t effEpochDrained

/-! ## Handoffs as data -/

def Device.handoffOf (d : Device) (session : Nat) (outgoing : Bool) : Option Handoff :=
  d.kn.handoffs.find? (fun h => h.session == session && h.outgoing == outgoing)

def Device.setHandoff (d : Device) (h : Handoff) : Device :=
  let go := fun (x : Handoff) => if x.session == h.session && x.outgoing == h.outgoing then h else x
  { d with kn := { d.kn with handoffs := d.kn.handoffs.map go } }

def Device.delHandoff (d : Device) (session : Nat) (outgoing : Bool) : Device :=
  { d with kn := { d.kn with handoffs := d.kn.handoffs.filter (fun h => !(h.session == session && h.outgoing == outgoing)) } }

/-- Complete a descriptor in flight by its sequence number. -/
def Device.completeSeq (e : Env) (d : Device) (seq status detail : Nat) : Device :=
  match d.inflight.find? (fun x => x.seq == seq) with
  | none => d
  | some x => d.complete e ⟨seq, x.ring, x.cookie, none, status, 0, detail, 0, 0, x.quiet⟩

/-- A management command marked once, or RELEASE: its layout of 32 bytes is a free value. -/
def Device.command (d : Device) (node type : Nat) (user : FabUser) : Device :=
  let (n, d) := d.draw
  let k : Pkt := ⟨node, 0, 3, type, 0, 0, 1, 0, node * 2 ^ 42, 0, 0, 0, 0, false, 0, toBytes 32 (Config.commandPayload n)⟩
  d.ask ⟨k, true, 0, 0, false, 0, user, 0⟩

/-- The context of a session with its directory area set (Table 11.2). -/
def Device.setDir (d : Device) (session : Nat) (f : DirArea → DirArea) : Device :=
  match d.ctxOf session with
  | some c => d.modCtx c (fun x => { x with dir := f x.dir })
  | none => d

/-- A directory area with no handoff. -/
def clearDir (a : DirArea) : DirArea := { slot := a.slot, recordValid := a.recordValid }

/-- What a session's handoff waits for in the move table goes, its log transfer with it. -/
def Device.dropWaiting (d : Device) (session : Nat) : Device :=
  let mine := d.peel.moves.filter (fun m => m.2.obj == .log session)
  let d := mine.foldl (fun d m => d.undoMove m.1 m.2) d
  { d with peel := { d.peel with waiting := d.peel.waiting.filter (fun w => w.2.2.1 != .handoff session) } }

/-- A handoff aborts at its source (R297): the session stays, parked, with outgoing cleared. -/
def Device.abortHandoff (e : Env) (d : Device) (session : Nat) : Device :=
  let d := (d.dropWaiting session).delHandoff session true
  match d.ctxOf session with
  | some c => d.modCtx c (fun x => { x with parked := true, dir := clearDir x.dir })
  | none => (let x := d.dirRead e session
             if x.valid && x.session == session then d.dirWrite e { x with parked := true } else d)

/-! ## The source (R294, R295) -/

/-- The handoff's refusals before step 1, in the order of R293 and R294. -/
def Device.handoffFault (e : Env) (d : Device) (f : Fetched) : Option (Nat × Nat) :=
  let s := f.session
  let dest := bits (f.w 2) 5 0
  let epoch := bits (f.w 2) 31 16
  let rec0 := d.dirRead e s
  match d.epochFault epoch with
  | some k => some (0x22, k)
  | none =>
    let there := match d.epoch epoch with
      | some m => (match m.node dest with
        | some n => n.state == 0
        | none => false)
      | none => false
    if s = 0 || ((d.ctxOf s).isNone && !(rec0.valid && rec0.session == s)) then some (0x20, 3)
    else if (d.reqOf s).isSome || d.inHandoff s then some (0x20, 7)
    else if dest == nodeNumber e || !there then some (0x20, 3)
    else if d.pem.dead.contains dest then some (0x41, 1)
    else none

/-- Step 1: the session's context, from its record when it is not resident (R67), and OPEN. -/
def Device.beginHandoff (e : Env) (d : Device) (f : Fetched) : Device :=
  let s := f.session
  let dest := bits (f.w 2) 5 0
  let epoch := bits (f.w 2) 31 16
  match d.residentFor e s with
  | none => d.completeD e f 0x11 0 0
  | some (c, d) =>
    let cls := (d.ctx c).cls
    let mode := match d.epoch epoch with
      | some m => (match m.node dest with
        | some n => if cls ≥ m.threshold then n.interactive else n.bulk
        | none => 0)
      | none => 0
    let d := d.modCtx c (fun x => { x with dir := { x.dir with
      outgoing := true, phase := 0, peer := dest, epoch := epoch, opened := e.now } })
    let h : Handoff := ⟨s, dest, true, 0, epoch, e.now, 2, mode, none, 0, 0, f.seq⟩
    { d with kn := { d.kn with handoffs := d.kn.handoffs ++ [h] } }.command dest 0x21 (.openHandoff s)

/-- HANDOFF: at the limit of 4,096 it waits before step 1, holding nothing. -/
def effHandoff (e : Env) (d : Device) (f : Fetched) : Device :=
  match d.handoffFault e f with
  | some x => d.completeD e f x.1 x.2 0
  | none =>
    if d.kn.handoffs.length ≥ 4096 then { d with kn := { d.kn with handoffWait := d.kn.handoffWait ++ [f] } }
    else d.beginHandoff e f

/-- A waiting HANDOFF takes the place of one that ended. -/
def Device.nextHandoff (e : Env) (d : Device) : Device :=
  match d.kn.handoffWait with
  | f :: r =>
    if d.kn.handoffs.length ≥ 4096 then d
    else
      let d := { d with kn := { d.kn with handoffWait := r } }
      (match d.handoffFault e f with
      | some x => d.completeD e f x.1 x.2 0
      | none => d.beginHandoff e f)
  | [] => d

/-- OPEN's answer (R366): opened, slot held, log area full, handoff limit reached. -/
def Device.opened (e : Env) (d : Device) (session result : Nat) : Device :=
  match d.handoffOf session true with
  | none => d
  | some h =>
    if result = 0 then
      let d := (d.completeSeq e h.seq 0 0).setHandoff { h with step := 3, seq := 0 }
      { d with peel := { d.peel with waiting := d.peel.waiting ++ [(.transfer, .log session, .handoff session, 0)] } }
    else (d.completeSeq e h.seq 0x10 (if result = 1 then 1 else if result = 2 then 2 else 4)).abortHandoff e session

/-- Own pages of a context at a tier. -/
def Context.own (x : Context) (tier : Nat) : List Page := x.pages.filter (fun p => !p.shared && p.tier == tier)

/-- The source's context is released without a record; the images it sent stay until their RELEASE. -/
def Device.finishSource (d : Device) (session : Nat) : Device :=
  let d := (d.dropWaiting session).delHandoff session true
  match d.ctxOf session with
  | none => d
  | some c => ((d.releasePages c (fun p => p.shared || p.tier == 0)).modCtx c (fun x => { x with pages := [] })).vacate c

/-- LOG_FREE: the source frees its log and record slot; then step 6 (phase 1): under DROP the own pages go and the
context with them, else every own tier-0 page is to be evicted. -/
def Device.logFreed (e : Env) (d : Device) (session header : Nat) : Device :=
  match d.handoffOf session true with
  | none => d
  | some h =>
    let base := match d.ctxOf session with
      | some c => (d.ctx c).logBase
      | none => (d.dirRead e session).log
    if h.step != 5 || header != base then d
    else
      let d := ((d.logRelease base).dirClear e session).setHandoff { h with phase := 1, step := 6, since := e.now }
      (match d.ctxOf session with
      | none => if h.mode = 2 then d.finishSource session else d
      | some c =>
        let d := d.modCtx c (fun x => { x with logBase := 0, dir := { x.dir with phase := 1, recordValid := false } })
        if h.mode = 2 then (d.releasePages c (fun p => !p.shared)).finishSource session
        else
          -- own pages with homes at other nodes are not sent: they are released and V is lowered (log 92)
          let d := d.losePages e c (fun p => !p.shared && p.tier == 2)
          let ws := ((d.ctx c).own 0).map (fun p =>
            ((.evict, .page c p.layer p.index, .handoff session, 0) : MoveKind × MoveObj × Requester × Nat))
          { d with peel := { d.peel with waiting := d.peel.waiting ++ ws } })

/-- The lowest tally word that no outgoing handoff holds. -/
def Device.freeTally (d : Device) : Option Nat :=
  let used := d.kn.handoffs.filterMap (fun h => if h.outgoing then h.tally else none)
  (upto 4096).find? (fun i => !used.contains i)

/-- Step 6 ends: every own page is in tier 1, a tally word is free: the count is written and KV_SEND goes (R366). A session
whose context was taken for another has no page left. -/
def Device.sendKv (e : Env) (d : Device) (h : Handoff) : Device :=
  match d.freeTally with
  | some w =>
    let x : Context := match d.ctxOf h.session with
      | some c => d.ctx c
      | none => {}
    let ps := x.own 1
    if !(x.own 0).isEmpty || ps.any (·.moving) then d
    else
      let a := tallyBase e + 8 * w
      let d := (d.lpStore a 8 ps.length).setHandoff { h with step := 7, tally := some w, since := e.now, tallyAddr := a }
      let d := d.setDir h.session (fun r => { r with sentV := x.valid, pagesLeft := ps.length })
      let d := { d with peel := { d.peel with images := d.peel.images ++ ps.map (fun (p : Page) => (p.frame * 4096, p.tag)) } }
      d.command h.peer 0x24 (.kvSend h.session)
  | none => d

/-- HANDOFF_TALLY_ZERO: the tally word reads 0; step 9. -/
def effTallyZero (session : Nat) (e : Env) (d : Device) : Device :=
  match d.handoffOf session true with
  | some h => if d.serving e && h.step == 7 && d.lpNat h.tallyAddr 8 == 0 then d.finishSource session else d
  | none => d

/-- HANDOFF_LIMIT_EXPIRY: the handoff limit has passed since step 6. -/
def effLimitExpiry (session : Nat) (e : Env) (d : Device) : Device :=
  match d.handoffOf session true with
  | some h => if d.serving e && h.step == 7 && e.now > h.since + handoffLimit e then d.finishSource session else d
  | none => d

/-! ## The destination -/

/-- The KV mode at this node for a class under an epoch. -/
def Device.modeHere (e : Env) (d : Device) (epoch cls : Nat) : Nat :=
  match d.epoch epoch with
  | some m => (match m.node (nodeNumber e) with
    | some n => if cls ≥ m.threshold then n.interactive else n.bulk
    | none => 0)
  | none => 0

/-- OPEN at the destination: result 0 opened, 1 slot held, 2 log area full, 3 limit reached. -/
def Device.serveOpen (e : Env) (src session len epoch cls : Nat) (d : Device) : Nat × Nat × Device :=
  let old := d.dirRead e session
  let held := (old.valid && old.session != session)
    || d.ctxs.any (fun c => c.2.held && c.2.session != 0 && c.2.session != session && slotOf c.2.session == slotOf session)
  if d.kn.handoffs.length ≥ 4096 then (0, 3, d)
  else if held then (0, 1, d)
  else match d.logEnsure e 0 len with
    | none => (0, 2, d)
    | some (b, d) =>
      let d := match d.ctxOf session with
        | some c => if (d.ctx c).live then d else (d.logRelease (d.ctx c).logBase).demote c false |>.vacate c
        | none => d
      let d := d.dirWrite e { session := session, valid := true, incoming := true, log := b, length := len, cls := cls,
                              source := src, epoch := epoch }
      let h : Handoff := ⟨session, src, false, 0, epoch, e.now, 2, d.modeHere e epoch cls, none, e.now, 0, 0⟩
      (0, 0, { d with kn := { d.kn with handoffs := d.kn.handoffs ++ [h] } })

/-- LOG_DONE at the destination: incoming is cleared, LOG_FREE goes to the source. -/
def Device.serveLogDone (e : Env) (session len : Nat) (d : Device) : Nat × Nat × Device :=
  let x := d.dirRead e session
  match d.handoffOf session false with
  | none => (0, 0, d)
  | some h =>
    if h.step != 2 || !(x.valid && x.incoming && x.session == session) then (0, 0, d)
    else
      let d := d.dirWrite e { x with incoming := false, length := len }
      let d := if h.mode = 2 then d.delHandoff session false else d.setHandoff { h with step := 5, phase := 1 }
      (0, 0, d.command h.peer 0x23 (.logFree session))

/-- A count of pages is taken off the source's tally word (R366). -/
def Device.tallyAdd (d : Device) (h : Handoff) (n : Nat) : Device :=
  if n = 0 then d
  else
    let k : Pkt := ⟨h.peer, 0, 0, 0x10, 0, 0, 1, 0, h.peer * 2 ^ 42 + h.tallyAddr % 2 ^ 42, 1, 0, 0, 0, false, 0,
      toBytes 8 (2 ^ 64 - n) ++ toBytes 24 0⟩
    d.ask ⟨k, true, 0, 0, false, 0, .tally h.session, 2⟩

/-- The first position of a sent page: in a local layer the last lap below V that has its ring slot. -/
def sentFirst (info : RecipeInfo) (l i v : Nat) : Nat :=
  let T := (info.layerPool l).tokens
  if (info.layer l).kind = 2 then
    let n := info.ringN l
    let k := (v - 1) / T
    (k - (k + n - i % n) % n) * T
  else if (info.layer l).kind = 3 then 0 else i * T

/-- Step 7: a context takes the sent pages with their tier-2 homes, and V by R296. -/
def Device.serveKvSend (e : Env) (src session sentV cover tally : Nat) (pages : List SentPage) (d : Device) :
    Nat × Nat × Device :=
  match d.handoffOf session false with
  | none => (0, 0, d)
  | some h0 =>
    if h0.step != 5 then (0, 0, d) else
    let h := { h0 with tallyAddr := tally % 2 ^ 42 }
    let rel := fun (d : Device) (ps : List SentPage) => ps.foldl (fun d p => d.askRelease src (p.addr % 2 ^ 42) p.tag) d
    match d.residentFor e session with
    | none => (0, 0, ((rel d pages).tallyAdd h pages.length).delHandoff session false)
    | some (c, d) =>
      let info := d.info (d.ctx c).recipe
      let d := d.matchCtx e c
      let cov := (d.ctx c).prefixLen
      let v := if cov ≥ cover then sentV else cov
      let first := fun (p : SentPage) => sentFirst info p.layer p.index sentV
      let keep := pages.filter (fun p => first p < v && ((d.ctx c).page p.layer p.index).isNone)
      let drop := pages.filter (fun p => !(first p < v && ((d.ctx c).page p.layer p.index).isNone))
      let enter := fun (d : Device) (p : SentPage) => d.modCtx c (fun y => y.putPage
        { layer := p.layer, index := p.index, frame := p.addr % 2 ^ 42 / 4096, shared := false, tag := p.tag,
          format := p.format, node := src, tier := 2, first := first p, block := 0, moving := false })
      let d := keep.foldl enter d
      let d := ((rel d drop).tallyAdd h drop.length).modCtx c (fun y => { y with
        valid := if y.valid < v && v ≤ y.logLength then v else y.valid,
        dir := { y.dir with incoming := true, phase := 1, peer := src, epoch := h.epoch, sentV := sentV,
                            pagesLeft := keep.length, opened := h.opened } })
      if h.mode = 1 then
        (0, 0, ((d.tallyAdd h keep.length).setDir session clearDir).delHandoff session false)
      else
        let ws := keep.map (fun p => ((.transfer, .page c p.layer p.index, .handoff session, 0) : MoveKind × MoveObj × Requester × Nat))
        let d := d.setHandoff { h with step := 8, phase := 1, tally := some keep.length }
        (0, 0, { d with peel := { d.peel with waiting := d.peel.waiting ++ ws } })

/-- RELEASE at the home of an image: freed if its owner tag still matches (R353). -/
def Device.serveRelease (image tag : Nat) (d : Device) : Device :=
  if d.peel.images.contains (image, tag) then
    let hit := fun (p : Page) => p.tier == 1 && !p.shared && p.frame * 4096 == image && p.tag == tag
    let d := { d with peel := { d.peel with images := d.peel.images.filter (· != (image, tag)) },
                      ctxs := d.ctxs.map (fun (c : Nat × Context) => (c.1, c.2.dropPages hit)) }
    d.tier1Free image
  else d

/-- Pages that an incoming handoff still has at its source, against the count last told: the difference goes to the
tally; with none left the handoff ends here (R366). -/
def Device.reconcile (d : Device) (h : Handoff) : Device :=
  let left := match d.ctxOf h.session with
    | some c => ((d.ctx c).pages.filter (fun p => p.tier == 2 && p.node == h.peer)).length
    | none => 0
  let told := h.tally.getD 0
  let d := d.tallyAdd h (told - left)
  let d := if left < told then (d.setDir h.session (fun r => { r with pagesLeft := left })).setHandoff { h with tally := some left } else d
  if left = 0 then (d.setDir h.session clearDir).delHandoff h.session false else d

/-- INCOMING_RECORD_EXPIRY: LOG_DONE has not come within the handoff limit after OPEN. -/
def Device.clearIncoming (e : Env) (d : Device) (session : Nat) : Device :=
  let x := d.dirRead e session
  let d := if x.valid && x.incoming && x.session == session then (d.logRelease x.log).dirClear e session else d
  d.delHandoff session false

def effIncomingExpiry (session : Nat) (e : Env) (d : Device) : Device :=
  match d.handoffOf session false with
  | some h => if d.serving e && h.step == 2 && e.now > h.opened + handoffLimit e then d.clearIncoming e session else d
  | none => d

/-! ## A node of a handoff dies (R297, Table 11.5) -/

/-- The source died after step 5: pages not committed here are lost. -/
def Device.loseSent (e : Env) (d : Device) (h : Handoff) : Device :=
  match d.ctxOf h.session with
  | none => d
  | some c =>
    let lost := (d.ctx c).pages.filter (fun p => p.tier == 2 && p.node == h.peer)
    if lost.isEmpty then d
    else
      let sent := (d.ctx c).dir.sentV
      let d := d.losePages e c (fun p => p.tier == 2 && p.node == h.peer)
      { d with kn := { d.kn with lost := d.kn.lost ++ [(h.session, h.peer, h.epoch, (d.ctx c).valid, sent)] } }

/-- One handoff with a dead node. A GENERATE that waited on the record ends FAILED, STATE_LOST (Table 11.5, R61). -/
def Device.handoffDead (e : Env) (d : Device) (h : Handoff) : Device :=
  if h.outgoing then
    if h.step ≤ 5 then
      (let d := if h.seq != 0 then d.completeSeq e h.seq 0x41 1 else d
       d.abortHandoff e h.session)
    else
      (let d := (d.dropWaiting h.session).delHandoff h.session true
       match d.ctxOf h.session with
       | some c => (d.dropAll c).vacate c
       | none => d)
  else if h.step = 2 then
    let d := d.clearIncoming e h.session
    let ws := (d.reqs.filter (fun r => r.2.state == .admitted && r.2.session == h.session && !r.2.bound)).map (·.1)
    ws.foldl (fun d i => d.endReq e i 0x40 0 1) d
  else ((d.loseSent e h).setDir h.session clearDir).delHandoff h.session false

/-- What the handoffs may do next: log transfers that committed, step 6, tallies, waiting HANDOFFs. -/
def Device.advance (e : Env) (d : Device) : Device :=
  let logs := d.peel.moves.filter (fun m => m.2.committed && (match m.2.obj with
    | .log _ => true
    | _ => false))
  let d := logs.foldl (fun d m => match m.2.obj with
    | .log s =>
      let d := d.delMove m.1
      if m.2.tag = 1 then d.abortHandoff e s
      else (match d.handoffOf s true with
        | some h => (d.setHandoff { h with step := 5 }).command h.peer 0x22 (.logDone s)
        | none => d)
    | _ => d) d
  let d := (d.kn.handoffs.filter (fun h => h.outgoing && h.step == 6)).foldl (fun d h => d.sendKv e h) d
  let d := (d.kn.handoffs.filter (fun h => !h.outgoing && h.step == 8)).foldl (fun d h => d.reconcile h) d
  d.nextHandoff e

end Sys2Proof.Machine
end

