-- ==== Sys2Proof/Machine/Fabric.lean ====
section
/-! DEFINITION. How fabric operations end (14: R358–R366), and the commands of Pemos, the Peel and the handoff
protocol. After each of them what waits is issued, and what waits for a dead node resolves. -/

namespace Sys2Proof.Machine

/-- How an operation ends: answered OK, answered POISON or REFUSED, TARGET_DEAD, uncertain (R354, R363). -/
inductive OpEnd where
  | ok (payload : List Byte)
  | bad
  | dead
  | uncertain
  deriving DecidableEq, Repr

/-! ## What each operation serves (R364) -/

/-- Data read for a staging go to its bench slot. -/
def Device.stageInto (d : Device) (c l i : Nat) (o : FabOp) (bs : List Byte) : Device :=
  match d.staging c l i, (d.ctx c).page l i with
  | some (key, false), some p =>
    let pl := (d.info (d.ctx c).recipe).layerPool l
    let off := pktOff o.pkt - p.frame * 4096
    { d with loaf := slotWrite pl (key % 2 ^ 24) d.loaf off (bs.take (pl.slotBytes - off)) }
  | _, _ => d

/-- A staging's read failed: the request ends at the next boundary, the page is lost (R192). -/
def Device.stageLost (e : Env) (d : Device) (c l i status detail : Nat) : Device :=
  match d.staging c l i, (d.ctx c).page l i with
  | some (_, false), some p =>
    let d := match d.liveReq c with
      | some r => d.endLater r status detail
      | none => d
    d.losePage e c p
  | _, _ => d

/-- Data read for a move go to its destination. -/
def Device.moveInto (d : Device) (x : Move) (o : FabOp) (bs : List Byte) : Device :=
  match x.obj with
  | .page c l _ =>
    let pl := (d.info (d.ctx c).recipe).layerPool l
    let off := pktOff o.pkt - x.source * 4096
    if x.destTier = 0 then { d with loaf := slotWrite pl x.dest d.loaf off (bs.take (pl.slotBytes - off)) }
    else d.lpWrites (x.dest * 4096 + off) bs
  | _ => d

/-- A move whose operation failed: a log's transfer aborts its handoff. -/
def Device.moveFails (e : Env) (d : Device) (m : Nat) (x : Move) : Device :=
  match x.obj with
  | .log s => (d.undoMove m x).noteCancel.abortHandoff e s
  | _ => d.abortMove e m x

/-- An operation of a move ends. Poisoned data are copied as poison (R230); a failed WRITE aborts (R364). -/
def Device.moveOpEnds (e : Env) (d : Device) (m : Nat) (o : FabOp) (how : OpEnd) : Device :=
  match tfind d.peel.moves m with
  | none => d
  | some x =>
    if x.committed then d else
    match how with
    | .ok bs => if o.pkt.type = 1 then d.moveInto x o bs else d
    | .bad =>
      if o.pkt.type = 1 then { d with peel := { d.peel with moves := tset d.peel.moves m { x with bad := true } } }
      else d.moveFails e m x
    | .dead => d.moveFails e m x
    | .uncertain => d.moveFails e m x

/-- A command of a handoff resolved TARGET_DEAD. -/
def Device.handoffLost (e : Env) (d : Device) (session node : Nat) : Device :=
  (d.kn.handoffs.filter (fun h => h.session == session && h.peer == node)).foldl (fun d h => d.handoffDead e h) d

/-- An uncertain command of a handoff at this node aborts it (R364). -/
def Device.handoffUnsure (e : Env) (d : Device) (session : Nat) : Device :=
  if (d.handoffOf session true).isSome then d.abortHandoff e session
  else (d.setDir session clearDir).delHandoff session false

/-- OPEN did not open: its HANDOFF completes, the session stays as it was (R294, R364). -/
def Device.openFails (e : Env) (d : Device) (session status : Nat) : Device :=
  match d.handoffOf session true with
  | none => d
  | some h => (d.completeSeq e h.seq status 1).abortHandoff e session

/-- A READ of a vector ends: the query keeps what came (R335, R337). -/
def Device.vectorRead (d : Device) (c : Nat) (o : FabOp) (how : OpEnd) : Device :=
  let x : StageEnd × List Byte := match how with
    | .ok bs => (.ok, bs)
    | .bad => (.bad, [])
    | _ => (.dead, [])
  let go := fun (q : Query) => if q.ctx == some c then { q with got := q.got ++ [(o.pkt.addr, x)] } else q
  { d with sift := { d.sift with queries := d.sift.queries.map go } }

/-- The effect of an operation's end on what it serves. -/
def Device.opEffect (e : Env) (d : Device) (o : FabOp) (how : OpEnd) : Device :=
  match o.user with
  | .openHandoff s =>
    (match how with
    | .ok bs => d.opened e s (ofBytes (bs.take 8))
    | .dead => d.openFails e s 0x41
    | _ => d.openFails e s 0x42)
  | .move m => d.moveOpEnds e m o how
  | .stage c l i =>
    (match how with
    | .ok bs => d.stageInto c l i o bs
    | .dead => d.stageLost e c l i 0x41 3
    | _ => d.stageLost e c l i 0x43 4)
  | .logWrite s | .logDone s | .logFree s | .kvSend s | .tally s =>
    (match how with
    | .ok _ => d
    | .dead => d.handoffLost e s o.pkt.dest
    | _ => d.handoffUnsure e s)
  | .release => d
  | .vector c => d.vectorRead c o how

/-- An uncertain end is counted (R364). -/
def Device.countEnd (d : Device) (how : OpEnd) : Device :=
  if how == .uncertain then { d with pem := { d.pem with uncertain := sat lim32 (d.pem.uncertain + 1) } } else d

/-- An outstanding operation ends: its tag rests until 128 µs after its last attempt (R358). -/
def Device.endOp (e : Env) (d : Device) (o : FabOp) (how : OpEnd) : Device :=
  let p := { d.pem with ops := d.pem.ops.filter (fun x => x.pkt.tag != o.pkt.tag),
                        recent := d.pem.recent ++ [(o.pkt.dest, o.pkt.tag, o.last, o.once)] }
  (({ d with pem := p } : Device).countEnd how).opEffect e o how

/-! ## The dead set (R363, R365) -/

/-- A fault record (Table 14.8). -/
def Device.faultRecord (e : Env) (d : Device) (n cause : Nat) (ops : List FabOp) : List Byte :=
  let first := ops.head?
  let tag := (first.map (fun o => o.pkt.tag)).getD 0
  let addr := (first.map (fun o => o.pkt.addr)).getD 0
  toBytes 8 e.now
    ++ toBytes 8 (n + cause * 2 ^ 6 + ((d.routePort e n).getD 0) * 2 ^ 8 + tag * 2 ^ 16 + ops.length * 2 ^ 32)
    ++ toBytes 8 addr ++ toBytes 8 d.pem.faultRecords

/-- A node enters the dead set: record, NODE_DEAD, then every unresolved operation to it, then its handoffs. -/
def Device.nodeDies (e : Env) (d : Device) (n cause : Nat) : Device :=
  let ops := d.pem.ops.filter (fun o => o.pkt.dest == n)
  let i := d.pem.faultRecords % 256
  let d := d.lpWrites (winBase e + faultLog e + 32 * i) (d.faultRecord e n cause ops)
  let d := { d with pem := { d.pem with dead := d.pem.dead ++ [n], faultRecords := d.pem.faultRecords + 1 } }
  let d := d.raise e 0x0011 (n + cause * 2 ^ 6 + i * 2 ^ 8) ops.length
  let d := ops.foldl (fun d o => d.endOp e o .dead) d
  (d.kn.handoffs.filter (fun h => h.peer == n)).foldl (fun d h => d.handoffDead e h) d

/-- Operations that wait for a dead node resolve at once. -/
def Device.sweepDead (e : Env) (d : Device) : Device :=
  let gone := d.pem.waiting.filter (fun o => d.pem.dead.contains o.pkt.dest)
  let rest := d.pem.waiting.filter (fun o => !d.pem.dead.contains o.pkt.dest)
  gone.foldl (fun d o => d.opEffect e o .dead) { d with pem := { d.pem with waiting := rest } }

/-- What Pemos and the Peel may do after a command. -/
def Device.settleFabric (e : Env) (d : Device) : Device :=
  if !d.serving e then d else ((((d.advance e).sweepDead e).retryMoves e).sweepDead e).pump e

/-- A command with what it lets go on. -/
def fabric (f : Env → Device → Device) (e : Env) (d : Device) : Device := (f e d).settleFabric e

/-! ## Responses, timers (R357, R359, R362, R363) -/

/-- Reissue an operation: attempt + 1, at most 3, by 40 µs after the first issue, on the route in use. -/
def Device.reissue (e : Env) (d : Device) (o : FabOp) : Device :=
  if o.pkt.attempt ≥ 3 || e.now > o.issued + 40000 then d
  else
    let o' := { o with pkt := { o.pkt with attempt := o.pkt.attempt + 1 }, last := e.now }
    let ops := d.pem.ops.map (fun (x : FabOp) => if x.pkt.tag == o.pkt.tag then o' else x)
    ({ d with pem := { d.pem with ops := ops } } : Device).sendTo e o.kind o'.pkt

/-- Operations to a node no longer wait for an answer to a probe. -/
def Device.unprobe (d : Device) (n : Nat) : Device :=
  let go := fun (o : FabOp) => if o.pkt.dest == n then { o with probed := false } else o
  { d with pem := { d.pem with ops := d.pem.ops.map go } }

/-- A node leaves the dead set at the first PROBE answered after an install. -/
def Device.undead (d : Device) (n : Nat) : Device :=
  if d.kn.probesDue.contains n then
    { d with pem := { d.pem with dead := d.pem.dead.filter (· != n) },
             kn := { d.kn with probesDue := d.kn.probesDue.filter (· != n) } }
  else d

/-- A PROBE of a node is answered by port q: step 3a or 3b of Table 14.7, or the return to the primary (R351). -/
def Device.probeAnswer (e : Env) (d : Device) (n q : Nat) : Device :=
  let d := d.undead n
  match d.routePort e n with
  | none => d
  | some r =>
    if r == q then d.unprobe n
    else
      let hot := d.pem.ops.any (fun o => o.pkt.dest == n && o.probed)
      let back := d.pem.alternate.contains n && (routePorts e n).head? == some q
      if !(routePorts e n).contains q || !(hot || back) then d
      else
        let d := d.switchRoute e n r q
        if hot then
          (let d := d.unprobe n
           (d.pem.ops.filter (fun o => o.pkt.dest == n)).foldl (fun d o => d.reissue e o) d)
        else d

/-- A response: matched by source, tag and attempt, or discarded. -/
def Device.takeResponse (e : Env) (d : Device) (q : Nat) (k : Pkt) : Device :=
  if k.type = 0xA0 && k.tag = 65535 then d.probeAnswer e k.src q
  else match d.pem.ops.find? (fun o => o.pkt.tag == k.tag && o.pkt.attempt == k.attempt && o.pkt.dest == k.src) with
    | none => d
    | some o =>
      d.endOp e o (if k.status = 0 then .ok k.payload else if k.status = 2 && o.once then .uncertain else .bad)

def effFabricResponse (p : Nat) (k : Pkt) (e : Env) (d : Device) : Device :=
  d.arrive e p k (fun d => d.takeResponse e p k)

/-- The outstanding operation of a tag. -/
def Device.opOf (d : Device) (tag : Nat) : Option FabOp := d.pem.ops.find? (fun o => o.pkt.tag == tag)

/-- RESPONSE_TIMEOUT: T_r after the issue or the last probes, PROBE goes by every valid port that is up. -/
def effResponseTimeout (tag : Nat) (e : Env) (d : Device) : Device :=
  match d.opOf tag with
  | none => d
  | some o =>
    let n := o.pkt.dest
    if !d.serving e || o.probed || e.now < o.probedAt + respTimer e n then d
    else
      let go := fun (x : FabOp) => if x.pkt.tag == tag then { x with probed := true, probedAt := e.now } else x
      let d := { d with pem := { d.pem with ops := d.pem.ops.map go } }
      ((routePorts e n).filter d.isUp).foldl (fun d p => d.probeBy e n p) d

/-- REISSUE_TIMER: 20 µs and 40 µs after the first issue. -/
def effReissueTimer (tag : Nat) (e : Env) (d : Device) : Device :=
  match d.opOf tag with
  | none => d
  | some o =>
    let due := fun (k : Nat) => decide (o.issued + k ≤ e.now) && decide (o.last < o.issued + k)
    if d.serving e && (due 20000 || due 40000) then d.reissue e o else d

/-- NODE_DEAD: no port of the route is up, or no port answers by 2 T_r. -/
def effNodeDead (n : Nat) (e : Env) (d : Device) : Device :=
  let mine := d.pem.ops.filter (fun o => o.pkt.dest == n)
  if !d.serving e || mine.isEmpty || d.pem.dead.contains n then d
  else if !d.routeUp e n then d.nodeDies e n 1
  else if mine.any (fun o => o.probed && decide (o.probedAt + respTimer e n ≤ e.now)) then d.nodeDies e n 0
  else d

/-- FABRIC_GIVE_UP: 80 µs after the first issue. A RELEASE, which is neither once nor a READ or WRITE, just ends. -/
def effGiveUp (tag : Nat) (e : Env) (d : Device) : Device :=
  match d.opOf tag with
  | none => d
  | some o =>
    if !d.serving e || e.now < o.issued + 80000 then d
    else if o.once then d.endOp e o .uncertain
    else if o.pkt.chan = 3 then d.endOp e o .dead
    else d.nodeDies e o.pkt.dest 2

/-- ALTERNATE_ROUTE_PROBE: every 1 ms a PROBE by the primary; its first answer restores the primary. -/
def effAlternateProbe (n : Nat) (answered : Bool) (e : Env) (d : Device) : Device :=
  let w := routeWord e n
  if !d.serving e || !d.pem.alternate.contains n || !bit w 3 then d
  else if answered then d.probeAnswer e n (bits w 2 0)
  else if d.isUp (bits w 2 0) then d.probeBy e n (bits w 2 0)
  else d

/-- DEAD_SET_PROBE: within 1 ms of an install. -/
def effDeadProbe (n : Nat) (answered : Bool) (e : Env) (d : Device) : Device :=
  if !d.serving e || !d.pem.dead.contains n || !d.kn.probesDue.contains n then d
  else if answered then d.undead n
  else match d.routePort e n with
    | some p => if d.isUp p then d.probeBy e n p else d
    | none => d

/-- INITIATOR_LIMIT_RELEASE: what waited for an interval of R358 goes on as it is pumped. -/
def effLimitRelease (_ : Env) (d : Device) : Device := d

/-! ## The commands -/

def execMoveStart (t : Nat) (kind : MoveKind) (obj : MoveObj) (who : Requester) (dest : Nat) (s : State) :
    Host.Outcome State Fault Refusal := s.act t (fabric (effMoveStart kind obj who dest))
def execMoveCommit (t move : Nat) (poisoned : Bool) (ecc : List EccReport) (s : State) :
    Host.Outcome State Fault Refusal :=
  s.act t (fabric (effMoveCommit move poisoned ecc))
def execMoveSourceRelease (t move : Nat) (s : State) : Host.Outcome State Fault Refusal :=
  s.act t (fabric (effSourceRelease move))
def execMoveAbort (t move : Nat) (s : State) : Host.Outcome State Fault Refusal := s.act t (fabric (effMoveAbort move))
def execStreamNeedPoint (t recipe stream : Nat) (oven : Bool) (lanes : List Nat) (s : State) :
    Host.Outcome State Fault Refusal := s.act t (fabric (effNeedPoint recipe stream oven lanes))
def execStreamDeadline (t recipe stream : Nat) (noExpert : Bool) (s : State) : Host.Outcome State Fault Refusal :=
  s.act t (fabric (effStreamDeadline recipe stream noExpert))

def execInitiatorLimitRelease (t : Nat) (s : State) : Host.Outcome State Fault Refusal := s.act t (fabric effLimitRelease)
def execLinkDown (t port : Nat) (up : Bool) (cause lanes : Nat) (s : State) : Host.Outcome State Fault Refusal :=
  s.act t (fabric (effLinkDown port up cause lanes))
def execPortTrainTimeout (t port : Nat) (s : State) : Host.Outcome State Fault Refusal :=
  s.act t (fabric (effTrainTimeout port))
def execLinkReplay (t port : Nat) (received : Bool) (s : State) : Host.Outcome State Fault Refusal :=
  s.act t (fabric (effLinkReplay port received))
def execPortPacketBoundary (t port : Nat) (s : State) : Host.Outcome State Fault Refusal :=
  s.act t (effPacketBoundary port)

/-- The packet as a management command. -/
def mgmtAs (k : Pkt) (type : Nat) : Pkt := { k with type := type, chan := 3 }

/-- A packet of a type arrives at a port and is served. -/
def serve (port : Nat) (k : Pkt) (f : Env → Device → Pkt → Device) : Env → Device → Device :=
  fabric (fun e d => d.arrive e port k (fun d => f e d k))

def execLink (t port : Nat) (p : Pkt) (s : State) : Host.Outcome State Fault Refusal :=
  s.act t (serve port { p with type := 0 } (fun _ d _ => d))
def execRead (t port : Nat) (p : Pkt) (s : State) : Host.Outcome State Fault Refusal :=
  s.act t (serve port (pktAs p 0x01) (fun e d k => d.serveRead e port k))
def execWrite (t port : Nat) (p : Pkt) (s : State) : Host.Outcome State Fault Refusal :=
  s.act t (serve port (pktAs p 0x02) (fun e d k => d.serveWrite e port k))
def execAdd (t port : Nat) (p : Pkt) (s : State) : Host.Outcome State Fault Refusal :=
  s.act t (serve port (pktAs p 0x10) (fun e d k => d.serveAtomic e port k))
def execSmin (t port : Nat) (p : Pkt) (s : State) : Host.Outcome State Fault Refusal :=
  s.act t (serve port (pktAs p 0x11) (fun e d k => d.serveAtomic e port k))
def execSmax (t port : Nat) (p : Pkt) (s : State) : Host.Outcome State Fault Refusal :=
  s.act t (serve port (pktAs p 0x12) (fun e d k => d.serveAtomic e port k))
def execUmin (t port : Nat) (p : Pkt) (s : State) : Host.Outcome State Fault Refusal :=
  s.act t (serve port (pktAs p 0x13) (fun e d k => d.serveAtomic e port k))
def execUmax (t port : Nat) (p : Pkt) (s : State) : Host.Outcome State Fault Refusal :=
  s.act t (serve port (pktAs p 0x14) (fun e d k => d.serveAtomic e port k))
def execCas (t port : Nat) (p : Pkt) (s : State) : Host.Outcome State Fault Refusal :=
  s.act t (serve port (pktAs p 0x15) (fun e d k => d.serveAtomic e port k))
def execProbe (t port : Nat) (p : Pkt) (s : State) : Host.Outcome State Fault Refusal :=
  s.act t (serve port (mgmtAs p 0x20) (fun e d k => d.respond e port k 0 (toBytes 32 0)))

def execOpenHandoff (t port : Nat) (p : Pkt) (session logLength epoch cls : Nat) (s : State) :
    Host.Outcome State Fault Refusal :=
  s.act t (serve port (mgmtAs p 0x21) (fun e d k => d.once e port k (Device.serveOpen e p.src session logLength epoch cls)))
def execLogDone (t port : Nat) (p : Pkt) (session logLength : Nat) (s : State) : Host.Outcome State Fault Refusal :=
  s.act t (serve port (mgmtAs p 0x22) (fun e d k => d.once e port k (Device.serveLogDone e session logLength)))
def execLogFree (t port : Nat) (p : Pkt) (session header : Nat) (s : State) : Host.Outcome State Fault Refusal :=
  s.act t (serve port (mgmtAs p 0x23) (fun e d k => d.once e port k (fun d => (0, 0, d.logFreed e session header))))
def execKvSend (t port : Nat) (p : Pkt) (session sentV shared tally : Nat) (pages : List SentPage) (s : State) :
    Host.Outcome State Fault Refusal :=
  s.act t (serve port (mgmtAs p 0x24) (fun e d k => d.once e port k
    (Device.serveKvSend e p.src session sentV shared tally pages)))
def execRelease (t port : Nat) (p : Pkt) (image tag : Nat) (s : State) : Host.Outcome State Fault Refusal :=
  s.act t (serve port (mgmtAs p 0x25) (fun e d k => (d.serveRelease image tag).respond e port k 0 (toBytes 32 0)))

def execHandoff (t ring : Nat) (s : State) : Host.Outcome State Fault Refusal :=
  s.act t (fabric (onDesc ring 0x05 effHandoff))
def execHandoffTallyZero (t session : Nat) (s : State) : Host.Outcome State Fault Refusal :=
  s.act t (fabric (effTallyZero session))
def execHandoffLimitExpiry (t session : Nat) (s : State) : Host.Outcome State Fault Refusal :=
  s.act t (fabric (effLimitExpiry session))
def execIncomingRecordExpiry (t session : Nat) (s : State) : Host.Outcome State Fault Refusal :=
  s.act t (fabric (effIncomingExpiry session))

def execFabricResponse (t port : Nat) (p : Pkt) (s : State) : Host.Outcome State Fault Refusal :=
  s.act t (fabric (effFabricResponse port p))
def execResponseTimeout (t tag : Nat) (s : State) : Host.Outcome State Fault Refusal :=
  s.act t (fabric (effResponseTimeout tag))
def execReissueTimer (t tag : Nat) (s : State) : Host.Outcome State Fault Refusal := s.act t (fabric (effReissueTimer tag))
def execNodeDead (t node : Nat) (s : State) : Host.Outcome State Fault Refusal := s.act t (fabric (effNodeDead node))
def execFabricGiveUp (t tag : Nat) (s : State) : Host.Outcome State Fault Refusal := s.act t (fabric (effGiveUp tag))
def execReplayEntryExpiry (t src tag : Nat) (s : State) : Host.Outcome State Fault Refusal :=
  s.act t (effReplayExpiry src tag)
def execAlternateRouteProbe (t node : Nat) (answered : Bool) (s : State) : Host.Outcome State Fault Refusal :=
  s.act t (fabric (effAlternateProbe node answered))
def execDeadSetProbe (t node : Nat) (answered : Bool) (s : State) : Host.Outcome State Fault Refusal :=
  s.act t (fabric (effDeadProbe node answered))

end Sys2Proof.Machine
end

