-- ==== Sys2Proof/Machine/Recipes.lean ====
section
/-! DEFINITION. Recipes and adapters (09: R244–R248; 10: R270–R275): the image and its checks in the order of
Table 09.11, loading and unloading. The content of the sections whose encoding the manual does not give stands in the
command's RecipeInfo. -/

namespace Sys2Proof.Machine

/-! ## The image (Table 09.12, R245) -/

/-- A section: kind, offset, length. -/
structure ImagePart where
  kind : Nat
  off : Nat
  len : Nat
  deriving DecidableEq, Repr

/-- The section table of an image. -/
def sectionTable (im : List Byte) : List ImagePart :=
  (upto (secNat im 6 2)).map (fun i => ⟨secNat im (0x100 + 32 * i) 1, secNat im (0x108 + 32 * i) 8, secNat im (0x110 + 32 * i) 8⟩)

/-- No two sections overlap, nor carry the same kind. -/
def sectionsApart : List ImagePart → Bool
  | [] => true
  | s :: r => r.all (fun x => x.kind != s.kind && (x.off + x.len ≤ s.off || s.off + s.len ≤ x.off)) && sectionsApart r

/-- Step 2: header and section table. `len` is the descriptor's image length. -/
def imageOk (im : List Byte) (len : Nat) : Bool :=
  let n := secNat im 6 2
  let ss := sectionTable im
  let zero := fun (o k : Nat) => ((im.drop o).take k).all (· == 0)
  secNat im 0 4 == 0x50435252 && secNat im 4 2 == 1 && 1 ≤ n && n ≤ 16 && secNat im 8 8 == len
    && 0x100 + 32 * n ≤ len && zero 0x10 48 && zero 0x80 128
    && (upto n).all (fun i => zero (0x101 + 32 * i) 7 && zero (0x118 + 32 * i) 8)
    && ss.all (fun s => 1 ≤ s.kind && s.kind ≤ 0x0A && s.off % 4096 == 0 && 0x1000 ≤ s.off && s.off + s.len ≤ len)
    && sectionsApart ss && [1, 2, 8].all (fun k => ss.any (fun s => s.kind == k))

/-- The bytes of a section; none where the image lacks it. -/
def sectionBytes (im : List Byte) (kind : Nat) : List Byte :=
  match (sectionTable im).find? (fun s => s.kind == kind) with
  | some s => (im.drop s.off).take s.len
  | none => []

/-! ## Placement (R102, R103, R131): detail 0x0004 -/

/-- Do two runs share a bank pair. -/
def runsMeet (a b : Run) : Bool :=
  a.slice == b.slice && a.first < b.first + b.count && b.first < a.first + a.count

/-- No pair is named twice. -/
def runsApart : List Run → Bool
  | [] => true
  | r :: rs => rs.all (fun x => !runsMeet r x) && runsApart rs

/-- All runs of a placement: weight set and pools. -/
def runsOf (i : RecipeInfo) : List Run := i.weightRuns ++ (i.pools.map (·.runs)).flatten

/-- Do the pairs of these runs all lie in one set. -/
def runsWithin (rs set : List Run) : Bool :=
  rs.all (fun r => (upto r.count).all (fun k => set.any (fun x => runHas x r.slice (r.first + k))))

/-- A crumb group (R111): 1 to 64 runs, no pair twice, all in one bank set of the Recipe. -/
def groupOk (i : RecipeInfo) (g : List Run) : Bool :=
  1 ≤ g.length && g.length ≤ 64 && runsApart g && (runsWithin g i.weightRuns || i.pools.any (fun p => runsWithin g p.runs))

/-- Is a Loaf location valid for n bytes (R102), in the weight set. -/
def locationOk (i : RecipeInfo) (loc n : Nat) : Bool :=
  loc / 2 ^ 32 < 12 && loc % 2 ^ 21 + n ≤ 0x180000
    && i.weightRuns.any (fun r => runHas r (loc / 2 ^ 32) (loc % 2 ^ 32 / 2 ^ 22))

/-- The groups, the places of the weight data, the stream slots and the resident tensors of a placement (R102, R111,
R220). -/
def placesOk (i : RecipeInfo) : Bool :=
  i.groups.length ≤ 4096 && i.groups.all (groupOk i) && i.weightPlaces.all (fun p => locationOk i p.loc p.len)
    && i.slotSets.all (fun s => s.group < i.groups.length && s.base + s.count * s.rows i ≤ 12288)
    && i.residents.all (fun t => t.group < i.groups.length && t.base < 12288)

/-- The placement of a Recipe, against the census, the table and bench sets, and the other loaded Recipes. -/
def Device.placementOk (e : Env) (d : Device) (i : RecipeInfo) : Bool :=
  let rs := runsOf i
  let others := (d.recipes.map (fun r => runsOf r.2.info)).flatten
  let fixed := (upto 32).map (tableRun e) |>.filter (fun (r : Run) => r.count != 0)
  let outside := d.health.out ++ d.health.soft
  rs.all (fun r => r.slice < 12 && 1 ≤ r.count && r.first + r.count ≤ 1024)
    && runsApart rs && runPairs i.weightRuns > 0
    && rs.all (fun r => !(others ++ fixed).any (runsMeet r) && !outside.any (fun b => runHas r (b / 2048) (b % 2048 / 2)))
    && i.pools.all (fun p => p.base + p.slots * p.slotBytes / 2 ≤ 0x180000) && placesOk i

/-! ## Codes: detail 0x0005 -/

/-- Crumb operators (Table 05.4). -/
def crumbOps : List Nat := [0x01, 0x02, 0x03, 0x10, 0x11, 0x12, 0x18, 0x19, 0x1A, 0x1B, 0x1C, 0x20, 0x28]

/-- Oven operators (Table 06.2), those of job programs only at the end. -/
def ovenOps : List Nat :=
  [0x41, 0x42, 0x43, 0x50, 0x51, 0x52, 0x58, 0x59, 0x5A, 0x5B, 0x5C, 0x60, 0x68, 0x70, 0x71, 0x78, 0x79, 0x7A]

def jobOnly (op : Nat) : Bool := op == 0x78 || op == 0x79 || op == 0x7A

/-- Activation formats of a MAC: INT8, FP8, BF16, FP16, MXFP8 (R86). -/
def macActivation (f : Nat) : Bool := f == 0 || f == 2 || f == 3 || f == 4 || f == 5 || f == 7 || f == 8

/-- Operand formats of a record (R86). In attention the stored KV element stands in the place of the weight. -/
def formatsOk (op weight act : Nat) : Bool :=
  let mac := op == 0x01 || op == 0x02 || op == 0x28 || op == 0x41 || op == 0x42 || op == 0x68 || op == 0x71 || op == 0x7A
  let att := op == 0x11 || op == 0x12 || op == 0x51
  weight < 12 && act < 12 && (!(mac || att) || weight != 6) && (!(mac || att) || macActivation act)

/-- The attention mode in a record's aux field (R179). -/
def attMode (op : Nat) (r : OpRec) : Option Nat :=
  if op == 0x11 || op == 0x12 || op == 0x51 then some (bits r.q3 33 32) else none

/-- Attention of a crumb record runs in lane mode head pair (R173). DESIGN CHOICE (log 106): a record with another mode
there is refused as a code. -/
def lanesOk (r : OpRec) : Bool := (r.op != 0x11 && r.op != 0x12) || r.laneMode == 1

/-- A crumb record. `two` allows the bidirectional mode. -/
def crumbOk (two : Bool) (r : OpRec) : Bool :=
  let op := bits r.q0 7 0
  let mode := attMode op r
  crumbOps.contains op && lanesOk r && formatsOk op (bits r.q0 23 20) (bits r.q0 27 24) && mode != some 3 && (two || mode != some 2)

/-- An Oven record. -/
def ovenOk (two : Bool) (r : OpRec) : Bool :=
  let op := bits r.q0 7 0
  let mode := attMode op r
  ovenOps.contains op && formatsOk op (bits r.q0 11 8) (bits r.q0 15 12) && bits r.q0 19 16 < 12
    && mode != some 3 && (two || mode != some 2)

/-- A record of a job program: a nonzero duration (R153). -/
def jobRecOk (r : JobRec) : Bool := bits r.op.q0 63 32 != 0 && (if r.crumb then crumbOk true r.op else ovenOk true r.op)

/-- A side pattern: 32 entries of codes 0 to 4, some 0 (R105). -/
def patternOk (p : List Nat) : Bool := p.length == 32 && p.all (· ≤ 4) && p.contains 0

/-- Merge records strictly ascend by (left, right). -/
def mergesAscend : List Nat → Bool
  | a :: b :: r => decide (a % 2 ^ 32 * 2 ^ 32 + a / 2 ^ 32 < b % 2 ^ 32 * 2 ^ 32 + b / 2 ^ 32) && mergesAscend (b :: r)
  | _ => true

/-- One merge record (R309). -/
def mergeOk (s : List Byte) (q0 q1 : Nat) : Bool :=
  let a := q0 % 2 ^ 32
  let b := q0 / 2 ^ 32
  let c := q1 % 2 ^ 32
  [a, b, c].all (fun t => t < millV s && !tokControl s t && !tokUnused s t)
    && tokString s c == tokString s a ++ tokString s b

/-- The content of the Mill tables (R309). -/
def millOk (s : List Byte) : Bool :=
  let v := millV s
  let m := millMerges s
  let uni := secNat s 6 1 == 1
  let off := fun (o : Nat) => secNat s o 8
  let fits := fun (o n : Nat) => off o + n ≤ s.length
  let zero := fun (o k : Nat) => ((s.drop o).take k).all (· == 0)
  let q := fun (i o : Nat) => secNat s (off 0x38 + 16 * i + o) 8
  128 ≤ s.length && secNat s 0 4 == 0x4C4C494D && secNat s 4 2 == 1 && secNat s 6 1 ≤ 1 && secNat s 7 1 ≤ 3
    && 1 ≤ v && v ≤ 262144 && m ≤ 4194304 && 16 ≤ millLimit s && millLimit s ≤ 1024
    && zero 0x14 4 && zero 0x50 48
    && fits 0x18 (8 * v) && fits 0x20 0 && fits 0x28 8704 && fits 0x30 32 && fits 0x38 (16 * m)
    && (!uni || fits 0x40 (4 * v)) && fits 0x48 1024
    && (upto v).all (fun t => let w := vocabEntry s t
        off 0x20 + bits w 31 0 + bits w 39 32 ≤ s.length && bits w 63 42 == 0)
    && (upto 256).all (fun b => byteToken s b < v && tokString s (byteToken s b) == [BitVec.ofNat 8 b])
    && mergesAscend ((upto m).map (fun i => q i 0))
    && ((upto m).map (fun i => q i 8 / 2 ^ 32)).eraseDups.length == m
    && (upto m).all (fun i => mergeOk s (q i 0) (q i 8))
    && (!uni || millFlag s 0)
    && (upto 4352).all (fun i => fits 0x28 (8704 + 128 * (secNat s (off 0x28 + 2 * i) 2 + 1)))

/-- Bytes of the Mill store in use (Table 12.10). -/
def Device.millUsed (d : Device) : Nat := (d.recipes.map (fun r => r.2.mill.length)).sum

/-- Step 5, codes. The Oven section holds the prefill program, then the embed program. -/
def Device.codesOk (e : Env) (d : Device) (im : List Byte) (i : RecipeInfo) : Bool :=
  let mill := sectionBytes im 7
  let oven := sectionRecords (sectionBytes im 4)
  let prefill := oven.take i.prefillRecords
  (sectionRecords (sectionBytes im 3)).all (crumbOk false)
    && prefill.all (fun r => ovenOk false r && !jobOnly (bits r.q0 7 0))
    && (oven.drop i.prefillRecords).all (ovenOk true)
    && i.jobs.length ≤ 64 && i.jobs.all (fun p => p.all jobRecOk)
    && patternOk i.weightPattern && i.weightPattern.contains 3 && i.pools.all (fun p => patternOk p.pattern)
    && (mill.isEmpty || (millOk mill && d.millUsed + mill.length ≤ millStore e))
    && (i.eos ++ i.tokenIds).all (· < i.vocab)

/-! ## Pools: detail 0x0006 -/

/-- A page scale: finite, above zero (R84). -/
def scaleOk (s : Nat) : Bool := 0 < s && s < 0x7F800000

/-- Table 07.1. -/
def poolOk (p : PoolInfo) : Bool :=
  let kv := p.write ≤ 2
  [16, 32, 64, 128, 256, 512, 1024].contains p.tokens && [16384, 32768, 65536].contains p.frame
    && p.elemBytes ≤ p.frame && p.write ≤ 4
    && (if kv then p.minRead ≤ p.write && 1 ≤ p.heads && p.heads ≤ 64 && 32 ≤ p.dim && p.dim ≤ 512 else p.minRead == p.write)
    && (2 ≤ p.write || p.dim % 32 == 0)
    && 1 ≤ p.slots && p.slots ≤ 1024 && p.slots * p.slotBytes ≤ 3 * 2 ^ 20
    && p.bench ≤ 65535 && p.bench ≤ p.total && p.lowWater ≤ 65535 && p.pattern.contains 3

/-- Pools, page scales of KV4 layers, rings of local layers (R169). -/
def poolsOk (i : RecipeInfo) : Bool :=
  i.pools.all poolOk
    && (upto i.layers.length).all (fun l =>
      let y := i.layer l
      ((i.layerPool l).write != 0 || y.kind == 3 || (scaleOk y.kScale && scaleOk y.vScale))
        && (y.kind != 2 || (1 ≤ y.window && i.ringN l ≤ 512)))

/-! ## Program stores (R113, R140): detail 0x0007; stream table (R236): detail 0x0008 -/

/-- Records that an image puts into each Slice's program store and into the Oven's, those of its job programs with them. -/
def crumbCount (im : List Byte) (i : RecipeInfo) : Nat :=
  (sectionBytes im 3).length / 32 + (i.jobs.flatten.filter (fun r => r.crumb)).length
def ovenCount (im : List Byte) (i : RecipeInfo) : Nat :=
  (sectionBytes im 4).length / 32 + (i.jobs.flatten.filter (fun r => !r.crumb)).length

def Device.storesOk (d : Device) (im : List Byte) (i : RecipeInfo) : Bool :=
  (d.recipes.map (fun r => r.2.crumbRecords)).sum + crumbCount im i ≤ 262144
    && (d.recipes.map (fun r => r.2.ovenRecords)).sum + ovenCount im i ≤ 131072

/-- The entries of a stream table. -/
def streamTable (s : List Byte) : List StreamEntry := (sectionRecords s).map (fun r => ⟨r.q0, r.q1, r.q2, r.q3⟩)

/-- One entry. Its slot set lies in the weight set, so that no entry lies in a KV pool. -/
def streamOk (i : RecipeInfo) (x : StreamEntry) : Bool :=
  let k := bits x.q0 1 0
  let expert := bit x.q0 2
  let shadow := bits x.q3 63 32
  ((k != 2 && k != 3) || expert)
    && (k != 1 || (shadow != lim32 && (i.residents[shadow]?.map (·.length)) == some (bits x.q2 63 32)))
    && (!bit x.q0 3 || expert) && bits x.q1 31 0 ≤ bits x.q1 63 32
    && (match i.slotSets[bits x.q0 11 4]? with
      | some s => runsWithin (i.groups.getD s.group []) i.weightRuns
      | none => false)

def streamsOk (i : RecipeInfo) (s : List Byte) : Bool := s.length / 32 ≤ 65536 && (streamTable s).all (streamOk i)

/-- Are the reserved bits of an attention record's aux field zero (R179). -/
def auxOk (r : OpRec) : Bool := (attMode r.op r).isNone || (!bit r.q3 35 && bits r.q3 63 52 == 0)

/-- Reserved bits and codes of a crumb record (Table 05.5), an Oven record (Table 06.3), a stream entry (Table 09.6). -/
def crumbClear (r : OpRec) : Bool := r.laneMode != 3 && bits r.q0 31 30 == 0 && auxOk r
def ovenClear (r : OpRec) : Bool := bits r.q0 31 22 == 0 && auxOk r
def streamClear (x : StreamEntry) : Bool := bits x.q0 15 12 == 0 && bits x.q0 63 48 == 0

/-- Is nothing reserved set in an image's programs and stream table (R8). -/
def reservedClear (im : List Byte) (i : RecipeInfo) : Bool :=
  (sectionRecords (sectionBytes im 3)).all crumbClear && (sectionRecords (sectionBytes im 4)).all ovenClear
    && i.jobs.all (fun p => p.all (fun r => if r.crumb then crumbClear r.op else ovenClear r.op))
    && (streamTable (sectionBytes im 6)).all streamClear

/-- Step 5: the first section check that fails, as status and detail (Table 09.13); what is reserved puts the image out of
range, before these checks (R8, log 106). -/
def Device.imageFault (e : Env) (d : Device) (im : List Byte) (i : RecipeInfo) : Option (Nat × Nat) :=
  if !reservedClear im i then some (0x20, 3)
  else if !d.placementOk e i then some (0x21, 4)
  else if !d.codesOk e im i then some (0x21, 5)
  else if !poolsOk i then some (0x21, 6)
  else if !d.storesOk im i then some (0x21, 7)
  else if !streamsOk i (sectionBytes im 6) then some (0x21, 8)
  else none

/-! ## RECIPE_LOAD (R244) -/

/-- A Recipe area block for an image. -/
def Device.recipeBlock (e : Env) (d : Device) (len : Nat) : Option Nat :=
  lowestFree (d.recipes.map (fun r => (r.2.area, roundUp r.2.length 4096))) 4096 len (recipeArea e + recipeSize e)
    (d.recipes.length + 1) (recipeArea e)

/-- The weight data go to their places in the Loaf, in the order of the section. -/
def putWeights (ps : List WeightPlace) (bs : List Byte) (m : Memory) : Memory :=
  (ps.foldl (fun (a : Memory × List Byte) p => (mwrites 0 a.1 p.loc (a.2.take p.len), a.2.drop p.len)) (m, bs)).1

/-- Steps 6 and 7: the slot is loaded, its weights lie in the weight set; of the image the origins stay in the Recipe
area. -/
def Device.installRecipe (d : Device) (slot a : Nat) (im : List Byte) (i : RecipeInfo) : Device :=
  let s : RecipeSlot := {
    loaded := true, replace := false, info := i, digest := secNat im 0x40 64, area := a,
    length := im.length, mill := sectionBytes im 7, crumbRecords := crumbCount im i,
    ovenRecords := ovenCount im i, weights := sectionBytes im 8, crumb := sectionBytes im 3,
    ovenCode := sectionBytes im 4, streams := streamTable (sectionBytes im 6) }
  let d := d.lpClear a (a + roundUp im.length 4096)
  let d := match (sectionTable im).find? (fun x => x.kind == 9) with
    | some x => d.lpWrites (a + x.off) ((im.drop x.off).take x.len)
    | none => d
  { d with loaf := putWeights i.weightPlaces s.weights d.loaf, recipes := tset d.recipes slot s }

/-- RECIPE_LOAD. A host read that fails does so at the first read. -/
def effRecipeLoad (hostOk bankOk : Bool) (i : RecipeInfo) (e : Env) (d : Device) (f : Fetched) : Device :=
  let len := bits (f.w 3) 39 0
  if (d.recipe f.recipe).isSome then d.completeD e f 0x21 0x000B 0
  else if !hostOk then d.completeD e f 0x20 0x000A 0
  else
    let im := d.hostRead (f.w 2) len
    if !imageOk im len then d.completeD e f 0x21 1 0
    else match d.recipeBlock e len with
      | none => d.completeD e f 0x21 3 0
      | some a =>
        if sha512 (im.drop 0x100) != (im.drop 0x40).take 64 then d.completeD e f 0x21 2 0
        else match d.imageFault e im i with
          | some k => d.completeD e f k.1 k.2 0
          | none =>
            if !bankOk then d.completeD e f 0x43 4 0
            else (d.installRecipe f.recipe a im i).completeD e f 0 0 0

/-! ## RECIPE_UNLOAD (R247) -/

/-- Is a slot in use: a live request, a job not ended, an EMBED in flight. -/
def Device.slotInUse (d : Device) (r : Nat) : Bool :=
  d.reqs.any (fun q => q.2.live && q.2.recipe == r) || d.kn.jobs.any (fun j => j.recipe == r)
    || d.oven.embeds.any (fun x => x.recipe == r)

/-- Steps 1 to 5. -/
def Device.unloadRecipe (d : Device) (r : Nat) (s : RecipeSlot) : Device :=
  let d := d.cancelMoves (fun m => match m.obj with
    | .page c _ _ => (d.ctx c).recipe == r
    | .tensor r' _ => r' == r
    | .log _ => false)
  let d := (d.ctxs.filter (fun c => c.2.held && c.2.recipe == r)).foldl (fun d c => d.dropAll c.1) d
  let d := (d.blocks.filter (fun b => b.2.recipe == r)).foldl (fun d b => d.dropBlock b.1) d
  let d := d.keepGrammars (fun g => g.2.recipe != r)
  let d := d.lpClear s.area (s.area + roundUp s.length 4096)
  let banks := runsOf s.info
  let inRuns := fun (a : Nat) => banks.any (fun x => runHas x (a / 2 ^ 32) (a % 2 ^ 32 / 2 ^ 22))
  { d with
    adapters := d.adapters.filter (fun a => a.2.recipe != r)
    frames := d.frames.filter (fun f => f.1 / 2 ^ 40 != r)
    loaf := d.loaf.filter (fun c => !inRuns c.1)
    peel := { d.peel with resident := d.peel.resident.filter (fun x => x.1 / 65536 != r) }
    recipes := tdel d.recipes r }

def effRecipeUnload (e : Env) (d : Device) (f : Fetched) : Device :=
  match d.recipe f.recipe with
  | none => d.completeD e f 0 1 0
  | some s =>
    if d.slotInUse f.recipe then d.completeD e f 0x21 0x000B 0
    else (d.unloadRecipe f.recipe s).completeD e f 0 0 0

/-! ## Adapters (R270–R275) -/

/-- Free adapter frames of a Recipe. -/
def Device.adapterRoom (d : Device) (r : Nat) (i : RecipeInfo) : Nat :=
  i.adapterFrames - ((d.adapters.filter (fun a => a.2.recipe == r)).map (fun a => (a.2.versions.map (·.2)).sum)).sum

/-- Is an adapter image refused (R272). -/
def Device.adapterBad (d : Device) (r slot version len : Nat) (s : RecipeSlot) (im : List Byte) : Bool :=
  let n := secNat im 0x10 8
  let old := (tfind d.adapters slot).getD ⟨r, none, [], []⟩
  secNat im 0 4 != 0x50435241 || secNat im 4 2 != 1 || secNat im 8 8 != s.digest % 2 ^ 64 || 64 + n != len
    || version = 0 || version = 255 || old.versions.any (fun v => v.1 == version) || old.recipe != r
    || (old.versions.filter (fun v => old.current != some v.1)).length ≥ 8
    || ceilDiv n s.info.adapterBytes > d.adapterRoom r s.info

/-- ADAPTER_LOAD. -/
def effAdapterLoad (hostOk : Bool) (e : Env) (d : Device) (f : Fetched) : Device :=
  let len := bits (f.w 3) 39 0
  match d.recipe f.recipe with
  | none => d.completeD e f 0x21 0x000A 0
  | some s =>
    if !hostOk then d.completeD e f 0x20 0x000A 0
    else
      let im := d.hostRead (f.w 2) len
      if d.adapterBad f.recipe f.adapter f.version len s im then d.completeD e f 0x20 3 0
      else
        let old := (tfind d.adapters f.adapter).getD ⟨f.recipe, none, [], []⟩
        let a : AdapterSlot := { old with
          current := some f.version
          versions := old.versions ++ [(f.version, ceilDiv (secNat im 0x10 8) s.info.adapterBytes)]
          data := old.data ++ [(f.version, im.drop 64)] }
        ({ d with adapters := tset d.adapters f.adapter a } : Device).sweepAdapters.completeD e f 0 0 0

/-- ADAPTER_RETIRE. -/
def effAdapterRetire (e : Env) (d : Device) (f : Fetched) : Device :=
  match tfind d.adapters f.adapter with
  | none => d.completeD e f 0 1 0
  | some a =>
    if a.recipe != f.recipe || !a.versions.any (fun v => v.1 == f.version) then d.completeD e f 0 1 0
    else
      let a := if a.current == some f.version then { a with current := none } else a
      ({ d with adapters := tset d.adapters f.adapter a } : Device).sweepAdapters.completeD e f 0 0 0

/-! ## The commands -/

def execRecipeLoad (t ring : Nat) (hostOk bankOk : Bool) (info : RecipeInfo) (s : State) :
    Host.Outcome State Fault Refusal := s.act t (onDesc ring 0x18 (effRecipeLoad hostOk bankOk info))
def execRecipeUnload (t ring : Nat) (s : State) : Host.Outcome State Fault Refusal :=
  s.act t (onDesc ring 0x19 effRecipeUnload)
def execAdapterLoad (t ring : Nat) (hostOk : Bool) (s : State) : Host.Outcome State Fault Refusal :=
  s.act t (onDesc ring 0x1A (effAdapterLoad hostOk))
def execAdapterRetire (t ring : Nat) (s : State) : Host.Outcome State Fault Refusal :=
  s.act t (onDesc ring 0x1B effAdapterRetire)

end Sys2Proof.Machine
end

