-- ==== Sys2Proof/Machine/Sift.lean ====
section
/-! DEFINITION. The Sifter (13: R324–R346): index table, walk, scan, re-rank, results; CREATE, INSERT, TOMBSTONE and
DESTROY; query contexts and the order of descriptors on a handle. Index contents are the bytes of the Sifter area. -/

namespace Sys2Proof.Machine

/-! ## Indexes (R327–R330) -/

/-- An index table entry (Table 13.2). -/
structure SiftIndex where
  valid : Bool
  width : Nat
  levels : Nat
  format : Nat
  dim : Nat
  base : Nat
  size : Nat
  root : Nat
  free : Nat
  inserted : Nat
  tombs : Nat
  deriving DecidableEq, Repr

def siftEntry (e : Env) (h : Nat) : Nat := siftBase e + 64 * h

/-- Bytes of a vector element. -/
def vecElem (format : Nat) : Nat := if format = 2 then 1 else if format = 4 then 2 else 4

/-- Q0 of an index entry, or of an image header, as its fields. -/
def siftShape (q0 : Nat) : SiftIndex :=
  ⟨bit q0 0, 128 * 2 ^ bits q0 2 1, bits q0 5 3, bits q0 9 6, bits q0 23 10, 0, 0, 0, 0, 0, 0⟩

/-- A valid index of a handle. -/
def Device.siftIndex (e : Env) (d : Device) (h : Nat) : Option SiftIndex :=
  let q := fun (i : Nat) => d.lpNat (siftEntry e h + 8 * i) 8
  if h = 0 || h ≥ 4096 || !bit (q 0) 0 then none
  else some { siftShape (q 0) with base := q 1, size := q 2, root := q 3, free := q 4, inserted := bits (q 5) 39 0,
                                   tombs := bits (q 6) 39 0 }

/-- The entry's Q0. -/
def SiftIndex.q0 (x : SiftIndex) : Nat :=
  1 + (if x.width = 128 then 0 else if x.width = 256 then 1 else 2) * 2 + x.levels * 2 ^ 3 + x.format * 2 ^ 6 + x.dim * 2 ^ 10

/-- Write a handle's entry. -/
def Device.putIndex (e : Env) (d : Device) (h : Nat) (x : SiftIndex) : Device :=
  d.lpWrites (siftEntry e h) (toBytes 8 x.q0 ++ toBytes 8 x.base ++ toBytes 8 x.size ++ toBytes 8 x.root
    ++ toBytes 8 x.free ++ toBytes 8 (x.inserted % 2 ^ 40) ++ toBytes 8 (x.tombs % 2 ^ 40) ++ toBytes 8 0)

/-- Bytes of a sketch; slots of a leaf group; offset of its ID block; its bytes (R329). -/
def SiftIndex.sk (x : SiftIndex) : Nat := x.width / 8
def SiftIndex.slots (x : SiftIndex) : Nat := if x.width = 128 then 250 else if x.width = 256 then 125 else 62
def SiftIndex.idOff (x : SiftIndex) : Nat := 4096 + roundUp (16 * x.slots) 1024
def SiftIndex.groupBytes (x : SiftIndex) : Nat := 4096 + 2 * roundUp (16 * x.slots) 1024
def SiftIndex.vecBytes (x : SiftIndex) : Nat := x.dim * vecElem x.format

/-- A number of an index, at an offset within it. -/
def Device.ix (d : Device) (x : SiftIndex) (off n : Nat) : Nat := d.lpNat (x.base + off) n
def Device.setIx (d : Device) (x : SiftIndex) (off n v : Nat) : Device := d.lpStore (x.base + off) n v

/-! ## The walk (R333) -/

def hamming (w a b : Nat) : Nat := popCount w (a ^^^ b)

/-- An entry reached by the walk: its distance and where its child offset lies. -/
structure Reached where
  dist : Nat
  rank : Nat
  index : Nat
  ptr : Nat
  deriving DecidableEq, Repr

def Reached.le (a b : Reached) : Bool :=
  a.dist < b.dist || (a.dist == b.dist && (a.rank < b.rank || (a.rank == b.rank && a.index ≤ b.index)))

/-- The entries of a node of the frontier. -/
def Device.nodeEntries (d : Device) (x : SiftIndex) (q rank node : Nat) : List Reached :=
  (upto (d.ix x node 2 % 8192)).map (fun i =>
    let o := node + 64 + i * (x.sk + 8)
    ⟨hamming x.width q (d.ix x o x.sk), rank, i, o + x.sk⟩)

/-- One level of the walk: the places of the child offsets kept. -/
def Device.walkLevel (d : Device) (x : SiftIndex) (q probe : Nat) (F : List Nat) : List Nat :=
  ((sortBy Reached.le (F.zipIdx.map (fun y => d.nodeEntries x q y.2 y.1)).flatten).take probe).map (·.ptr)

/-- Levels of the walk from a frontier of nodes: the places of the child offsets kept at the last level. -/
def Device.walkFrom (d : Device) (x : SiftIndex) (q probe : Nat) : Nat → List Nat → List Nat
  | 0, _ => []
  | k + 1, F =>
    let kept := d.walkLevel x q probe F
    if k = 0 then kept else d.walkFrom x q probe k (kept.map (fun p => d.ix x p 8))

/-- The nodes that those levels read. -/
def Device.walkNodes (d : Device) (x : SiftIndex) (q probe : Nat) : Nat → List Nat → List Nat
  | 0, _ => []
  | k + 1, F => F ++ (if k = 0 then [] else d.walkNodes x q probe k ((d.walkLevel x q probe F).map (fun p => d.ix x p 8)))

def Device.walk (d : Device) (x : SiftIndex) (q probe : Nat) : List Nat := d.walkFrom x q probe x.levels [x.root]

/-- The groups of a leaf in chain order. -/
def Device.chain (d : Device) (x : SiftIndex) : Nat → Nat → List Nat
  | 0, _ => []
  | k + 1, g => if g = 0 then [] else g :: d.chain x k (d.ix x g 8)

def SiftIndex.fuel (x : SiftIndex) : Nat := x.size / 1024 + 1

/-! ## Filter and scan (R332, R334) -/

/-- The filter of a query block (Table 13.4). -/
structure SiftFilter where
  on : Bool
  all : Nat
  none : Nat
  any : Nat
  aLow : Nat
  aHigh : Nat
  bLow : Nat
  bHigh : Nat
  deriving DecidableEq, Repr

def siftFilter (blk : List Byte) : SiftFilter :=
  ⟨bit (secNat blk 0 2) 15, secNat blk 8 8, secNat blk 0x10 8, secNat blk 0x18 8, secNat blk 0x20 4, secNat blk 0x24 4,
   secNat blk 0x28 4, secNat blk 0x2C 4⟩

/-- Does a record pass. -/
def SiftFilter.passes (f : SiftFilter) (tag a b : Nat) : Bool :=
  !f.on || (tag &&& f.all == f.all && tag &&& f.none == 0 && (f.any == 0 || tag &&& f.any != 0)
    && f.aLow ≤ a && a ≤ f.aHigh && f.bLow ≤ b && b ≤ f.bHigh)

/-- Is a group pruned by its header. -/
def Device.pruned (d : Device) (x : SiftIndex) (f : SiftFilter) (g : Nat) : Bool :=
  let u := d.ix x (g + 0x10) 8
  f.on && (u &&& f.all != f.all || (f.any != 0 && u &&& f.any == 0)
    || d.ix x (g + 0x1C) 4 < f.aLow || f.aHigh < d.ix x (g + 0x18) 4
    || d.ix x (g + 0x24) 4 < f.bLow || f.bHigh < d.ix x (g + 0x20) 4)

def Device.isTomb (d : Device) (x : SiftIndex) (g j : Nat) : Bool := bit (d.ix x (g + 0x30) 32) j

/-- A candidate: distance, scan rank, group and slot. -/
structure Candidate where
  dist : Nat
  rank : Nat
  group : Nat
  slot : Nat
  deriving DecidableEq, Repr

def Candidate.le (a b : Candidate) : Bool := a.dist < b.dist || (a.dist == b.dist && a.rank ≤ b.rank)

/-- What the scan of one group offers, and the tombstones it skips. `rank` is the scan rank of its slot 0. -/
def Device.scanGroup (d : Device) (x : SiftIndex) (f : SiftFilter) (q rank g : Nat) : List Candidate × Nat :=
  if d.pruned x f g then ([], 0) else
  let js := upto (d.ix x (g + 8) 2)
  let att := fun (j o n : Nat) => d.ix x (g + 4096 + 16 * j + o) n
  ((js.filter (fun j => !d.isTomb x g j && f.passes (att j 0 8) (att j 8 4) (att j 12 4))).map (fun j =>
      ⟨hamming x.width q (d.ix x (g + 96 + j * x.sk) x.sk), rank + j, g, j⟩),
    (js.filter (fun j => d.isTomb x g j)).length)

/-- The groups of the leaves reached, in order. -/
def Device.leafGroups (d : Device) (x : SiftIndex) (q probe : Nat) : List Nat :=
  ((d.walk x q probe).map (fun p => d.chain x x.fuel (d.ix x p 8))).flatten

/-- The scan of the leaves reached: the candidates kept, slots compared, tombstones skipped. -/
def Device.scan (d : Device) (x : SiftIndex) (f : SiftFilter) (q probe c : Nat) : List Candidate × Nat × Nat :=
  let parts := (d.leafGroups x q probe).zipIdx.map (fun y => d.scanGroup x f q (256 * y.2) y.1)
  let all := (parts.map (·.1)).flatten
  ((sortBy Candidate.le all).take c, all.length, (parts.map (·.2)).sum)

/-! ## Exact scores (R335) -/

/-- The elements of a vector as FP32 codes. -/
def vecElems (format dim : Nat) (bs : List Byte) : List Nat :=
  let n := vecElem format
  (upto dim).map (fun i =>
    let c := secNat bs (n * i) n
    if format = 2 then fE4M3.to32 c else if format = 4 then fBF16.to32 c else c)

/-- The sum of a group's products as FP32: exact and rounded once; products that are not finite decide it. -/
def groupDot (ps : List (Nat × Nat)) : Nat :=
  let term := fun (p : Nat × Nat) => match fFP32.dy p.1, fFP32.dy p.2 with
    | some u, some v => some (u.mul v)
    | _, _ => none
  let special := ps.filter (fun p => (term p).isNone)
  if special.isEmpty then ((ps.filterMap term).foldl Dy.add ⟨0, 0⟩).toF32
  else special.foldl (fun s p => fadd s (fmul p.1 p.2)) 0

/-- Sums of groups of 32, added in ascending order; `k` groups at most. -/
def addGroups : Nat → Nat → List (Nat × Nat) → Nat
  | 0, acc, _ => acc
  | k + 1, acc, ps => if ps.isEmpty then acc else addGroups k (fadd acc (groupDot (ps.take 32))) (ps.drop 32)

/-- Inner product: exact in groups of 32 elements, group sums rounded once and added in order. -/
def innerProduct (a b : List Nat) : Nat := addGroups a.length 0 (a.zip b)

/-- The score of a candidate's vector. -/
def siftScore (metric : Nat) (q v : List Nat) : Nat :=
  if metric = 0 then innerProduct q v
  else if metric = 1 then
    (let ds := (q.zip v).map (fun p => fsub p.1 p.2)
     innerProduct ds ds)
  else
    let qq := innerProduct q q
    let vv := innerProduct v v
    if qq % 2 ^ 31 = 0 || vv % 2 ^ 31 = 0 then 0
    else fmul (fmul (innerProduct q v) (frsqrt qq)) (frsqrt vv)

/-- Does one scored candidate rank no later than another (R336). -/
def scoreLe (metric : Nat) (a b : Candidate × Nat) : Bool :=
  let before := fun (x y : Nat) => if metric = 1 then flt x y else flt y x
  if isNan a.2 then isNan b.2 && a.1.le b.1
  else if isNan b.2 then true
  else before a.2 b.2 || (!before b.2 a.2 && a.1.le b.1)

/-! ## Queries (R331, R336–R338) -/

/-- Bytes of the query block of a SIFT: the vector is read only with a re-rank count (Table 13.4). -/
def blockBytes (x : Option SiftIndex) (q : List Nat) : Nat :=
  0x80 + (if bits (q.getD 3 0) 39 27 = 0 then 0 else (x.map SiftIndex.vecBytes).getD 0)

/-- A query block out of range (R331, R8): probe outside 1 to 4,096, metric 3, a nonzero rsvd field, or sketch bytes past
the first w / 8. -/
def queryBad (x : SiftIndex) (blk : List Byte) : Bool :=
  let w := secNat blk 0 8
  bits w 12 0 = 0 || bits w 12 0 > 4096 || bits w 14 13 = 3 || bits w 63 16 != 0 || secNat blk 0x30 16 != 0
    || secNat blk (0x40 + x.sk) (64 - x.sk) != 0

/-- The refusal of a SIFT at its query block (R331). What its descriptor alone shows is checked before (R447). -/
def siftFault (x : Option SiftIndex) (q : List Nat) (blk : List Byte) : Option Nat :=
  match x with
  | none => some 0x000C
  | some y => if queryBad y blk || passes (q.getD 2 0) (blockBytes x q) then some 3 else none

/-- A SIFT or SIFT_UPDATE ends: its context is free, and READs of vectors still out serve nothing any more. -/
def Device.endQuery (e : Env) (d : Device) (q : Query) (status detail result : Nat) : Device :=
  let s := d.sift
  let d := d.loseOps (fun o => q.ctx.any (fun c => o.user == .vector c))
  let d := { d with sift := { s with queries := s.queries.filter (fun y => y.seq != q.seq),
                                     completed := sat lim32 (s.completed + b2n (!q.update)) } }
  d.complete e ⟨q.seq, q.ring, q.cookie, none, status, 0, detail, result, 0,
    d.inflight.any (fun x => x.seq == q.seq && x.quiet)⟩

/-- The global address of a candidate's full vector (R330). -/
def Device.vecAddr (d : Device) (x : SiftIndex) (c : Candidate) : Nat :=
  d.ix x (c.group + x.idOff + 16 * c.slot + 8) 8 % 2 ^ 48

/-- The full vector of a candidate: local bytes, or what its READs brought. `i` is its place in the heap. -/
def Device.siftVector (e : Env) (d : Device) (x : SiftIndex) (q : Query) (localBad : List Nat) (i : Nat) (c : Candidate) :
    StageEnd × List Byte :=
  let a := d.vecAddr x c
  let off := bits a 41 0
  if bits a 47 42 = nodeNumber e then
    if localBad.contains i || d.anyPoison off x.vecBytes then (.bad, [])
    else (.ok, mreads 0 d.lp off x.vecBytes)
  else
    let parts := (upto (ceilDiv x.vecBytes 4096)).map (fun k => match q.got.find? (fun g => g.1 == a + 4096 * k) with
      | some g => g.2
      | none => (.dead, []))
    if parts.any (fun y => y.1 == .dead) then (.dead, [])
    else if parts.any (fun y => y.1 == .bad) then (.bad, [])
    else (.ok, (parts.map (·.2)).flatten.take x.vecBytes)

/-- Does a SIFT read an uncorrectable unit of its index: in a node block of its walk, the header of a group, the sketch
and attribute blocks of one not pruned, or an ID entry at the end (R334, R337). -/
def Device.siftReadsBad (d : Device) (x : SiftIndex) (q : Query) : Bool :=
  let c := bits (q.q.getD 3 0) 39 27
  let sk := secNat q.block 0x40 x.sk
  let probe := bits (secNat q.block 0 8) 12 0
  let f := siftFilter q.block
  let bad := fun (o n : Nat) => d.anyPoison (x.base + o) n
  (d.walkNodes x sk probe x.levels [x.root]).any (fun o => bad o (64 + d.ix x o 2 % 8192 * (x.sk + 8)))
    || (d.leafGroups x sk probe).any (fun g => bad g (if d.pruned x f g then 96 else x.idOff))
    || (d.scan x f sk probe (if c = 0 then bits (q.q.getD 3 0) 26 16 else c)).1.any (fun k => bad (k.group + x.idOff + 16 * k.slot) 16)

/-- The results of a SIFT: records, status and detail, tombstones skipped, slots compared. -/
def Device.siftRun (e : Env) (d : Device) (x : SiftIndex) (q : Query) (localBad : List Nat) : List (Candidate × Nat) × Nat × Nat × Nat × Nat :=
  let c := bits (q.q.getD 3 0) 39 27
  let k := bits (q.q.getD 3 0) 26 16
  let w := secNat q.block 0 8
  let (cs, seen, tombs) := d.scan x (siftFilter q.block) (secNat q.block 0x40 x.sk) (bits w 12 0) (if c = 0 then k else c)
  if c = 0 then (cs.map (fun y => (y, 0)), 0, 0, tombs, seen)
  else
    let metric := bits w 14 13
    let qv := vecElems x.format x.dim (q.block.drop 0x80)
    let got := cs.zipIdx.map (fun y => (y.1, d.siftVector e x q localBad y.2 y.1))
    let dead := got.any (fun g => g.2.1 == .dead)
    let bad := got.any (fun g => g.2.1 == .bad)
    let good := (got.filter (fun g => g.2.1 == .ok)).map (fun g => (g.1, siftScore metric qv (vecElems x.format x.dim g.2.2)))
    (sortBy (scoreLe metric) good, if dead then 0x41 else if bad then 0x43 else 0, if dead then 2 else if bad then 4 else 0,
      tombs, seen)

/-- A result record (Table 13.5). -/
def Device.resultRecord (d : Device) (x : SiftIndex) (r : Candidate × Nat) : List Byte :=
  toBytes 8 (d.ix x (r.1.group + x.idOff + 16 * r.1.slot) 8) ++ toBytes 8 (r.2 + r.1.dist * 2 ^ 32)

/-- A SIFT's query ends with its results. -/
def Device.finishSift (e : Env) (d : Device) (q : Query) (localBad : List Nat) : Device :=
  match d.siftIndex e q.handle with
  | none => d.endQuery e q 0x20 0x000C 0
  | some x =>
    if d.siftReadsBad x q then d.endQuery e q 0x43 5 0 else
    let k := bits (q.q.getD 3 0) 26 16
    let (rs, status, detail, tombs, seen) := d.siftRun e x q localBad
    let rs := rs.take k
    let d := d.hostWrite (q.q.getD 4 0) (rs.map (d.resultRecord x)).flatten
    let d := { d with sift := { d.sift with sketches := sat lim64 (d.sift.sketches + seen) } }
    d.endQuery e q status detail (rs.length + b2n (rs.length < k) * 2 ^ 11 + sat lim32 tombs * 2 ^ 12)

/-! ## Updates (R339–R344) -/

/-- The n-th record of an update block. -/
def updRec (blk : List Byte) (i : Nat) : List Byte := (blk.drop (128 * i)).take 128
def updKind (r : List Byte) : Nat := secNat r 0 1 % 8

/-- Is a record malformed, whatever its index: a rsvd kind or a nonzero rsvd field, low bits of an aligned address that
must be zero, or an image past 2^64 − 1 (Table 13.6, R8, R20). -/
def updBad (r : List Byte) : Bool :=
  let k := updKind r
  let w := secNat r 0 8
  k = 0 || k > 4 || bits w 63 4 != 0 || (bit w 3 && k != 2) || secNat r 0x30 16 != 0 || bits (secNat r 0x28 8) 63 49 != 0
    || (k == 1 && (secNat r 0x20 8 != 0 || bits (secNat r 0x10 8) 63 40 != 0 || secNat r 8 8 % 4096 != 0
      || passes (secNat r 8 8) (bits (secNat r 0x10 8) 39 0)))
    || (k == 2 && !bit w 3 && secNat r 0x10 8 % 64 != 0)

/-- Is an INSERT malformed for its index: sketch bytes past the first w / 8, or a host vector past 2^64 − 1 (Table 13.6,
R8, R20). -/
def insertBad (x : SiftIndex) (r : List Byte) : Bool :=
  updKind r == 2 && (secNat r (0x40 + x.sk) (64 - x.sk) != 0
    || (!bit (secNat r 0 1) 3 && passes (secNat r 0x10 8) x.vecBytes))

/-- The refusal of a whole update block (R340). -/
def updFault (x : Option SiftIndex) (handle n : Nat) (blk : List Byte) : Option Nat :=
  let rs := (upto n).map (updRec blk)
  let alone := rs.any (fun r => updKind r == 1 || updKind r == 4)
  if n = 0 || rs.any updBad || (alone && n != 1) then some 3
  else if handle = 0 || handle ≥ 4096 then some 0x000C
  else if x.isSome == rs.any (fun r => updKind r == 1) then some 0x000C
  else if x.any (fun y => rs.any (insertBad y)) then some 3
  else none

/-- Is a leaf chain of an image good: aligned groups within the used length, ending in it. -/
def chainOk (x : SiftIndex) (rdN : Nat → Nat → Nat) : Nat → Nat → Bool
  | 0, _ => false
  | k + 1, g => g == 0 || (g % 1024 == 0 && g + x.groupBytes ≤ x.free && chainOk x rdN k (rdN g 8))

/-- Is a node of an image good, with all below it; `k` levels remain. -/
def nodeOk (x : SiftIndex) (rdN : Nat → Nat → Nat) : Nat → Nat → Bool
  | 0, _ => false
  | k + 1, o =>
    let h := rdN o 2
    let f := h % 8192
    let child := fun (i : Nat) => rdN (o + 64 + i * (x.sk + 8) + x.sk) 8
    o != 0 && o % 64 == 0 && o + 64 ≤ x.free && h / 8192 == x.levels - k && 1 ≤ f && f ≤ 4096
      && o + 64 + f * (x.sk + 8) ≤ x.free
      && (upto f).all (fun i => if k = 0 then chainOk x rdN x.fuel (child i) else nodeOk x rdN k (child i))

/-- The groups of an index, by its root. -/
def Device.allGroups (d : Device) (x : SiftIndex) : List Nat :=
  ((d.walkFrom x 0 (2 ^ 64) x.levels [x.root]).map (fun p => d.chain x x.fuel (d.ix x p 8))).flatten

/-- CREATE (R341): the device after it, and whether the index was made. An image is checked once it is copied; one that
is not good is zeroed again. -/
def Device.siftCreate (e : Env) (d : Device) (h : Nat) (r : List Byte) : Device × Bool :=
  let len := bits (secNat r 0x10 8) 39 0
  let w := secNat r 0x18 8
  let base := siftBase e + bits w 31 0 * 2 ^ 20
  let size := bits w 63 32 * 2 ^ 20
  let im := d.hostRead (secNat r 8 8) len
  let q := fun (o n : Nat) => secNat im o n
  let x := { siftShape (q 8 8) with valid := true, base := base, size := size, root := q 0x10 8, free := q 0x18 8 }
  let other := (upto 4096).any (fun k => match d.siftIndex e k with
    | some y => y.base < base + size && base < y.base + y.size
    | none => false)
  let shape := x.width ≤ 512 && 1 ≤ x.levels && x.levels ≤ 6 && [2, 4, 6].contains x.format && x.dim % 32 == 0
    && 32 ≤ x.dim && x.dim ≤ 8192
  if base + size > siftBase e + siftSize e || base < siftBase e + 262144 || other || size < len || len < 64 then (d, false)
  else if q 0 4 != 0x54464953 || q 4 2 != 1 || !shape || x.free > len || !nodeOk x q x.levels x.root then
    (d.lpClear base (base + len), false)
  else
    let d := d.lpWrites base im
    let gs := d.allGroups x
    (d.putIndex e h { x with
      inserted := (gs.map (fun g => d.ix x (g + 8) 2)).sum
      tombs := (gs.map (fun g => popCount 256 (d.ix x (g + 0x30) 32))).sum }, true)

/-- Where an INSERT goes: group (new or not), slot, and the free offset after it; none when the area is too small. -/
def Device.siftPlace (d : Device) (x : SiftIndex) (ptr need : Nat) : Option (Nat × Nat × Option Nat × Nat × Nat) :=
  let gs := d.chain x x.fuel (d.ix x ptr 8)
  let last := gs.getLast?
  let room : Bool := match last with
    | some g => d.ix x (g + 8) 2 < x.slots
    | none => false
  let g := roundUp x.free 1024
  let free := if room then x.free else g + x.groupBytes
  let v := roundUp free 64
  let free' := if need = 0 then free else v + need
  if free' > x.size then none
  else if room then some (last.getD 0, d.ix x (last.getD 0 + 8) 2, none, v, free')
  else some (g, 0, some (match last with
    | some l => l
    | none => ptr), v, free')

/-- Fill a slot: sketch, attributes, ID, header. -/
def Device.fillSlot (d : Device) (x : SiftIndex) (g j : Nat) (r : List Byte) (addr : Nat) : Device :=
  let tag := secNat r 0x18 8
  let a := secNat r 0x20 4
  let b := secNat r 0x24 4
  let lo := fun (o v : Nat) => if j = 0 then v else (let old := d.ix x (g + o) 4; if v < old then v else old)
  let hi := fun (o v : Nat) => if j = 0 then v else (let old := d.ix x (g + o) 4; if old < v then v else old)
  let head := toBytes 8 (j + 1 + (d.ix x (g + 0xA) 2 + 1) * 2 ^ 16) ++ toBytes 8 (d.ix x (g + 0x10) 8 ||| tag)
    ++ toBytes 4 (lo 0x18 a) ++ toBytes 4 (hi 0x1C a) ++ toBytes 4 (lo 0x20 b) ++ toBytes 4 (hi 0x24 b)
  let d := d.lpWrites (x.base + g + 8) head
  let d := d.lpWrites (x.base + g + 96 + j * x.sk) ((r.drop 0x40).take x.sk)
  let d := d.lpWrites (x.base + g + 4096 + 16 * j) ((r.drop 0x18).take 16)
  d.lpWrites (x.base + g + x.idOff + 16 * j) ((r.drop 8).take 8 ++ toBytes 8 (addr % 2 ^ 48))

/-- INSERT (R342): the device, and whether the record was applied. `loc` is the record's location in host memory. -/
def Device.siftInsert (e : Env) (d : Device) (h : Nat) (r : List Byte) (loc : Nat) : Device × Bool :=
  match d.siftIndex e h with
  | none => (d.hostWrite loc (toBytes 8 0), false)
  | some x =>
    let fabricVec := bit (secNat r 0 1) 3
    let need := if fabricVec then 0 else x.vecBytes
    match (d.walk x (secNat r 0x40 x.sk) 1).head? with
    | none => (d.hostWrite loc (toBytes 8 0), false)
    | some ptr =>
      match d.siftPlace x ptr need with
      | none => (d.hostWrite loc (toBytes 8 0), false)
      | some (g, j, link, v, free) =>
        let d := match link with
          | some l => (d.lpClear (x.base + g) (x.base + g + x.groupBytes)).setIx x l 8 g
          | none => d
        let d := if fabricVec then d else d.lpWrites (x.base + v) (d.hostRead (secNat r 0x10 8) need)
        let addr := if fabricVec then secNat r 0x10 8 else nodeNumber e * 2 ^ 42 + x.base + v
        let d := (d.fillSlot x g j r addr).putIndex e h { x with free := free, inserted := x.inserted + 1 }
        (d.hostWrite loc (toBytes 8 (g / 1024 + j * 2 ^ 40 + 2 ^ 48)), true)

/-- TOMBSTONE (R343). -/
def Device.siftTombstone (e : Env) (d : Device) (h : Nat) (r : List Byte) : Device × Bool :=
  match d.siftIndex e h with
  | none => (d, false)
  | some x =>
    let w := secNat r 0x28 8
    let g := bits w 39 0 * 1024
    let j := bits w 47 40
    if !bit w 48 || g = 0 || g + x.groupBytes > x.free || j ≥ d.ix x (g + 8) 2 || d.isTomb x g j
        || d.ix x (g + x.idOff + 16 * j) 8 != secNat r 8 8 then (d, false)
    else
      let d := d.setIx x (g + 0x30) 32 (d.ix x (g + 0x30) 32 + 2 ^ j)
      let d := d.setIx x (g + 0xA) 2 (d.ix x (g + 0xA) 2 - 1)
      (d.putIndex e h { x with tombs := x.tombs + 1 }, true)

/-- DESTROY (R344). -/
def Device.siftDestroy (e : Env) (d : Device) (h : Nat) : Device :=
  match d.siftIndex e h with
  | none => d
  | some x => (d.lpClear x.base (x.base + x.size)).lpClear (siftEntry e h) (siftEntry e h + 64)

/-- The records of a block applied in order; the count of those applied. -/
def Device.applyUpdates (e : Env) (d : Device) (q : Query) (n : Nat) : Device × Nat :=
  (upto n).foldl (fun (s : Device × Nat) i =>
    let r := updRec q.block i
    let (d, ok) := if updKind r = 2 then s.1.siftInsert e q.handle r (q.q.getD 2 0 + 128 * i + 0x28)
      else s.1.siftTombstone e q.handle r
    (d, s.2 + b2n ok)) (d, 0)

/-- A SIFT_UPDATE ends. -/
def Device.finishUpdate (e : Env) (d : Device) (q : Query) : Device :=
  let n := bits (q.q.getD 3 0) 47 16
  let r := updRec q.block 0
  if updKind r = 1 then
    let (d, ok) := d.siftCreate e q.handle r
    if ok then d.endQuery e q 0 0 1 else d.endQuery e q 0x20 3 0
  else if updKind r = 4 then (d.siftDestroy e q.handle).endQuery e q 0 0 1
  else
    let (d, k) := d.applyUpdates e q n
    d.endQuery e q 0 0 k

/-! ## The commands -/

/-- A descriptor joins the queries. -/
def effSift (update hostOk : Bool) (e : Env) (d : Device) (f : Fetched) : Device :=
  match f.ring with
  | none => d
  | some ring =>
    if !hostOk then d.completeD e f 0x20 0x000A 0
    else
      let q : Query := ⟨f.seq, ring, f.cookie, f.seq, update, f.q, bits (f.w 3) 15 0, none, 0, [], []⟩
      { d with sift := { d.sift with queries := d.sift.queries ++ [q] } }

/-- May a query take a context: of what stands before it on its handle, an update waits for all, a SIFT for updates. -/
def mayTake : List Query → Query → Bool
  | [], _ => false
  | y :: r, q => if y.seq == q.seq then true else (y.handle != q.handle || !(q.update || y.update)) && mayTake r q

/-- A SIFT that re-ranks asks for the vectors that lie at other nodes: READs on the bulk move channel, of the Sifter's
traffic kind (R335, Table 15.1). -/
def Device.askVectors (e : Env) (d : Device) (c : Nat) (q : Query) : Device :=
  match d.siftIndex e q.handle with
  | none => d
  | some x =>
    let n := bits (q.q.getD 3 0) 39 27
    if q.update || n = 0 || d.siftReadsBad x q then d else
    let heap := (d.scan x (siftFilter q.block) (secNat q.block 0x40 x.sk) (bits (secNat q.block 0 8) 12 0) n).1
    heap.foldl (fun d k =>
      let a := d.vecAddr x k
      if bits a 47 42 = nodeNumber e then d
      else (readOps (bits a 47 42) (bits a 41 0) x.vecBytes 6 (.vector c)).foldl (fun d o => d.ask o) d) d

/-- READs of a context's vectors that have no answer yet. -/
def Device.vectorsOut (d : Device) (c : Nat) : Bool :=
  d.pem.ops.any (fun o => o.user == .vector c) || d.pem.waiting.any (fun o => o.user == .vector c)

/-- SIFT_CONTEXT_GRANT: the earliest descriptor that may start takes a free context and begins its reads, or is refused. -/
def effContextGrant (e : Env) (d : Device) : Device :=
  let qs := d.sift.queries
  if !d.serving e || d.jobHolds then d else
  match (upto 16).find? (fun i => !qs.any (fun q => q.ctx == some i)), qs.find? (fun q => q.ctx.isNone && mayTake qs q) with
  | some c, some q =>
    let x := d.siftIndex e q.handle
    let n := bits (q.q.getD 3 0) 47 16
    let len := if q.update then 128 * n else blockBytes x q.q
    let blk := d.hostRead (q.q.getD 2 0) len
    (match (if q.update then updFault x q.handle n blk else siftFault x q.q blk) with
    | some k =>
      let d := { d with sift := { d.sift with queries := qs.filter (fun y => y.seq != q.seq) } }
      d.complete e ⟨q.seq, q.ring, q.cookie, none, 0x20, 0, k, 0, 0, d.inflight.any (fun y => y.seq == q.seq && y.quiet)⟩
    | none =>
      let go := fun (y : Query) => if y.seq == q.seq then { y with ctx := some c, since := e.now, block := blk } else y
      let d := { d with sift := { d.sift with queries := qs.map go } }
      (d.askVectors e c (go q)).settleFabric e)
  | _, _ => d

/-- SIFT_QUERY_LIMIT: a SIFT still in progress past the limit ends with no results (R337). -/
def effQueryLimit (c : Nat) (e : Env) (d : Device) : Device :=
  match d.sift.queries.find? (fun q => q.ctx == some c && !q.update) with
  | none => d
  | some q => if d.serving e && q.since + queryLimit e ≤ e.now then d.endQuery e q 0x31 2 0 else d

/-- SIFT_COMPLETE: the query of a context ends, its READs answered. `localBad`: places of the heap whose local vector was
found uncorrectable; `blockBad`: so was the query or update block (R337). Results and locations are writes for the host,
which wait for the link (R21). -/
def effSiftComplete (c : Nat) (localBad : List Nat) (blockBad : Bool) (e : Env) (d : Device) : Device :=
  match d.sift.queries.find? (fun q => q.ctx == some c) with
  | none => d
  | some q =>
    if !d.serving e || !d.hif.linkUp || d.vectorsOut c then d
    else if blockBad then d.endQuery e q 0x43 5 0
    else if q.update then d.finishUpdate e q
    else d.finishSift e q localBad

def execSift (t ring : Nat) (hostOk : Bool) (s : State) : Host.Outcome State Fault Refusal :=
  s.act t (onDesc ring 0x21 (effSift false hostOk))
def execSiftUpdate (t ring : Nat) (hostOk : Bool) (s : State) : Host.Outcome State Fault Refusal :=
  s.act t (onDesc ring 0x22 (effSift true hostOk))
def execSiftContextGrant (t : Nat) (s : State) : Host.Outcome State Fault Refusal := s.act t effContextGrant
def execSiftQueryLimit (t ctx : Nat) (s : State) : Host.Outcome State Fault Refusal := s.act t (effQueryLimit ctx)
def execSiftComplete (t ctx : Nat) (localBad : List Nat) (blockBad : Bool) (s : State) : Host.Outcome State Fault Refusal :=
  s.act t (effSiftComplete ctx localBad blockBad)

end Sys2Proof.Machine
end

