-- ==== Sys2Proof/Machine/Damper.lean ====
section
/-! DEFINITION. The Damper and the pins (17: R397–R410): pace, freeze and thaw, thermal levels and factor, power
warning, throttling, ignored pulses. Sensor readings and pin changes come as operands. -/

namespace Sys2Proof.Machine

/-! ## What the Damper says of itself -/

/-- The Damper works: the device is powered and out of reset. -/
def Device.powered (d : Device) : Bool := d.mode != .off && d.mode != .held && d.mode != .waitGood

/-- A valid calibration set is in use (R393). -/
def Device.calValid (d : Device) : Bool := !d.hearth.calSet.isEmpty

/-- The throttle factor f (R404). -/
def Device.factor (e : Env) (d : Device) : Nat :=
  let t := if d.dmp.throttlePin then throttleFraction e else 16
  if t < d.dmp.thermalFactor then t else d.dmp.thermalFactor

/-- The effective share of an activity in 1/16 W (R404). -/
def Device.effectiveShare (e : Env) (d : Device) (a : Nat) : Nat := damperShare e a * d.factor e

/-- ALERT_N asserted: from PWR_GOOD high until the close of set-up (R436), by a halt, an idle device, a frozen domain,
a throttle level (R401, R405, R408, R412, R440). -/
def Device.alertPin (e : Env) (d : Device) : Bool :=
  d.mode == .held || (d.powered && (!e.closed || d.dmp.alert || !d.dmp.frozen.isEmpty || d.dmp.level ≥ 2))

/-! ## Pace (R397–R399) -/

/-- PACE_LOW for a domain as it stands. -/
def Device.paceEvent (e : Env) (d : Device) (dom pace mv tj : Nat) : Device :=
  let d := d.raise e 0x0005 (dom + b2n (d.dmp.below.contains dom) * 2 ^ 4 + pace % 65536 * 2 ^ 16 + paceFloor e dom * 2 ^ 32)
    (mv % 65536 + tj % 256 * 2 ^ 16)
  { d with dmp := { d.dmp with lastPace := tset d.dmp.lastPace dom e.now, heldPace := tdel d.dmp.heldPace dom } }

/-- A domain's 1-ms mean pace, with its supply and highest Tj. -/
def Device.notePace (d : Device) (dom pace mv : Nat) : Device :=
  let low := d.dmp.paceMin
  { d with dmp := { d.dmp with pace := tset d.dmp.pace dom pace, supply := tset d.dmp.supply dom mv,
                               paceMin := if dom = 12 && (low = 0 || pace < low) then pace else low } }

/-- PACE_LOW: the mean crosses the floor; within 1 s of the domain's last event it is held. -/
def effPaceLow (dom pace mv tj : Nat) (e : Env) (d : Device) : Device :=
  if !d.powered || dom > 12 || d.logicFrozen then d else
  let d := d.notePace dom pace mv
  let was := d.dmp.below.contains dom
  let now := pace < paceFloor e dom
  if was == now then d else
  let below := if was then d.dmp.below.filter (· != dom) else d.dmp.below ++ [dom]
  let d := { d with dmp := { d.dmp with below := below } }
  if !e.closed then d
  else if (tfind d.dmp.heldPace dom).isSome then { d with dmp := { d.dmp with heldPace := tdel d.dmp.heldPace dom } }
  else match tfind d.dmp.lastPace dom with
    | some t0 =>
      if e.now < t0 + 1000000000 then { d with dmp := { d.dmp with heldPace := tset d.dmp.heldPace dom (pace, mv, tj) } }
      else d.paceEvent e dom pace mv tj
    | none => d.paceEvent e dom pace mv tj

/-- PACE_LOW_DEFERRED: a held crossing that still holds at the end of the second. -/
def effPaceDeferred (dom : Nat) (e : Env) (d : Device) : Device :=
  match tfind d.dmp.heldPace dom, tfind d.dmp.lastPace dom with
  | some (pace, mv, tj), some t0 =>
    if !d.powered || d.logicFrozen || e.now < t0 + 1000000000 then d else d.paceEvent e dom pace mv tj
  | _, _ => d

/-! ## The freeze floor (R401, R402) -/

/-- FREEZE: below 0.50 V. -/
def effFreeze (dom mv : Nat) (e : Env) (d : Device) : Device :=
  if !d.powered || dom > 12 || mv ≥ 500 || d.dmp.frozen.contains dom then d
  else { d with dmp := { d.dmp with frozen := d.dmp.frozen ++ [dom], frozenAt := tset d.dmp.frozenAt dom e.now,
                                    pace := tset d.dmp.pace dom 0, supply := tset d.dmp.supply dom mv } }

/-- THAW: 0.52 V or more. A logic die that was over its limit, or owes a halt, halts now. -/
def effThaw (dom mv : Nat) (e : Env) (d : Device) : Device :=
  if !d.powered || mv < 520 || !d.dmp.frozen.contains dom then d
  else
    let past := dom == 12 && (match tfind d.dmp.frozenAt dom with
      | some t0 => decide (t0 + freezeLimitNs e < e.now)
      | none => false)
    let due := match d.dmp.haltPending with
      | some c => some c
      | none => if past then some 5 else none
    let d := { d with dmp := { d.dmp with frozen := d.dmp.frozen.filter (· != dom), frozenAt := tdel d.dmp.frozenAt dom,
                                          supply := tset d.dmp.supply dom mv } }
    if dom = 12 then
      (match due with
      | some c => ({ d with dmp := { d.dmp with haltPending := none } } : Device).halt e c
      | none => d)
    else d

/-- FREEZE_LIMIT: a domain frozen for longer than the limit. -/
def effFreezeLimit (dom : Nat) (e : Env) (d : Device) : Device :=
  match tfind d.dmp.frozenAt dom with
  | some t0 => if d.powered && d.dmp.frozen.contains dom && t0 + freezeLimitNs e < e.now then d.halt e 5 else d
  | none => d

/-! ## Heat (R405, R406) -/

/-- A threshold as it applies: 5 °C lower without a valid calibration set. -/
def Device.threshold (d : Device) (c : Nat) : Nat := if d.calValid then c else c - 5

/-- The level at a highest reading, from the present level (Table 17.2). -/
def Device.thermalLevel (e : Env) (d : Device) (tj : Nat) : Nat :=
  let l := d.dmp.level
  let warn := d.threshold (warnAt e)
  let thr := d.threshold (throttleAt e)
  if l = 3 || d.threshold 105 ≤ tj then 3
  else if thr ≤ tj || (l = 2 && thr ≤ tj + 3) then 2
  else if warn ≤ tj || (1 ≤ l && warn ≤ tj + 3) then 1
  else 0

/-- THERMAL as things stand. -/
def Device.thermalEvent (e : Env) (d : Device) : Device :=
  let m := d.dmp
  let d := d.raise e 0x0001 (m.level + m.tjDomain * 2 ^ 2 + m.tj % 256 * 2 ^ 6 + b2n d.calValid * 2 ^ 14) m.thermalFactor
  { d with dmp := { d.dmp with lastThermal := some e.now, heldLevel := false, reported := m.level } }

/-- THERMAL: the highest reading changes; a level change within 10 ms of the last event is held, level 3 is not. -/
def effThermal (dom tj : Nat) (e : Env) (d : Device) : Device :=
  if !d.powered || dom > 12 || d.logicFrozen then d else
  let l := d.thermalLevel e tj
  let was := d.dmp.level
  let d := { d with dmp := { d.dmp with level := l, tj := tj, tjDomain := dom } }
  if l = was then d else
  let d := if !e.closed then { d with dmp := { d.dmp with reported := l } }
    else if l = 3 then d.thermalEvent e
    else if l = d.dmp.reported then { d with dmp := { d.dmp with heldLevel := false } }
    else match d.dmp.lastThermal with
      | some t0 => if e.now < t0 + 10000000 then { d with dmp := { d.dmp with heldLevel := true } } else d.thermalEvent e
      | none => d.thermalEvent e
  if l = 3 then d.halt e 2 else d

/-- THERMAL_DEFERRED: a held change that still holds 10 ms after the last event. -/
def effThermalDeferred (e : Env) (d : Device) : Device :=
  match d.dmp.lastThermal with
  | none => d
  | some t0 =>
    if !d.powered || d.logicFrozen || !d.dmp.heldLevel || e.now < t0 + 10000000 then d
    else if d.dmp.level = d.dmp.reported then { d with dmp := { d.dmp with heldLevel := false } }
    else d.thermalEvent e

/-- THERMAL_FACTOR_STEP. -/
def effFactorStep (e : Env) (d : Device) : Device :=
  let f := d.dmp.thermalFactor
  if !d.powered || d.logicFrozen then d
  else if d.dmp.level ≥ 2 then { d with dmp := { d.dmp with thermalFactor := if f > 4 then f - 1 else f } }
  else if d.dmp.tj + 3 < d.threshold (throttleAt e) then
    { d with dmp := { d.dmp with thermalFactor := if f < 16 then f + 1 else f } }
  else d

/-! ## PWR_WARN_N and THROTTLE_N (R407–R410) -/

/-- PWR_WARN: the recognised assertion halts a device in service; a device that halts, or has halted, raises the event
once more. -/
def effPwrWarn (e : Env) (d : Device) : Device :=
  if !d.powered || d.dmp.warnPin then d else
  let d := { d with dmp := { d.dmp with warnPin := true, warnSince := some e.now, warnAfter := e.closed,
                                        stuckLast := tdel d.dmp.stuckLast 0 } }
  if !e.closed then d
  else if d.mode == .running || d.mode == .halting then
    let n := { d with dmp := { d.dmp with warnsDue := d.dmp.warnsDue ++ [d.warnNote] } }
    if d.mode == .running && d.dmp.haltPending.isNone then n.halt e 1 else n
  else if d.mode == .halted then d.warnEvent e d.warnNote
  else d

/-- PWR_WARN_RELEASE: the halt goes on. -/
def effWarnRelease (_ : Env) (d : Device) : Device :=
  if !d.powered then d else { d with dmp := { d.dmp with warnPin := false, warnSince := none } }

/-- THROTTLE: a recognised assertion or release. -/
def effThrottle (asserted : Bool) (e : Env) (d : Device) : Device :=
  if !d.powered || d.dmp.throttlePin == asserted then d else
  let d := { d with dmp := { d.dmp with throttlePin := asserted, throttleSince := if asserted then some e.now else none,
                                        throttleAfter := asserted && e.closed, stuckLast := tdel d.dmp.stuckLast 1 } }
  if d.logicFrozen then d else d.raise e 0x0004 (b2n asserted + d.factor e * 2) 0

/-- PWR_WARN_STUCK: 1 s after an assertion recognised in service, and every 60 s again. -/
def effWarnStuck (pin : Nat) (e : Env) (d : Device) : Device :=
  let (since, after) := if pin = 0 then (d.dmp.warnSince, d.dmp.warnAfter) else (d.dmp.throttleSince, d.dmp.throttleAfter)
  match since with
  | none => d
  | some t0 =>
    let due := match tfind d.dmp.stuckLast pin with
      | none => t0 + 1000000000
      | some t1 => t1 + 60000000000
    if !d.powered || pin > 1 || !after || d.logicFrozen || e.now < due then d
    else
      let d := d.raise e 0x0003 (pin + (e.now - t0) / 1000000000 % 2 ^ 32 * 2 ^ 32) 0
      { d with dmp := { d.dmp with stuckLast := tset d.dmp.stuckLast pin e.now } }

/-- INPUT_STORM (R407). -/
def Device.stormEvent (e : Env) (d : Device) (pin : Nat) : Device :=
  d.raise e 0x0006 (pin + tget 0 d.dmp.pulses pin * 2 ^ 16) 0

/-- INPUT_STORM: an ignored pulse is counted; at the sixteenth the event is raised once, or held for the close. -/
def effInputStorm (pin : Nat) (e : Env) (d : Device) : Device :=
  if !d.powered || pin > 2 then d else
  let n := sat lim16 (tget 0 d.dmp.pulses pin + 1)
  let d := { d with dmp := { d.dmp with pulses := tset d.dmp.pulses pin n } }
  if n < 16 || d.dmp.storm.contains pin then d
  else
    let d := { d with dmp := { d.dmp with storm := d.dmp.storm ++ [pin] } }
    if e.closed then d.stormEvent e pin else { d with dmp := { d.dmp with stormHeld := d.dmp.stormHeld ++ [pin] } }

/-! ## The commands -/

def execPaceLow (t domain pace mv tj : Nat) (s : State) : Host.Outcome State Fault Refusal :=
  s.act t (effPaceLow domain pace mv tj)
def execPaceLowDeferred (t domain : Nat) (s : State) : Host.Outcome State Fault Refusal := s.act t (effPaceDeferred domain)
def execFreeze (t domain mv : Nat) (s : State) : Host.Outcome State Fault Refusal := s.act t (effFreeze domain mv)
def execThaw (t domain mv : Nat) (s : State) : Host.Outcome State Fault Refusal := s.act t (effThaw domain mv)
def execFreezeLimit (t domain : Nat) (s : State) : Host.Outcome State Fault Refusal := s.act t (effFreezeLimit domain)
def execThermal (t domain tj : Nat) (s : State) : Host.Outcome State Fault Refusal := s.act t (effThermal domain tj)
def execThermalDeferred (t : Nat) (s : State) : Host.Outcome State Fault Refusal := s.act t effThermalDeferred
def execThermalFactorStep (t : Nat) (s : State) : Host.Outcome State Fault Refusal := s.act t effFactorStep
def execPwrWarn (t : Nat) (s : State) : Host.Outcome State Fault Refusal := s.act t effPwrWarn
def execPwrWarnRelease (t : Nat) (s : State) : Host.Outcome State Fault Refusal := s.act t effWarnRelease
def execThrottle (t : Nat) (asserted : Bool) (s : State) : Host.Outcome State Fault Refusal := s.act t (effThrottle asserted)
def execPwrWarnStuck (t pin : Nat) (s : State) : Host.Outcome State Fault Refusal := s.act t (effWarnStuck pin)
def execInputStorm (t pin : Nat) (s : State) : Host.Outcome State Fault Refusal := s.act t (effInputStorm pin)

end Sys2Proof.Machine
end

