-- ==== Sys2Proof/Machine/Firmware.lean ====
section
/-! DEFINITION. Hearth (16: R380–R396): the image checks of Table 16.5, staging and committing, recovery mode, the
calibration set, attestation, and the flash writes one at a time. -/

namespace Sys2Proof.Machine

/-! ## Images (R383, Tables 16.2–16.5) -/

/-- A component table entry's fields. -/
def compKind (im : List Byte) (i : Nat) : Nat := secNat im (0x400 + 96 * i) 2
def compOff (im : List Byte) (i : Nat) : Nat := secNat im (0x408 + 96 * i) 8
def compLen (im : List Byte) (i : Nat) : Nat := secNat im (0x410 + 96 * i) 8
def compDigest (im : List Byte) (i : Nat) : List Byte := (im.drop (0x418 + 96 * i)).take 64
def compCount (im : List Byte) : Nat := secNat im 0x10 2

/-- Check 2: magic, version, components, and a zero binding on an unbound image. -/
def imageForm (im : List Byte) (len : Nat) : Bool :=
  let n := compCount im
  let is := upto n
  let kinds := is.map (compKind im)
  secNat im 0 4 == 0x57464D47 && secNat im 4 2 == 1 && 14 ≤ n && n ≤ 15
    && kinds.all (fun k => 1 ≤ k && k ≤ 0x0F) && kinds.eraseDups.length == n
    && (upto 14).all (fun k => kinds.contains (k + 1))
    && is.all (fun i => 0x1000 ≤ compOff im i && compOff im i % 4096 == 0 && compOff im i + compLen im i ≤ len)
    && is.all (fun i => is.all (fun j => i == j || compOff im i + compLen im i ≤ compOff im j
        || compOff im j + compLen im j ≤ compOff im i))
    && (bit (secNat im 0x0C 1) 0 || secNat im 0x20 16 == 0)

/-- Checks 2 to 8 of Table 16.5: status and detail of the first that fails. -/
def imageChecks (fu : Fuses) (im : List Byte) (len : Nat) : Option (Nat × Nat) :=
  let slot := secNat im 0x12 2
  let modulus := (im.drop 0x40).take 512
  let key := fu.keys.getD slot (0, true)
  if !imageForm im len then some (0x20, 3)
  else if secNat im 6 2 != 0x0720 then some (0x61, 1)
  else if bit (secNat im 0x0C 1) 0 && secNat im 0x20 16 != fu.unitId then some (0x61, 2)
  else if key.2 || sha512N modulus != key.1 then some (0x60, 3)
  else if !pssVerify modulus (im.take 0xA00) ((im.drop 0xA00).take 512) then some (0x60, 1)
  else if (upto (compCount im)).any (fun i => sha512 ((im.drop (compOff im i)).take (compLen im i)) != compDigest im i) then
    some (0x60, 2)
  else if secNat im 0x0D 1 < fu.rollback then some (0x62, 1)
  else none

/-! ## Flash writes (R382) -/

/-- A settings blob's sequence number (R391). -/
def blobSeq (b : List Byte) : Nat := secNat b 0x10 8

/-- A copy whose record stands. -/
def blobValid (b : List Byte) : Bool := secNat b 0 4 == 0x54475453

/-- The copy a new blob goes to: an invalid one, or the older one. -/
def Hearth.olderCopy (h : Hearth) : Bool :=
  if !blobValid h.settings0 then false
  else if !blobValid h.settings1 then true
  else blobSeq h.settings1 < blobSeq h.settings0

/-- Where a write goes is judged when it begins: the calibration half not in use, the older settings copy. -/
def Hearth.retarget (h : Hearth) : FlashOp → FlashOp
  | .commit f b im => .commit f b im
  | .calibration f _ set => .calibration f (!h.cal0.isEmpty) set
  | .settings _ blob => .settings h.olderCopy blob
  | .census b => .census b

/-- The first write begins: its region's record is erased. -/
def Hearth.startFirst (h : Hearth) : Hearth :=
  match h.ops with
  | [] => h
  | o :: rest => ({ h with ops := h.retarget o :: rest } : Hearth).eraseRecord (h.retarget o)

/-- Queue a write; the first one begins at once. -/
def Device.pushFlash (d : Device) (o : FlashOp) : Device :=
  let h := { d.hearth with ops := d.hearth.ops ++ [o] }
  { d with hearth := if d.hearth.ops.isEmpty then h.startFirst else h }

/-- The sequence number of a new bank record. -/
def Hearth.nextSeq (h : Hearth) : Nat := (if h.bankA.seq < h.bankB.seq then h.bankB.seq else h.bankA.seq) + 1

/-- A write ends with its record programmed. -/
def Hearth.programmed (h : Hearth) : FlashOp → Hearth
  | .commit _ bankB im =>
    let b : Bank := ⟨0x7F, h.nextSeq, im.length, im, false⟩
    if bankB then { h with bankB := b } else { h with bankA := b }
  | .calibration _ half set => if half then { h with cal1 := set, cal0 := [] } else { h with cal0 := set, cal1 := [] }
  | .settings copy blob => if copy then { h with settings1 := blob } else { h with settings0 := blob }
  | .census b => h.append b

/-- The descriptor of a write. -/
def flashDesc : FlashOp → Option Fetched
  | .commit f _ _ => some f
  | .calibration f _ _ => some f
  | .settings _ _ => none
  | .census _ => none

/-- Complete a write's descriptor. -/
def Device.completeFlash (e : Env) (d : Device) (o : FlashOp) (status detail : Nat) : Device :=
  match flashDesc o with
  | some f => d.completeD e f status detail 0
  | none => d

/-- FLASH_WRITE_COMPLETE: the write in progress ends and the next one begins. A census append whose read-back differs
leaves its retirement pending (R133). A power warning stops it, and every one
that waits. -/
def effFlashComplete (how : FlashEnd) (e : Env) (d : Device) : Device :=
  match d.hearth.ops with
  | [] => d
  | o :: rest =>
    if !(d.mode == .running || d.mode == .recovery) || d.logicFrozen then d else
    match how with
    | .stopped =>
      if !d.dmp.warnPin then d
      else
        let h := d.hearth
        let d := { d with hearth := { h with ops := [], stopped := sat lim16 (h.stopped + 1) } }
        (o :: rest).foldl (fun d x => d.completeFlash e x 0xFF 1) d
    | _ =>
      let ok := how == .done
      let h := if ok then d.hearth.programmed o else d.hearth
      let h := ({ h with ops := rest } : Hearth).startFirst
      let left := match o with
        | .census b => if ok then d.health.pending.filter (· != b) else d.health.pending
        | _ => d.health.pending
      let d := { d with hearth := h, health := { d.health with pending := left } }
      d.completeFlash e o (if ok then 0 else 0x43) (if ok then 0 else 6)

/-! ## FW_BLOCK (R384, R390) -/

/-- Granules of a range of the staging area. -/
def granules (off len : Nat) : List Nat := (upto (ceilDiv len 4096)).map (fun i => off / 4096 + i)

/-- Does a block end the image, as far as the staged header tells. -/
def Device.endsImage (e : Env) (d : Device) (off len : Nat) (bs : List Byte) : Bool :=
  if off = 0 then secNat bs 0x18 8 == len
  else if d.hearth.granules.contains 0 then d.lpNat (stageBase e + 0x18) 8 == off + len
  else true

/-- FW_BLOCK in service. -/
def Device.stageBlock (e : Env) (d : Device) (f : Fetched) : Device :=
  let len := bits (f.w 3) 16 0
  let off := bits (f.w 3) 63 32
  let bs := d.hostRead (f.w 2) len
  if off % 4096 != 0 || off + len > Config.maxImage || (len % 4096 != 0 && !d.endsImage e off len bs) then
    d.completeD e f 0x20 3 0
  else
    let had := if off = 0 then [] else d.hearth.granules
    let new := (granules off len).filter (fun g => !had.contains g)
    let d := d.lpWrites (stageBase e + off) bs
    { d with hearth := { d.hearth with granules := had ++ new } }.completeD e f 0 0 0

/-- Is the target of recovery bank B (R390). -/
def Hearth.recoveryB (h : Hearth) : Bool :=
  h.bankA.state != 0xFF && (h.bankB.state == 0xFF || h.bankB.seq < h.bankA.seq)

/-- FW_BLOCK in recovery mode: straight into flash; under a power warning no block is started (R382). -/
def Device.recoveryBlock (e : Env) (flashOk : Bool) (d : Device) (f : Fetched) : Device :=
  let len := bits (f.w 3) 16 0
  let off := bits (f.w 3) 63 32
  let h := d.hearth
  let bs := d.hostRead (f.w 2) len
  let im := if off = 0 then bs else h.recoveryImage ++ bs
  if d.dmp.warnPin then d.completeD e f 0xFF 1 0
  else if off != h.recoveryNext || off + len > Config.maxImage || (len % 65536 != 0 && secNat im 0x18 8 != off + len) then
    d.completeD e f 0x20 3 0
  else
    let h := if off != 0 then h
      else if h.recoveryB then { h with bankB := { h.bankB with state := 0xFF } }
      else { h with bankA := { h.bankA with state := 0xFF } }
    if !flashOk then { d with hearth := h }.completeD e f 0x43 6 0
    else { d with hearth := { h with recoveryImage := im, recoveryNext := off + len } }.completeD e f 0 0 0

def effFwBlock (hostOk flashOk : Bool) (e : Env) (d : Device) (f : Fetched) : Device :=
  if !hostOk then d.completeD e f 0x20 0x000A 0
  else if d.mode == .recovery then d.recoveryBlock e flashOk f
  else d.stageBlock e f

/-! ## FW_COMMIT (R385, R390) -/

/-- FW_COMMIT: the checks, then the write of the bank that is not booted. -/
def effFwCommit (e : Env) (d : Device) (f : Fetched) : Device :=
  let total := bits (f.w 3) 31 0
  let rom := d.mode == .recovery
  let h := d.hearth
  let im := if rom then h.recoveryImage.take total else mreads 0 d.lp (stageBase e) (sat Config.maxImage total)
  let whole := if rom then total ≤ h.recoveryImage.length
    else (granules 0 total).all (fun g => h.granules.contains g)
  let ok := total ≤ Config.maxImage && secNat im 0x18 8 == total && 0x28 ≤ total && whole
  let d := { d with hearth := { h with granules := [], recoveryNext := if rom then 0 else h.recoveryNext } }
  match (if ok then imageChecks h.fuses im total else some (0x20, 3)) with
  | some k => d.completeD e f k.1 k.2 0
  | none => d.pushFlash (.commit f (if rom then h.recoveryB else !h.bootB) im)

/-! ## CAL_WRITE (R393) -/

/-- A calibration set: header, four sections, digest. -/
def calOk (s : List Byte) : Bool :=
  128 ≤ s.length && s.length ≤ 1966080 && secNat s 0 4 == 0x54534C43 && secNat s 4 2 == 1
    && (upto 4).all (fun i => let o := secNat s (0x10 + 8 * i) 4
        let n := secNat s (0x14 + 8 * i) 4
        n != 0 && 0x80 ≤ o && o + n ≤ s.length)
    && sha512 (s.drop 0x80) == (s.drop 0x40).take 64

/-- CAL_WRITE: into the half that holds no valid set, the lower one when neither does. -/
def effCalWrite (hostOk : Bool) (e : Env) (d : Device) (f : Fetched) : Device :=
  if !hostOk then d.completeD e f 0x20 0x000A 0
  else
    let s := d.hostRead (f.w 2) (bits (f.w 3) 31 0)
    if !calOk s then d.completeD e f 0x20 3 0
    else d.pushFlash (.calibration f (!d.hearth.cal0.isEmpty) s)

/-! ## ATTEST (R395, Table 16.8) -/

def zeros (n : Nat) : List Byte := List.replicate n 0

/-- The digest of a set, zero when there is none. -/
def digestOr (s : List Byte) : List Byte := if s.isEmpty then zeros 64 else sha512 s

/-- Bytes 0x000 to 0x5FF of the report. -/
def Device.reportBody (e : Env) (d : Device) (f : Fetched) : List Byte :=
  let h := d.hearth
  let mode := if d.mode == .recovery then 2 else b2n h.trial
  let usable := 24576 - d.health.out.length
  toBytes 8 (0x54525441 + 2 ^ 32 * 1) ++ toBytes 8 (6144 + 1536 * 2 ^ 32)
    ++ toBytes 8 (0x0720 + h.fuses.grade % 2 * 2 ^ 16 + b2n h.bootB * 2 ^ 17 + mode * 2 ^ 18 + b2n d.calValid * 2 ^ 20
      + b2n h.settingsApplied * 2 ^ 21)
    ++ toBytes 8 (h.version + secNat h.bootHeader 0x0D 1 * 2 ^ 32 + h.fuses.rollback * 2 ^ 40
      + secNat h.bootHeader 0x0E 2 * 2 ^ 48)
    ++ toBytes 16 h.fuses.unitId ++ toBytes 8 e.now ++ toBytes 8 (d.health.generation + usable * 2 ^ 32)
    ++ (toBytes 8 (f.w 4) ++ toBytes 8 (f.w 5) ++ toBytes 8 (f.w 6) ++ toBytes 8 (f.w 7)) ++ zeros 32
    ++ digestOr h.bootHeader ++ digestOr h.calSet ++ digestOr h.appliedBlob ++ sha512 (toBytesBE 512 Config.identityModulus)
    ++ zeros 128
    ++ ((upto 16).map (fun r => match d.recipe r with
      | some s => toBytes 64 s.digest
      | none => zeros 64)).flatten

/-- ATTEST. The signature is a free value: the identity key never leaves Hearth. The report is a write for the host, which
waits for the link (R21): the command does nothing while it is down. -/
def effAttest (e : Env) (d : Device) (f : Fetched) : Device :=
  let body := d.reportBody e f
  let (n, d) := d.draw
  let sig := toBytesBE 512 (Config.identitySignature n (sha512N body))
  let cert := d.hearth.certificate.take 4088
  let report := body ++ sig ++ toBytes 8 cert.length ++ cert ++ zeros (4088 - cert.length)
  (d.hostWrite (f.w 2) report).completeD e f 0 0 6144

/-! ## The commands -/

def execFwBlock (t ring : Nat) (hostOk flashOk : Bool) (s : State) : Host.Outcome State Fault Refusal :=
  s.act t (onDesc ring 0x30 (effFwBlock hostOk flashOk))
def execFwCommit (t ring : Nat) (s : State) : Host.Outcome State Fault Refusal := s.act t (onDesc ring 0x31 effFwCommit)
def execAttest (t ring : Nat) (s : State) : Host.Outcome State Fault Refusal := s.act t (fun e d => if d.hif.linkUp then onDesc ring 0x32 effAttest e d else d)
def execCalWrite (t ring : Nat) (hostOk : Bool) (s : State) : Host.Outcome State Fault Refusal :=
  s.act t (onDesc ring 0x33 (effCalWrite hostOk))
def execFlashWriteComplete (t : Nat) (how : FlashEnd) (s : State) : Host.Outcome State Fault Refusal :=
  s.act t (effFlashComplete how)

end Sys2Proof.Machine
end

