-- ==== Sys2Proof/Machine/JobRun.lean ====
section
/-! DEFINITION. The records of an exclusive job (06: R153, R154; 08: R208–R210, R214): what a record does, and the command
boundary at its end. -/

namespace Sys2Proof.Machine

/-- The running record of a job over its trays and accumulators: an Oven record covers the rows that its program names, and
is drawn by the job's cookie and the row (R96, R153). -/
def Device.jobBake (e : Env) (d : Device) (j : Job) (r : JobRec) (ecc : List EccReport) : Bake :=
  let w : Work :=
    { recipe := j.recipe, program := 4 + j.program, items := [0], ctx := none, start := 0, stop := 0, final := true,
      adapter := 0, version := 0, stream := j.cookie, random := stochasticOn e }
  let x : Bake := { dev := d, mem := d.jobMem, bad := badRowKeys ecc, at_ := (upto r.rows).map (fun k => ⟨k, 0, k, 0⟩) }
  x.record w ((d.program j).map (·.op)) j.next r.op

/-- A record runs to its end: what it leaves in trays, accumulators and LPDDR5X, and its numeric events. What a crumb record
of a job leaves comes with the command (log 26). None while a streamed tensor that an Oven record needs is missing. -/
def Device.runRecord (e : Env) (d : Device) (j : Job) (done : RecordEnd) : Option Device :=
  let r := d.recordOf j
  if r.crumb then
    some (({ d with jobMem := done.writes.foldl (fun m w =>
      if w.1 + w.2.length ≤ jobBytes then mwrites 0 m w.1 w.2 else m) d.jobMem } : Device).numeric true done.saturations
        done.nans)
  else
    let x := d.jobBake e j r done.ecc
    if x.blocked then none else some (({ d.ranBy x.dev with jobMem := x.mem } : Device).numeric false x.sats x.nans)

/-- What follows a record's end, by Table 08.5: the job ends, or at a slice end begins its save, or its next record
starts. -/
def Device.nextRecord (e : Env) (d : Device) (j : Job) : Device :=
  let j := { j with next := j.next + 1 }
  let d := d.setJob j
  if j.fault then d.endJob e j 0x43 2
  else if j.revoked then d.endJob e j 0x50 1
  else if j.next ≥ (d.program j).length then d.endJob e j 0 0
  else if j.preempt || (j.slice != 0 && e.now > j.sliceEnd) then
    let past : Int := (e.now - j.sliceEnd : Nat)
    let d := d.modTenant j.tenant (fun t => { t with jobRun := sat lim64 (t.jobRun + (e.now - j.began)) })
    d.setJob { j with state := .saving, remaining := (j.slice : Int) - past }
  else d.recordBegins e

/-- JOB_COMMAND_BOUNDARY: a record has ended on every unit. One that passed twice its declared duration faults the job, its
numeric events and the errors it met counted all the same (R100, R126, R209). -/
def effJobCommandBoundary (done : RecordEnd) (e : Env) (d : Device) : Device :=
  match d.running with
  | none => d
  | some j =>
    if !d.serving e then d else
    let long := done.handshakes > 2 * recDuration (d.recordOf j).op
    let ran := if long then some (d.numeric (d.recordOf j).crumb done.saturations done.nans) else d.runRecord e j done
    match ran with
    | none => d
    | some d =>
      let d := d.eccReports e done.ecc
      match d.running with
      | none => d
      | some j => if long then d.overrun e j done.handshakes else (d.setCount done.handshakes).nextRecord e j

def execJobCommandBoundary (t : Nat) (done : RecordEnd) (s : State) : Host.Outcome State Fault Refusal :=
  s.act t (effJobCommandBoundary done)

end Sys2Proof.Machine
end

