-- ==== Sys2Proof/Machine/Starts.lean ====
section
/-! DEFINITION. Power, resets and starts (16: R386–R393; 17: R413–R415; R433, R440). A start runs Table 16.7 as one
effect: bank choice, calibration, training, census, settings. -/

namespace Sys2Proof.Machine

/-! ## Choosing a bank (R386) -/

/-- Bank A (false) or B (true). -/
def Hearth.bank (h : Hearth) (b : Bool) : Bank := if b then h.bankB else h.bankA

/-- Change a bank's state byte. -/
def Hearth.setState (h : Hearth) (b : Bool) (st : Nat) : Hearth :=
  if b then { h with bankB := { h.bankB with state := st } } else { h with bankA := { h.bankA with state := st } }

/-- A TRYING bank becomes FAILED. -/
def Hearth.failTrial (h : Hearth) (b : Bool) : Hearth := if (h.bank b).state = 0x3F then h.setState b 0x0F else h

/-- The banks in a state, higher sequence number first. -/
def Hearth.banksIn (h : Hearth) (st : Nat) : List Bool :=
  let bs := if h.bankA.seq < h.bankB.seq then [true, false] else [false, true]
  bs.filter (fun b => (h.bank b).state == st)

/-- The fitted flash part's bank A, when it was programmed outside the device (log 8). -/
def Hearth.fit (h : Hearth) : Option (List Byte) → Hearth
  | none => h
  | some im => { h with bankA := { state := 0x1F, seq := 0, length := im.length, image := im, outside := true } }

/-- Does a bank's image pass the checks; one programmed outside does. -/
def Hearth.bankOk (h : Hearth) (b : Bool) : Bool :=
  (h.bank b).outside || (imageChecks h.fuses (h.bank b).image (h.bank b).length).isNone

/-- Try banks in turn: a PENDING one becomes TRYING; one that fails its checks becomes FAILED. -/
def tryBanks : List Bool → Hearth → Hearth × Option Bool
  | [], h => (h, none)
  | b :: r, h =>
    let h := if (h.bank b).state = 0x7F then h.setState b 0x3F else h
    if h.bankOk b then (h, some b) else tryBanks r (h.setState b 0x0F)

/-- Steps 2, 3, 4 and 6 of Table 16.7. -/
def Hearth.choose (h : Hearth) : Hearth × Option Bool :=
  let h := (h.failTrial false).failTrial true
  tryBanks (h.banksIn 0x7F ++ h.banksIn 0x1F) h

/-- The calibration set a start finds (R393). -/
def Hearth.validCal (h : Hearth) : List Byte := if calOk h.cal0 then h.cal0 else if calOk h.cal1 then h.cal1 else []

/-! ## The settings blob (R391, R392) -/

def blobVersion (b : List Byte) : Nat := secNat b 4 2
def blobCount (b : List Byte) : Nat := secNat b 8 4

/-- The entries' bytes. The digest of 64 bytes at 0x20 ends at 0x60, where they begin (R391 calls the header one of 64
bytes: log). -/
def blobEntries (b : List Byte) : List Byte := (b.drop 0x60).take (16 * blobCount b)

/-- Entry i: register address and value. -/
def blobPairs (b : List Byte) : List (Nat × Nat) :=
  (upto (blobCount b)).map (fun i => (secNat b (0x60 + 16 * i) 4, secNat b (0x68 + 16 * i) 8))

def blobDigestOk (b : List Byte) : Bool := sha512 (blobEntries b) == (b.drop 0x20).take 64

/-- The newer valid copy, empty when there is none. -/
def Hearth.currentBlob (h : Hearth) : List Byte :=
  match blobValid h.settings0, blobValid h.settings1 with
  | true, true => if blobSeq h.settings0 < blobSeq h.settings1 then h.settings1 else h.settings0
  | true, false => h.settings0
  | false, true => h.settings1
  | false, false => []

/-- The blob that will be current when the writes already asked for have ended. -/
def Hearth.latestBlob (h : Hearth) : List Byte :=
  match (h.ops.filterMap (fun o => match o with
    | .settings _ b => some b
    | _ => none)).getLast? with
  | some b => b
  | none => h.currentBlob

/-- A new blob. -/
def makeBlob (version seq : Nat) (es : List (Nat × Nat)) : List Byte :=
  let body := (es.map (fun x => toBytes 8 x.1 ++ toBytes 8 x.2)).flatten
  toBytes 4 0x54475453 ++ toBytes 4 version ++ toBytes 8 es.length ++ toBytes 16 seq ++ sha512 body ++ body

/-- Entries written into their registers, in order. -/
def applyEntries (e : Env) (es : List (Nat × Nat)) : Env := es.foldl (fun e x => regStore e x.1 0 63 x.2) e

/-- An entry that names no stored register. -/
def unknownEntry (x : Nat × Nat) : Bool := x.1 % 8 != 0 || (regFields x.1).isEmpty

/-- Has the booted image a settings migration table. -/
def hasTable (header : List Byte) : Bool := (upto (compCount header)).any (fun i => compKind header i == 0x0F)

/-- Why a migration fails: 1 no table, 3 newer blob, 4 digest, 2 no path, 5 unknown register. -/
def migrationCause (header blob : List Byte) (st : StartInput) : Nat :=
  if !hasTable header then 1
  else if secNat header 0x0E 2 < blobVersion blob then 3
  else if !blobDigestOk blob then 4
  else match st.migrated with
    | none => 2
    | some es => if es.any unknownEntry then 5 else 0

/-- Step 9: apply or migrate. -/
def applySettings (st : StartInput) (e : Env) (d : Device) : Env × Device :=
  let h := d.hearth
  let blob := h.currentBlob
  let image := secNat h.bootHeader 0x0E 2
  if blob.isEmpty then (e, d)
  else if blobVersion blob = image then
    if blobDigestOk blob then
      (applyEntries e (blobPairs blob), { d with hearth := { h with settingsApplied := true, appliedBlob := blob } })
    else (e, d)
  else
    let cause := migrationCause h.bootHeader blob st
    let es := if cause = 0 then st.migrated.getD [] else []
    let h := { h with
      migration := some (blobVersion blob, image, cause, es.length, if cause = 0 then st.dropped else 0)
      migrationFailed := cause != 0
      resyncMigration := cause != 0 }
    if cause != 0 then (e, { d with hearth := h })
    else
      let new := makeBlob image (blobSeq blob + 1) es
      let h := { h with settingsApplied := true, appliedBlob := new }
      (applyEntries e es, ({ d with hearth := h } : Device).pushFlash (.settings h.olderCopy new))

/-! ## A start (R387, R415) -/

/-- What a start leaves before its steps: flash and fuses, host memory, the levels of the pins and supplies, and the
model's counter of free values; everything else at reset. -/
def Device.bare (d : Device) : Device :=
  let h := d.hearth
  let m := d.dmp
  { host := d.host
    free := d.free
    dmp := { throttlePin := m.throttlePin
             warnPin := m.warnPin
             frozen := m.frozen
             frozenAt := m.frozen.foldl (fun a x => tset a x 0) []
             supply := m.supply }
    hearth := { fuses := h.fuses
                bankA := h.bankA
                bankB := h.bankB
                settings0 := h.settings0
                settings1 := h.settings1
                cal0 := h.cal0
                cal1 := h.cal1
                census := h.census
                certificate := h.certificate
                stopped := h.stopped } }

/-- A start, to its end: set-up open, recovery mode, or idle. -/
def boot (st : StartInput) (_ : Env) (d : Device) : Env × Device :=
  let d := d.bare
  let (h, found) := (d.hearth.fit st.fitted).choose
  match found with
  | none => ({}, { d with mode := .recovery, hearth := { h with calSet := h.validCal } })
  | some b =>
    let im := (h.bank b).image
    let h := { h with bootB := b, version := secNat im 8 4, bootHeader := im.take 0xA00, calSet := h.validCal,
                      trial := (h.bank b).state == 0x3F, grade := st.grade }
    if st.grade = 0 then ({}, { d with mode := .idleAlert, hearth := h, dmp := { d.dmp with alert := true } })
    else applySettings st {} { d with mode := .running, hearth := h, health := { d.health with out := h.census } }

/-! ## The commands -/

/-- POWER_ON: PWR_GOOD high; with RST_N low the device is held. -/
def effPowerOn (rstLow : Bool) (st : StartInput) (e : Env) (d : Device) : Env × Device :=
  if d.mode != .off then (e, d)
  else if rstLow then (e, { d with mode := .held })
  else boot st e d

/-- POWER_LOSS: every unit stops at once; a flash write in progress leaves its record erased. Set-up
is not reopened before a start (R414). -/
def effPowerLoss (e : Env) (d : Device) : Env × Device := (e, { d.bare with mode := .off })

/-- FIXED_RAIL_OUT_OF_RANGE: as a fall of PWR_GOOD, with PWR_GOOD still to fall. -/
def effFixedRail (e : Env) (d : Device) : Env × Device :=
  if d.mode == .off then (e, d) else (e, { d.bare with mode := .waitGood })

/-- PIN_RESET: the units stop at once; the release begins a start. -/
def effPinReset (st : StartInput) (e : Env) (d : Device) : Env × Device :=
  if d.mode == .off || d.mode == .waitGood then (e, d) else boot st e d

/-- SOFT_RESET: the key written to HTH_RESET, whole or to its low half (R419), through the host link or I3C: a halt with
cause 0x0008. A halted device has nothing to halt. -/
def effSoftReset (i3c : Bool) (width value : Nat) (e : Env) (d : Device) : Device :=
  let host := d.hif.linkUp && (d.mode == .running || d.mode == .halting || d.mode == .halted)
  let i3cOk := i3c && (d.mode == .running || d.mode == .halting || d.mode == .halted || d.mode == .recovery)
  if !(width == 4 || width == 8) || value % 2 ^ 32 != 0x54534B52 || !(host && !i3c || i3cOk) then d
  else ({ d with dmp := { d.dmp with soft := true } } : Device).halt e 8

/-- SOFT_START: within 1 ms after the halt's last step. -/
def effSoftStart (st : StartInput) (e : Env) (d : Device) : Env × Device :=
  if d.dmp.soft && (d.mode == .halted || d.mode == .recovery) then boot st e d else (e, d)

def execPowerOn (t : Nat) (rstLow : Bool) (start : StartInput) (s : State) : Host.Outcome State Fault Refusal :=
  s.actEnv t (effPowerOn rstLow start)
def execPowerLoss (t : Nat) (s : State) : Host.Outcome State Fault Refusal := s.actEnv t effPowerLoss
def execFixedRailOutOfRange (t : Nat) (s : State) : Host.Outcome State Fault Refusal := s.actEnv t effFixedRail
def execPinReset (t : Nat) (start : StartInput) (s : State) : Host.Outcome State Fault Refusal :=
  s.actEnv t (effPinReset start)
def execSoftReset (t : Nat) (i3c : Bool) (width value : Nat) (s : State) : Host.Outcome State Fault Refusal :=
  s.act t (effSoftReset i3c width value)
def execSoftStart (t : Nat) (start : StartInput) (s : State) : Host.Outcome State Fault Refusal :=
  s.actEnv t (effSoftStart start)

end Sys2Proof.Machine
end

