-- ==== Sys2Proof/Machine/Setup.lean ====
section
/-! DEFINITION. The close of set-up and register writes (18: R419, R421–R428; R9, R45, R100, R407, R417). -/

namespace Sys2Proof.Machine

/-! ## Bank sets (R423) -/

/-- The 32 runs with their registers: table set, then bench set. -/
def bankRuns (e : Env) : List (Nat × Run) := (upto 32).map (fun i => (0x20000 + 8 * i, tableRun e i))

/-- Does a run name pairs that exist. -/
def runFits (r : Run) : Bool := r.slice ≤ 11 && r.first + r.count ≤ 1024

/-- The first run that does not fit or names a pair of an earlier one. -/
def badRun : List (Nat × Run) → List (Nat × Run) → Option Nat
  | _, [] => none
  | seen, x :: r =>
    if x.2.count = 0 then badRun seen r
    else if !runFits x.2 || seen.any (fun y => runsMeet y.2 x.2) then some x.1
    else badRun (x :: seen) r

/-- Census banks of a set: two of each pair, less those not in the census. -/
def Device.setBanks (e : Env) (d : Device) (bench : Bool) : Nat :=
  let rs := (upto 16).map (fun i => if bench then benchRun e i else tableRun e i)
  let has := fun (b : Nat) => rs.any (fun r => runHas r (b / 2048) (b % 2048 / 2))
  2 * (rs.map (·.count)).sum - (d.health.out.filter has).length

/-- KiB that the table set must hold. -/
def tableNeed (e : Env) : Nat := 118 * 1024 + 4 * listFrames e + (millStore e + stencilStore e) / 1024
/-- MiB that the bench set must hold. -/
def benchNeed (e : Env) : Nat := logitsSlots e + 32

/-- MiB that the table set lacks. -/
def Device.shortfall (e : Env) (d : Device) : Nat := ceilDiv (tableNeed e - 1536 * d.setBanks e false) 1024

/-! ## LPDDR5X areas (R424, R425, Table 18.10) -/

/-- An area: its register, base, size, range, and whether it is a view. -/
structure Area where
  reg : Nat
  base : Nat
  size : Nat
  range : Nat × Nat
  view : Bool
  deriving DecidableEq, Repr

/-- The areas, by ascending register. -/
def areas (e : Env) : List Area :=
  let dir := groupRange e 1
  let stream := groupRange e 0
  [⟨0x10, winBase e, 48 * 2 ^ 30, dir, true⟩,
   ⟨0x10008, saveBase e, saveSlots e * 2 ^ 28, (0, 4 * 2 ^ 30), false⟩,
   ⟨0x10018, dirBase e, 2 ^ 30, dir, false⟩,
   ⟨0x10018, logArea e, logSize e, dir, false⟩,
   ⟨0x50000, recipeArea e, recipeSize e, stream, false⟩,
   ⟨0x50000, tier1Base e, tier1Size e, stream, false⟩,
   ⟨0x60000, stopBase e, stopSlots e * 2048, dir, false⟩,
   ⟨0x80000, siftBase e, siftSize e, groupRange e 2, false⟩,
   ⟨0x90008, exportBase e, exportSize e, (4 * 2 ^ 30, Config.lpBytes), true⟩,
   ⟨0x90008, tallyBase e, 32768, dir, false⟩,
   ⟨0xC0020, stageBase e, 64 * 2 ^ 20, dir, false⟩]

/-- Is an area out of its range. -/
def Area.astray (a : Area) : Bool :=
  a.size != 0 && (a.base < a.range.1 || a.range.2 < a.base + a.size || Config.lpBytes < a.base + a.size)

/-- Do two ranges share a byte. -/
def meets (a n b m : Nat) : Bool := n != 0 && m != 0 && a < b + m && b < a + n

/-- The areas that may not overlap. -/
def solids (e : Env) : List Area := (areas e).filter (fun a => !a.view && a.size != 0)

/-- The first area that overlaps an earlier one. -/
def overlap : List Area → List Area → Option Nat
  | _, [] => none
  | seen, a :: r =>
    if seen.any (fun b => meets b.base b.size a.base a.size) then some a.reg else overlap (a :: seen) r

/-! ## Window regions (R425) -/

/-- The regions that registers place in the window: register, offset, size. -/
def regions (e : Env) : List (Nat × Nat × Nat) :=
  [(0x10010, acctBase e, 2 ^ 18), (0x10038, reqMirror e, 2 ^ 26), (0x10040, ctxMirror e, 2 ^ 24),
   (0x20108, censusMap e, 4096)]
    ++ (if fallbackOn e then [(0x50008, fallbackLog e, 2 ^ 21)] else [])
    ++ [(0x90010, faultLog e, 8192), (0xC0020, calCopy e, 2 ^ 21)]

/-- The first region outside the fixed part, or over an area or an earlier region. -/
def misplaced (win : Nat) (as : List Area) : List (Nat × Nat × Nat) → List (Nat × Nat × Nat) → Option Nat
  | _, [] => none
  | seen, (reg, o, n) :: r =>
    if 48 * 2 ^ 30 < o + n || seen.any (fun y => meets y.2.1 y.2.2 o n) || as.any (fun a => meets a.base a.size (win + o) n) then
      some reg
    else misplaced win as ((reg, o, n) :: seen) r

/-! ## The remaining checks -/

/-- PEL_CHAN_MAP as R424 asks. -/
def chanMapOk (e : Env) : Bool :=
  let n := (upto 4).map (groupSize e)
  n.getD 3 0 == 0 && n.all (fun k => k % 16 == 0) && (n.getD 2 0 == 64 || 16 ≤ n.getD 1 0)

/-- Does a route word's valid port stand disabled (R367). -/
def routeBad (e : Env) (w : Nat) : Bool :=
  (bit w 3 && !portEnabled e (bits w 2 0)) || (bit w 9 && !portEnabled e (bits w 8 6))

/-- Does [base, base + n) hold [a, a + m). -/
def holds (base n a m : Nat) : Bool := base ≤ a && a + m ≤ base + n

/-- Code and offender of the first refusal, in the order of Table 18.8. -/
def Device.closeRefusal (e : Env) (d : Device) : Option (Nat × Nat) :=
  if d.dmp.warnPin then some (1, 0)
  else match badRun [] (bankRuns e) with
  | some r => some (2, r)
  | none =>
  if d.shortfall e != 0 then some (3, 0x20000)
  else if 2 * benchNeed e > 3 * d.setBanks e true then some (3, 0x20080)
  else if !chanMapOk e then some (4, 0x50020)
  else match (areas e).find? Area.astray with
  | some a => some (5, a.reg)
  | none => match overlap [] (solids e) with
  | some r => some (6, r)
  | none => match misplaced (winBase e) (solids e) [] (regions e) with
  | some r => some (7, r)
  | none =>
  if damperShare e 0 + damperShare e 1 + damperShare e 2 + damperShare e 3 > envelope e then some (8, 0xB0000)
  else match (upto 64).find? (fun n => routeBad e (routeWord e n)) with
  | some n => some (9, 0x90100 + 8 * n)
  | none =>
  if !holds (winBase e) (48 * 2 ^ 30) (dirBase e) (2 ^ 30) then some (10, 0x10)
  else if exportSize e != 0 && !holds (exportBase e) (exportSize e) (tallyBase e) 32768 then some (10, 0x90008)
  else none

/-! ## What a close does (Table 18.11) -/

/-- The list of RWL registers that differ from reset (R391). Of these only HIF_APERTURE, an RW register, is passed over. -/
def savedList (e : Env) : List (Nat × Nat) := e.regs.filter (fun x => x.1 != 0x30 && x.2 != regReset x.1)

/-- Queue a blob when the list differs from the current one's. -/
def Device.saveSettings (e : Env) (d : Device) : Device :=
  let h := d.hearth
  let blob := h.latestBlob
  let version := secNat h.bootHeader 0x0E 2
  if !saveBlob e || (!blob.isEmpty && blobVersion blob == version && blobPairs blob == savedList e) then d
  else d.pushFlash (.settings h.olderCopy (makeBlob version (blobSeq blob + 1) (savedList e)))

/-- A TRYING bank is confirmed, then the rollback counter raised (R389). -/
def Hearth.confirm (h : Hearth) : Hearth :=
  let h := if (h.bank h.bootB).state = 0x3F then h.setState h.bootB 0x1F else h
  let r := secNat h.bootHeader 0x0D 1
  { h with trial := false, fuses := { h.fuses with rollback := if h.fuses.rollback < r then r else h.fuses.rollback } }

/-- The calibration copy: the set in use, or a zero header (R393). -/
def Device.copyCal (e : Env) (d : Device) : Device :=
  let s := d.hearth.calSet
  d.lpWrites (winBase e + calCopy e) (if s.isEmpty then zeros 128 else s)

/-- Gate cycles and credits begin at the close (R374). -/
def Device.startOutlets (e : Env) (d : Device) : Device :=
  let gates := (upto 9).foldl (fun g p => tset g p { d.gate p with base := e.now }) d.prf.gates
  let port := fun (p : Nat) =>
    let x := d.port p
    { x with creditAt := e.now, trainAt := e.now, state := if portEnabled e p then 1 else 0 }
  let ports := (upto 8).foldl (fun a p => tset a p (port p)) d.pem.ports
  { d with prf := { d.prf with gates := gates, hostCreditAt := e.now }, pem := { d.pem with ports := ports } }

/-- FW_MIGRATED (R392). -/
def Device.migrationEvent (e : Env) (d : Device) : Device :=
  match d.hearth.migration with
  | none => d
  | some (blob, image, cause, applied, dropped) =>
    d.raise e 0x0050 (blob % 65536 + image % 65536 * 2 ^ 16 + b2n (cause != 0) * 2 ^ 32 + cause * 2 ^ 33)
      (applied + dropped * 2 ^ 32)

/-- INPUT_STORMs that waited for the close (R407). -/
def Device.heldStorms (e : Env) (d : Device) : Device :=
  d.dmp.stormHeld.foldl (fun d p => d.stormEvent e p) { d with dmp := { d.dmp with stormHeld := [] } }

/-- A close that passes every check. -/
def closeSetup (e : Env) (d : Device) : Env × Device :=
  let e := { e with closed := true }
  let d := { d with kn := { released := e.now }, hearth := d.hearth.confirm, dmp := { d.dmp with alert := false } }
  let d := ((d.copyCal e).startOutlets e).saveSettings e
  (e, (d.migrationEvent e).heldStorms e)

/-- SETUP_CLOSE: in recovery mode set-up never closes (R427). -/
def effSetupClose (value : Nat) (e : Env) (d : Device) : Env × Device :=
  if !bit value 0 || e.closed || !d.hif.linkUp || d.mode != .running || d.logicFrozen then (e, d)
  else match d.closeRefusal e with
    | some (code, off) =>
      (e, { d with hif := { d.hif with refusal := code, offender := off },
                   dmp := { d.dmp with alert := code == 1 } })
    | none => closeSetup e d

/-! ## HIF_RING_ENABLE (R421) -/

/-- Is a ring's base refused: 0, or the ring passes the top of the address space. -/
def ringBaseBad (base bytes : Nat) : Bool := base == 0 || base + bytes > lim64

/-- RING_ENABLE. -/
def effRingEnable (value : Nat) (e : Env) (d : Device) : Device :=
  let kind := bits value 1 0
  let n := bits value 9 2
  let rom := d.mode == .recovery
  let k : RingKind := if kind = 1 then .cq else if kind = 2 then .ts else .eq
  let refuse := { d with hif := { d.hif with enableRefused := true } }
  if !d.hif.linkUp || !(d.regsUp || rom) || (rom && !(kind ≤ 1 && n == 0)) then d
  else if kind = 0 then
    if (d.sqr n).enabled then d
    else if (!e.closed && !rom) || ringBaseBad (sqBase e n) (64 * sqSize e n) || !(d.ring .cq (sqCq e n)).enabled then refuse
    else d.setSq n { d.sqr n with enabled := true }
  else if (if kind = 3 then n != 0 else n ≥ 64) then refuse
  else if (d.ring k n).enabled then d
  else if (!e.closed && !rom) || ringBaseBad (devBase e k n) (devEntry k * devSize e k n) then refuse
  else
    let d := d.setRing k n { d.ring k n with enabled := true }
    if k == .eq then d.flushEvents e else d

/-! ## Register writes -/

/-- A write of a stored 64-bit register: 32-bit or 64-bit, aligned (R419). -/
def storeWrite (offset width value : Nat) (e : Env) : Env :=
  let q := offset / 8 * 8
  if width = 8 && offset % 8 = 0 then regStore e q 0 63 (value % 2 ^ 64)
  else if width = 4 && offset % 8 = 0 then regStore e q 0 31 (value % 2 ^ 32)
  else if width = 4 && offset % 8 = 4 then regStore e q 32 63 (value % 2 ^ 32)
  else e

/-- PEL_CHAN_MAP takes 64-bit and 128-bit writes (R419). -/
def chanMapWrite (offset width value : Nat) (e : Env) : Env :=
  if width = 16 && offset = 0x50020 then
    regStore (regStore e 0x50020 0 63 (value % 2 ^ 64)) 0x50028 0 63 (value / 2 ^ 64 % 2 ^ 64)
  else if width = 8 then storeWrite offset 8 value e
  else e

/-- APERTURE_WRITE (R45). -/
def effAperture (value : Nat) (e : Env) (d : Device) : Env × Device :=
  if d.regsUp then (storeWrite 0x30 8 value e, d) else (e, d)

/-- NUMSTAT_CLEAR (Table 04.7). -/
def effNumstatClear (oven : Bool) (value : Nat) (_ : Env) (d : Device) : Device :=
  if !d.regsUp || !bit value 63 then d
  else if oven then { d with health := { d.health with ovnSat := 0, ovnNan := 0 } }
  else { d with health := { d.health with crbSat := 0, crbNan := 0 } }

/-- The I3C target answers: the device is powered, out of reset, and the logic die runs. -/
def Device.i3cUp (d : Device) : Bool := d.powered && !d.logicFrozen

/-- PIN_STAT_CLEAR (R407, Table 17.11), by the host or over I3C (R428). -/
def effPinStatClear (i3c : Bool) (value : Nat) (_ : Env) (d : Device) : Device :=
  if !(if i3c then d.i3cUp else d.regsUp) || !bit value 48 then d
  else { d with dmp := { d.dmp with pulses := [], storm := [] } }

/-- DMP_CTL_WRITE (R417): either half or the whole register. -/
def effDmpCtl (offset width value : Nat) (e : Env) (d : Device) : Env × Device :=
  if d.regsUp && offset / 8 * 8 = 0xB0008 then (storeWrite offset width value e, d) else (e, d)

/-- A gate entry of the pending bank (R374): 32 bits, a duration of 0 out of range; held while a takeover is armed. -/
def Gate.entry (g : Gate) (i w : Nat) : Gate :=
  if g.armed then g
  else
    let dur := if bits w 23 0 = 0 then bits (tget 0 g.pending i) 23 0 else bits w 23 0
    { g with pending := tset g.pending i (dur + bits w 31 24 * 2 ^ 24) }

/-- PRF_TAKEOVER_p, held while a takeover is armed (R375). -/
def Gate.takeoverWrite (g : Gate) (half width w : Nat) : Gate :=
  if g.armed then g
  else if width = 8 then { g with takeover := w % 2 ^ 64 }
  else if half = 0 then { g with takeover := setBits g.takeover 31 0 w }
  else { g with takeover := setBits g.takeover 63 32 w }

/-- A write among an outlet's registers, at r from its base. -/
def effOutletWrite (p r width value : Nat) (e : Env) (d : Device) : Env × Device :=
  if 0x400 ≤ r && r < 0x800 then
    (e, if width = 4 && r % 4 = 0 then d.setGate p ((d.gate p).entry ((r - 0x400) / 4) (value % 2 ^ 32)) else d)
  else if r = 0x48 && (width = 4 || width = 8) then (e, d.gateCtl e p value)
  else if (r = 0x50 && (width = 4 || width = 8)) || (r = 0x54 && width = 4) then
    (e, d.setGate p ((d.gate p).takeoverWrite (r - 0x50) width value))
  else (storeWrite (0xA1000 + 0x1000 * p + r) width value e, d)

/-- A message pending under a mask goes out when the mask is cleared (R44). It covers what its rings hold pending. -/
def Device.unmask (e : Env) (v : Nat) (d : Device) : Device :=
  let d := { d with hif := { d.hif with msixTable := tset d.hif.msixTable (4 * v + 3) 0 } }
  if !d.hif.msixPending.contains v then d
  else
    let d := { d with hif := { d.hif with msixPending := d.hif.msixPending.filter (· != v) } }
    let d := d.message v
    let clear := fun (k : RingKind) (n : Nat) (d : Device) =>
      if devVector e k n == v then d.setRing k n { d.ring k n with pend := [] } else d
    let d := (d.cq.map (·.1)).foldl (fun d n => clear .cq n d) d
    let d := (d.ts.map (·.1)).foldl (fun d n => clear .ts n d) d
    clear .eq 0 d

/-- One dword of the MSI-X table. -/
def Device.msixWrite (e : Env) (i w : Nat) (d : Device) : Device :=
  if i % 4 = 3 then
    (if bit w 0 then { d with hif := { d.hif with msixTable := tdel d.hif.msixTable i } } else d.unmask e (i / 4))
  else { d with hif := { d.hif with msixTable := tset d.hif.msixTable i (w % 2 ^ 32) } }

/-- A write of BAR4: the table takes aligned dwords and qwords, the pending array none. -/
def effBar4 (offset width value : Nat) (e : Env) (d : Device) : Device :=
  if !d.heard || d.mode == .halted || offset ≥ 0x8000 then d
  else if width = 4 && offset % 4 = 0 then d.msixWrite e (offset / 4) value
  else if width = 8 && offset % 8 = 0 then (d.msixWrite e (offset / 4) (value % 2 ^ 32)).msixWrite e (offset / 4 + 1) (value / 2 ^ 32)
  else d

/-- A write of BAR2 (Table 18.9). -/
def effBar2 (offset width value : Nat) (e : Env) (d : Device) : Device :=
  if offset = 0x608 then effResyncDoorbell width value e d
  else if offset % 4 != 0 then d
  else if offset < 0x400 then effSubmission (offset / 4) width value e d
  else if offset < 0x500 then effCompletionHead ((offset - 0x400) / 4) width value e d
  else if offset < 0x600 then effHead .ts ((offset - 0x500) / 4) width (value % 2 ^ 16) e d
  else if offset = 0x600 then effHead .eq 0 width (value % 2 ^ 16) e d
  else d

/-- A host write of BAR0 in a device that serves its registers. -/
def effBar0 (offset width value : Nat) (e : Env) (d : Device) : Env × Device :=
  let narrow := width = 4 || width = 8
  if offset % (if width = 0 then 1 else width) != 0 then (e, d)
  else if offset = 0 && narrow then effSetupClose value e d
  else if offset = 8 && narrow then
    (e, if bit value 1 then { d with hif := { d.hif with enableRefused := false } } else d)
  else if offset = 0x20 && narrow then (e, effRingEnable value e d)
  else if offset = 0x30070 && width = 8 then (e, effNumstatClear false value e d)
  else if offset = 0x30074 && width = 4 then (e, effNumstatClear false (value * 2 ^ 32) e d)
  else if offset = 0x40020 && width = 8 then (e, effNumstatClear true value e d)
  else if offset = 0x40024 && width = 4 then (e, effNumstatClear true (value * 2 ^ 32) e d)
  else if offset / 16 * 16 = 0x50020 then (chanMapWrite offset width value e, d)
  else if 0xA1000 ≤ offset && offset < 0xAA000 then
    effOutletWrite ((offset - 0xA1000) / 0x1000) ((offset - 0xA1000) % 0x1000) width value e d
  else if offset = 0xB0018 && width = 8 then (e, effPinStatClear false value e d)
  else if offset = 0xB001C && width = 4 then (e, effPinStatClear false (value * 2 ^ 32) e d)
  else if offset = 0xC0030 && narrow then (e, effSoftReset false width value e d)
  else if offset < 0xF0000 then (storeWrite offset width value e, d)
  else (e, d)

/-- Registers honoured in recovery mode: those of submission ring 0 and completion ring 0, HIF_RING_ENABLE (R390). -/
def romRegister (offset : Nat) : Bool :=
  (0x1000 ≤ offset && offset < 0x1010) || (0x2000 ≤ offset && offset < 0x2020) || (0x20 ≤ offset && offset < 0x28)

/-- A write over I3C: HTH_RESET and DMP_PIN_STAT alone (R428). -/
def effI3cWrite (offset width value : Nat) (e : Env) (d : Device) : Device :=
  if !d.i3cUp then d
  else if offset = 0xC0030 then effSoftReset true width value e d
  else if offset = 0xB0018 && width = 8 then effPinStatClear true value e d
  else if offset = 0xB001C && width = 4 then effPinStatClear true (value * 2 ^ 32) e d
  else d

/-- REGISTER_WRITE: any width and any offset of a BAR. -/
def effRegisterWrite (i3c : Bool) (bar offset width value : Nat) (e : Env) (d : Device) : Env × Device :=
  if i3c then (e, effI3cWrite offset width value e d)
  else if bar = 2 then (e, effBar2 offset width value e d)
  else if bar = 4 then (e, effBar4 offset width value e d)
  else if bar != 0 then (e, d)
  else if d.regsUp then effBar0 offset width value e d
  else if d.hif.linkUp && d.mode == .recovery && romRegister offset then effBar0 offset width value e d
  else (e, d)

/-! ## The commands -/

def execSetupClose (t value : Nat) (s : State) : Host.Outcome State Fault Refusal := s.actEnv t (effSetupClose value)
def execRingEnable (t value : Nat) (s : State) : Host.Outcome State Fault Refusal := s.act t (effRingEnable value)
def execApertureWrite (t value : Nat) (s : State) : Host.Outcome State Fault Refusal := s.actEnv t (effAperture value)
def execNumstatClear (t : Nat) (oven : Bool) (value : Nat) (s : State) : Host.Outcome State Fault Refusal :=
  s.act t (effNumstatClear oven value)
def execPinStatClear (t : Nat) (i3c : Bool) (value : Nat) (s : State) : Host.Outcome State Fault Refusal :=
  s.act t (effPinStatClear i3c value)
def execDmpCtlWrite (t offset width value : Nat) (s : State) : Host.Outcome State Fault Refusal :=
  s.actEnv t (effDmpCtl offset width value)
def execRegisterWrite (t : Nat) (i3c : Bool) (bar offset width value : Nat) (s : State) :
    Host.Outcome State Fault Refusal := s.actEnv t (effRegisterWrite i3c bar offset width value)

/-- I3C_DYNAMIC_ADDRESS: SETDASA or ENTDAA (R437). -/
def effI3cAddress (addr : Nat) (_ : Env) (d : Device) : Device :=
  if d.i3cUp then { d with hif := { d.hif with i3cAddr := some (addr % 128) } } else d

def execI3cDynamicAddress (t addr : Nat) (s : State) : Host.Outcome State Fault Refusal := s.act t (effI3cAddress addr)

/-- MSIX_UNMASK (R44). -/
def effMsixUnmask (v : Nat) (e : Env) (d : Device) : Device :=
  if !d.heard || d.mode == .halted || v ≥ 2048 then d else d.unmask e v

def execMsixUnmask (t vector : Nat) (s : State) : Host.Outcome State Fault Refusal := s.act t (effMsixUnmask vector)

end Sys2Proof.Machine
end

