-- ==== Sys2Proof/Machine/Flags.lean ====
section
/-! DEFINITION. What a register reads as (18: R419, Table 18.2 and the field maps it names): stored fields from the
register storage, status fields from the device's state. WO fields read as zero (R9). -/

namespace Sys2Proof.Machine

/-! ## Host interface (Table 18.3), Kneader (Table 18.7), Loaf (Table 18.5) -/

def readSetupStat (e : Env) (d : Device) : Nat :=
  b2n e.closed + b2n d.hif.enableRefused * 2 + d.hif.refusal % 256 * 2 ^ 8 + d.hif.offender % 2 ^ 32 * 2 ^ 16
def readLinkStat (d : Device) : Nat := d.hif.modules % 16 + d.hif.rate % 8 * 2 ^ 4
/-- A CFG register with its enabled bit (Table 18.4). -/
def readCfg (e : Env) (o : Nat) (on : Bool) : Nat := regWord e o + b2n on * 2 ^ 63
def readEpoch (d : Device) : Nat :=
  let k := d.kn
  let newer := k.newer.num % 65536
  (if k.twoLive then k.older.num % 65536 else newer) + newer * 2 ^ 16 + b2n k.twoLive * 2 ^ 32 + b2n k.install.isSome * 2 ^ 33
def readSetStat (e : Env) (d : Device) : Nat :=
  sat lim16 (d.setBanks e false) + sat lim16 (d.setBanks e true) * 2 ^ 16 + sat lim16 (d.shortfall e) * 2 ^ 32

/-! ## Crumb array and Oven (Tables 05.10, 05.12, 04.7, 06.6) -/

def readSlice (d : Device) (n : Nat) : Nat :=
  let banks := 2048 - (d.health.out.filter (fun b => b / 2048 == n)).length
  sat lim16 (tget 0 d.dmp.pace n) + banks * 2 ^ 16 + sat lim16 (tget 0 d.health.corrected n) * 2 ^ 32
    + sat 255 (tget 0 d.health.badRows n) * 2 ^ 48
def readCensus (d : Device) : Nat :=
  d.health.generation % 2 ^ 32 + (24576 - d.health.out.length) * 2 ^ 32 + b2n (!d.health.pending.isEmpty) * 2 ^ 47
def readNumstat (sats nans : Nat) : Nat := sat lim32 sats + sat (2 ^ 31 - 1) nans * 2 ^ 32
/-- The running item: kind and request. -/
def ovenRunning (d : Device) : Nat × Nat :=
  if d.kn.jobs.any (fun j => j.state == .running) then (3, 0)
  else match d.oven.items with
    | [] => (0, 0)
    | .chunk r _ _ :: _ => (1, r)
    | .rows _ _ _ :: _ => (2, 0)
/-- The record count of a job's record in progress is a free value; else that of the record that last ended (R154). -/
def recordCount (e : Env) (d : Device) : Nat := match d.running with
  | some j => Config.runningCount e.now j.seq j.next
  | none => d.oven.recordCount
def readOvenStat (e : Env) (d : Device) (high : Bool) : Nat :=
  if high then recordCount e d % 2 ^ 32 + d.oven.chunks % 2 ^ 32 * 2 ^ 32
  else (ovenRunning d).1 + (ovenRunning d).2 * 2 ^ 2 + b2n (2 ≤ d.oven.items.length) * 2 ^ 22 + d.slotsHeld % 2 ^ 13 * 2 ^ 23

/-! ## Peel, Mill, Stencil, Sifter (Tables 09.17, 12.9, 12.11, 13.9) -/

def readPeelStat (d : Device) : Nat :=
  d.peel.moves.length % 65536 + d.peel.peak % 65536 * 2 ^ 16 + d.peel.cancelled % 2 ^ 32 * 2 ^ 32
def readMillStat (d : Device) : Nat :=
  (d.reqs.filter (fun x => x.2.stopSlot)).length + d.mill.replacements % 2 ^ 32 * 2 ^ 32
def readStencilStat (e : Env) (d : Device) (high : Bool) : Nat :=
  if high then (stencilStore e - d.stencilUsed) / 1024 + d.mill.dead % 2 ^ 32 * 2 ^ 32
  else d.mill.hits % 2 ^ 32 + d.mill.misses % 2 ^ 32 * 2 ^ 32
def readSiftStat (d : Device) (high : Bool) : Nat :=
  if high then d.sift.sketches
  else (d.sift.queries.filter (fun q => q.ctx.isSome)).length + d.sift.completed % 2 ^ 32 * 2 ^ 32

/-! ## Pemos and Proofer (Tables 14.13, 14.14, 15.6, 15.7) -/

/-- A set of nodes as a bit map. -/
def nodeBits (l : List Nat) : Nat := ((upto 64).filter (fun n => l.contains n)).foldl (fun a n => a + 2 ^ n) 0
def readPmsStat (d : Device) (high : Bool) : Nat :=
  if high then d.pem.served % 2 ^ 32 + d.pem.expired % 2 ^ 32 * 2 ^ 32
  else d.pem.ops.length + d.pem.uncertain % 2 ^ 32 * 2 ^ 32
def readPortStat (d : Device) (p : Nat) (high : Bool) : Nat :=
  let x := d.port p
  if high then x.corrected % 2 ^ 32 + x.uncorrectable % 2 ^ 32 * 2 ^ 32
  else x.state % 4 + x.lanes % 16 * 2 ^ 2 + x.replays % 2 ^ 32 * 2 ^ 32
def readGateCtl (d : Device) (p : Nat) : Nat :=
  let g := d.gate p
  g.pendingLen % 512 + b2n g.armed * 2 ^ 9 + b2n g.bankB * 2 ^ 10 + b2n g.error * 2 ^ 11 + g.activeLen % 512 * 2 ^ 12
def readOutletStat (d : Device) (p : Nat) : Nat := (d.gate p).holds % 2 ^ 32 + (d.gate p).takeovers % 65536 * 2 ^ 32

/-! ## Damper and Hearth (Tables 17.10, 17.11, 16.9–16.12) -/

def readPins (d : Device) : Nat :=
  tget 0 d.dmp.pulses 0 + tget 0 d.dmp.pulses 1 * 2 ^ 16 + tget 0 d.dmp.pulses 2 * 2 ^ 32
/-- The lowest Slice supply reported. -/
def lowSupply (d : Device) : Nat :=
  match (leastBy (fun a b => decide (a < b)) ((d.dmp.supply.filter (fun x => x.1 < 12)).map (·.2)) : Option Nat) with
  | some v => v
  | none => 0
def readDamper (e : Env) (d : Device) (high : Bool) : Nat :=
  let m := d.dmp
  if high then tget 0 m.supply 12 % 65536 + lowSupply d % 65536 * 2 ^ 16 + m.cause % 256 * 2 ^ 32
  else sat lim16 (tget 0 m.pace 12) + sat lim16 m.paceMin * 2 ^ 16 + d.factor e % 32 * 2 ^ 32 + m.level % 4 * 2 ^ 37
    + b2n m.throttlePin * 2 ^ 39 + b2n m.warnPin * 2 ^ 40 + b2n (d.mode == .halting || d.mode == .halted) * 2 ^ 41
    + (nodeBits m.frozen % 2 ^ 13) * 2 ^ 42 + m.tj % 256 * 2 ^ 56
/-- A bank's state as HTH_BOOT_STAT codes it. -/
def bankCode (b : Bank) : Nat :=
  if b.state = 0xFF then 0 else if b.state = 0x7F then 1 else if b.state = 0x3F then 2 else if b.state = 0x1F then 3 else 4
def readBoot (d : Device) : Nat :=
  let h := d.hearth
  (if d.mode == .recovery then 2 else b2n h.trial) + b2n h.bootB * 2 ^ 2 + bankCode h.bankA * 2 ^ 8 + bankCode h.bankB * 2 ^ 11
    + b2n d.calValid * 2 ^ 14 + b2n h.settingsApplied * 2 ^ 15 + b2n h.migrationFailed * 2 ^ 16
    + h.fuses.rollback % 256 * 2 ^ 24 + h.version % 2 ^ 32 * 2 ^ 32
/-- The operation of a flash write, and its blocks: those of its contents and the record's. -/
def flashKind : FlashOp → Nat × Nat
  | .commit _ _ im => (1, ceilDiv im.length 65536 + 1)
  | .calibration _ _ s => (2, ceilDiv s.length 65536 + 1)
  | .settings _ b => (3, ceilDiv b.length 65536 + 1)
  | .census _ => (4, 1)
/-- HTH_FLASH_STAT: how far the write in progress has come is a free value. -/
def readFlash (d : Device) : Nat :=
  match d.hearth.ops with
  | [] => sat lim16 d.hearth.stopped * 2 ^ 48
  | o :: _ =>
    let k := flashKind o
    k.1 + Config.flashProgress d.free % (k.2 + 1) * 2 ^ 16 + k.2 % 65536 * 2 ^ 32 + sat lim16 d.hearth.stopped * 2 ^ 48

/-! ## Every register -/

/-- The 128-bit registers' first offsets. -/
def wide (o : Nat) : Bool :=
  o == 0x40010 || o == 0x50020 || o == 0x70010 || o == 0x80010 || o == 0x90020 || o == 0x90030
    || (inBlock o 0x90300 16 8 && o % 16 == 0) || o == 0xB0020 || o == 0xC0010

/-- HIF_ registers. -/
def readHif (e : Env) (d : Device) (o : Nat) : Nat :=
  if o = 0x8 then readSetupStat e d
  else if o = 0x18 then d.hif.winDrops
  else if o = 0x28 then readLinkStat d
  else if inBlock o 0x1000 16 256 && o % 16 = 8 then readCfg e o (d.sqr ((o - 0x1000) / 16)).enabled
  else if inBlock o 0x2000 32 64 && o % 32 = 8 then readCfg e o (d.ring .cq ((o - 0x2000) / 32)).enabled
  else if inBlock o 0x2800 32 64 && o % 32 = 8 then readCfg e o (d.ring .ts ((o - 0x2800) / 32)).enabled
  else if o = 0x3008 then readCfg e o d.eq.enabled
  else regWord e o

/-- KND_, LOAF_, CRB_, OVN_ registers. -/
def readCore (e : Env) (d : Device) (o : Nat) : Nat :=
  if o = 0x10048 then readEpoch d
  else if o = 0x10050 then d.kn.step % 2 ^ 64
  else if o = 0x20110 then readSetStat e d
  else if inBlock o 0x30000 8 12 then readSlice d ((o - 0x30000) / 8)
  else if o = 0x30068 then readCensus d
  else if o = 0x30070 then readNumstat d.health.crbSat d.health.crbNan
  else if o = 0x40010 then readOvenStat e d false
  else if o = 0x40018 then readOvenStat e d true
  else if o = 0x40020 then readNumstat d.health.ovnSat d.health.ovnNan
  else regWord e o

/-- PEL_, MIL_, STN_, SFT_, PMS_ registers. -/
def readUnits (e : Env) (d : Device) (o : Nat) : Nat :=
  if o = 0x50010 then readPeelStat d
  else if o = 0x60008 then readMillStat d
  else if o = 0x70010 then readStencilStat e d false
  else if o = 0x70018 then readStencilStat e d true
  else if o = 0x80010 then readSiftStat d false
  else if o = 0x80018 then readSiftStat d true
  else if o = 0x90020 then readPmsStat d false
  else if o = 0x90028 then readPmsStat d true
  else if o = 0x90030 then nodeBits d.pem.dead
  else if o = 0x90038 then nodeBits d.pem.alternate
  else if inBlock o 0x90300 16 8 then readPortStat d ((o - 0x90300) / 16) (o % 16 == 8)
  else regWord e o

/-- PRF_, DMP_, HTH_ registers. -/
def readRest (e : Env) (d : Device) (o : Nat) : Nat :=
  let p := (o - 0xA1000) / 0x1000
  let r := (o - 0xA1000) % 0x1000
  if 0xA1000 ≤ o && o < 0xAA000 && r = 0x48 then readGateCtl d p
  else if 0xA1000 ≤ o && o < 0xAA000 && r = 0x50 then (d.gate p).takeover
  else if 0xA1000 ≤ o && o < 0xAA000 && r = 0x58 then readOutletStat d p
  else if o = 0xB0018 then readPins d
  else if o = 0xB0020 then readDamper e d false
  else if o = 0xB0028 then readDamper e d true
  else if o = 0xB0030 then e.now
  else if o = 0xC0000 then readBoot d
  else if o = 0xC0010 then d.hearth.fuses.unitId % 2 ^ 64
  else if o = 0xC0018 then d.hearth.fuses.unitId / 2 ^ 64 % 2 ^ 64
  else if o = 0xC0028 then readFlash d
  else regWord e o

/-- The qword at BAR0 offset o (a multiple of 8): a register, half of a 128-bit one, or zero where none is. -/
def readQ (e : Env) (d : Device) (o : Nat) : Nat :=
  if o < 0x10000 then readHif e d o
  else if o < 0x50000 then readCore e d o
  else if o < 0xA0000 then readUnits e d o
  else if o < 0xF0000 then readRest e d o
  else 0

/-- A read of BAR0 (R419): aligned 32-bit and 64-bit reads of 64-bit registers, 64-bit and 128-bit reads of 128-bit
ones, 32-bit reads of gate entries; anything else reads as zero. -/
def readBar0 (e : Env) (d : Device) (o width : Nat) : Nat :=
  let q := o / 8 * 8
  let isWide := wide (o / 16 * 16)
  if 0xA1000 ≤ o && o < 0xAA000 && 0x400 ≤ (o - 0xA1000) % 0x1000 && (o - 0xA1000) % 0x1000 < 0x800 then
    (if width = 4 && o % 4 = 0 then tget 0 (d.gate ((o - 0xA1000) / 0x1000)).pending (((o - 0xA1000) % 0x1000 - 0x400) / 4)
     else 0)
  else if width = 16 && o % 16 = 0 && isWide then readQ e d o + readQ e d (o + 8) * 2 ^ 64
  else if width = 8 && o % 8 = 0 then readQ e d o
  else if width = 4 && o % 4 = 0 && !isWide then (if o % 8 = 0 then readQ e d q % 2 ^ 32 else readQ e d q / 2 ^ 32)
  else 0

end Sys2Proof.Machine
end

