-- ==== Sys2Proof/Machine/Window.lean ====
section
/-! DEFINITION. The CXL.mem window (02: R45, R46), the host link (R21; Table 18.3), the mailbox (R418). -/

namespace Sys2Proof.Machine

/-- Bytes of the window. -/
def windowBytes : Nat := 64 * 2 ^ 30

/-- The LPDDR5X address of a window offset: the fixed part, then the aperture. -/
def windowAddr (e : Env) (o : Nat) : Nat :=
  if o < 48 * 2 ^ 30 then winBase e + o else aperture e + (o - 48 * 2 ^ 30)

/-- WINDOW_READ: the current contents, or poison when any of them is uncorrectable. It waits while a job is being saved
(R212). -/
def effWindowRead (offset count : Nat) (uncorrectable : Bool) (e : Env) (d : Device) : Device :=
  if !d.regsUp || d.saving then d else
  let as := (upto count).map (fun i => windowAddr e (offset + i))
  if uncorrectable || as.any d.lpPoisoned then
    let (n, d) := d.draw
    { d with hif := { d.hif with
      answer := { data := (upto count).map (fun i => Config.poisonByte (n + i)), poison := true } } }
  else
    { d with hif := { d.hif with answer := { data := as.map (d.lpByte e), poison := false } } }

/-- WINDOW_WRITE: completed without effect, and counted. -/
def effWindowWrite (_ : Env) (d : Device) : Device :=
  if !d.regsUp then d else { d with hif := { d.hif with winDrops := sat lim64 (d.hif.winDrops + 1) } }

/-- An access past the window's end has no address (R45). -/
def outside (offset n : Nat) : Bool := windowBytes < offset + n || windowBytes ≤ offset

def execWindowRead (t offset count : Nat) (uncorrectable : Bool) (s : State) : Host.Outcome State Fault Refusal :=
  if outside offset count then .fault .outsideWindow else s.act t (effWindowRead offset count uncorrectable)
def execWindowWrite (t offset : Nat) (data : List Byte) (s : State) : Host.Outcome State Fault Refusal :=
  if outside offset data.length then .fault .outsideWindow else s.act t effWindowWrite

/-! ## The host link -/

/-- HOST_LINK_DOWN: down or retraining. -/
def effHostLinkDown (_ : Env) (d : Device) : Device :=
  { d with hif := { d.hif with linkUp := false, modules := 0, rate := 0 } }

/-- HOST_LINK_UP: held completions are written in order; records follow by HOST_RECORD_WRITE. -/
def effHostLinkUp (modules rate : Nat) (e : Env) (d : Device) : Device :=
  if !d.powered then d else
  let d := { d with hif := { d.hif with linkUp := true, modules := modules % 16, rate := rate % 8 } }
  if d.mode == .halted then d
  else (d.cq.map (fun (r : Nat × DevRing) => (r.1, r.2.held.length))).foldl (fun d x => d.flushHeld e x.1 x.2) d

def execHostLinkDown (t : Nat) (s : State) : Host.Outcome State Fault Refusal := s.act t effHostLinkDown
def execHostLinkUp (t modules rate : Nat) (s : State) : Host.Outcome State Fault Refusal :=
  s.act t (effHostLinkUp modules rate)

/-! ## The mailbox -/

/-- MAILBOX_COMMAND: executed and completed; what it answers is a free value. -/
def effMailbox (opcode : Nat) (_ : List Byte) (_ : Env) (d : Device) : Device :=
  if !d.regsUp then d else
  let (n, d) := d.draw
  { d with hif := { d.hif with mailbox := [opcode, Config.mailboxAnswer n opcode] } }

def execMailboxCommand (t opcode : Nat) (payload : List Byte) (s : State) : Host.Outcome State Fault Refusal :=
  s.act t (effMailbox opcode payload)

end Sys2Proof.Machine
end

