-- ==== Sys2Proof/Machine/Dispatch.lean ====
section
/-! DEFINITION. The dispatcher: one arm per command, each one call of its meaning. -/

namespace Sys2Proof.Machine

def exec (i : Instr) (s : State) : Host.Outcome State Fault Refusal :=
  match i with
  | .descriptorFetch t ring => Sys2Proof.Machine.execDescriptorFetch t ring s
  | .descriptorFetchFailed t ring => Sys2Proof.Machine.execDescriptorFetchFailed t ring s
  | .submissionDoorbell t ring width value visible => Sys2Proof.Machine.execSubmissionDoorbell t ring width value visible s
  | .completionDoorbell t ring width value => Sys2Proof.Machine.execCompletionDoorbell t ring width value s
  | .tokenStreamDoorbell t ring width value => Sys2Proof.Machine.execTokenStreamDoorbell t ring width value s
  | .eventDoorbell t width value => Sys2Proof.Machine.execEventDoorbell t width value s
  | .resyncDoorbell t width addr visible => Sys2Proof.Machine.execResyncDoorbell t width addr visible s
  | .nop t ring => Sys2Proof.Machine.execNop t ring s
  | .generate t ring => Sys2Proof.Machine.execGenerate t ring s
  | .cancel t ring => Sys2Proof.Machine.execCancel t ring s
  | .park t ring => Sys2Proof.Machine.execPark t ring s
  | .modify t ring => Sys2Proof.Machine.execModify t ring s
  | .handoff t ring => Sys2Proof.Machine.execHandoff t ring s
  | .tenantSet t ring => Sys2Proof.Machine.execTenantSet t ring s
  | .mapInstall t ring hostOk => Sys2Proof.Machine.execMapInstall t ring hostOk s
  | .epochDrained t => Sys2Proof.Machine.execEpochDrained t s
  | .jobGrant t ring => Sys2Proof.Machine.execJobGrant t ring s
  | .jobRevoke t ring => Sys2Proof.Machine.execJobRevoke t ring s
  | .recipeLoad t ring hostOk bankOk info => Sys2Proof.Machine.execRecipeLoad t ring hostOk bankOk info s
  | .recipeUnload t ring => Sys2Proof.Machine.execRecipeUnload t ring s
  | .adapterLoad t ring hostOk => Sys2Proof.Machine.execAdapterLoad t ring hostOk s
  | .adapterRetire t ring => Sys2Proof.Machine.execAdapterRetire t ring s
  | .grammarLoad t ring hostOk => Sys2Proof.Machine.execGrammarLoad t ring hostOk s
  | .grammarUnload t ring => Sys2Proof.Machine.execGrammarUnload t ring s
  | .embed t ring hostOk => Sys2Proof.Machine.execEmbed t ring hostOk s
  | .embedRowGroupEnd t ecc => Sys2Proof.Machine.execEmbedRowGroupEnd t ecc s
  | .sift t ring hostOk => Sys2Proof.Machine.execSift t ring hostOk s
  | .siftContextGrant t => Sys2Proof.Machine.execSiftContextGrant t s
  | .siftQueryLimit t ctx => Sys2Proof.Machine.execSiftQueryLimit t ctx s
  | .siftUpdate t ring hostOk => Sys2Proof.Machine.execSiftUpdate t ring hostOk s
  | .fwBlock t ring hostOk flashOk => Sys2Proof.Machine.execFwBlock t ring hostOk flashOk s
  | .fwCommit t ring => Sys2Proof.Machine.execFwCommit t ring s
  | .attest t ring => Sys2Proof.Machine.execAttest t ring s
  | .calWrite t ring hostOk => Sys2Proof.Machine.execCalWrite t ring hostOk s
  | .resync t ring => Sys2Proof.Machine.execResync t ring s
  | .inputReadFailed t request => Sys2Proof.Machine.execInputReadFailed t request s
  | .directoryRecordRead t request => Sys2Proof.Machine.execDirectoryRecordRead t request s
  | .millIntakeQuantum t => Sys2Proof.Machine.execMillIntakeQuantum t s
  | .commit t request => Sys2Proof.Machine.execCommit t request s
  | .demotionRecordWritten t context => Sys2Proof.Machine.execDemotionRecordWritten t context s
  | .bakeStepBoundary t => Sys2Proof.Machine.execBakeStepBoundary t s
  | .deadlineMissed t request => Sys2Proof.Machine.execDeadlineMissed t request s
  | .pagesExhausted t request => Sys2Proof.Machine.execPagesExhausted t request s
  | .idleBoundary t => Sys2Proof.Machine.execIdleBoundary t s
  | .heldBoundary t => Sys2Proof.Machine.execHeldBoundary t s
  | .budgetPeriodEnd t => Sys2Proof.Machine.execBudgetPeriodEnd t s
  | .decodeEnd t ecc storeBad => Sys2Proof.Machine.execDecodeEnd t ecc storeBad s
  | .chunkEnd t ecc => Sys2Proof.Machine.execChunkEnd t ecc s
  | .frameZeroed t recipe pool slot => Sys2Proof.Machine.execFrameZeroed t recipe pool slot s
  | .stagingComplete t context layer index how => Sys2Proof.Machine.execStagingComplete t context layer index how s
  | .jobStart t restoreOk => Sys2Proof.Machine.execJobStart t restoreOk s
  | .jobCommandBoundary t done => Sys2Proof.Machine.execJobCommandBoundary t done s
  | .jobSliceEnd t => Sys2Proof.Machine.execJobSliceEnd t s
  | .jobSaveDone t saveOk => Sys2Proof.Machine.execJobSaveDone t saveOk s
  | .commandOverrun t handshakes => Sys2Proof.Machine.execCommandOverrun t handshakes s
  | .moveStart t kind obj who dest => Sys2Proof.Machine.execMoveStart t kind obj who dest s
  | .moveCommit t move poisoned ecc => Sys2Proof.Machine.execMoveCommit t move poisoned ecc s
  | .moveSourceRelease t move => Sys2Proof.Machine.execMoveSourceRelease t move s
  | .moveAbort t move => Sys2Proof.Machine.execMoveAbort t move s
  | .streamNeedPoint t recipe stream oven lanes => Sys2Proof.Machine.execStreamNeedPoint t recipe stream oven lanes s
  | .streamDeadline t recipe stream noExpert => Sys2Proof.Machine.execStreamDeadline t recipe stream noExpert s
  | .eccSummary t => Sys2Proof.Machine.execEccSummary t s
  | .sliceHang t slice => Sys2Proof.Machine.execSliceHang t slice s
  | .paceLow t domain pace mv tj => Sys2Proof.Machine.execPaceLow t domain pace mv tj s
  | .paceLowDeferred t domain => Sys2Proof.Machine.execPaceLowDeferred t domain s
  | .freeze t domain mv => Sys2Proof.Machine.execFreeze t domain mv s
  | .thaw t domain mv => Sys2Proof.Machine.execThaw t domain mv s
  | .freezeLimit t domain => Sys2Proof.Machine.execFreezeLimit t domain s
  | .thermal t domain tj => Sys2Proof.Machine.execThermal t domain tj s
  | .thermalDeferred t => Sys2Proof.Machine.execThermalDeferred t s
  | .thermalFactorStep t => Sys2Proof.Machine.execThermalFactorStep t s
  | .pwrWarn t => Sys2Proof.Machine.execPwrWarn t s
  | .throttle t asserted => Sys2Proof.Machine.execThrottle t asserted s
  | .pwrWarnStuck t pin => Sys2Proof.Machine.execPwrWarnStuck t pin s
  | .inputStorm t pin => Sys2Proof.Machine.execInputStorm t pin s
  | .powerOn t rstLow start => Sys2Proof.Machine.execPowerOn t rstLow start s
  | .powerLoss t => Sys2Proof.Machine.execPowerLoss t s
  | .fixedRailOutOfRange t => Sys2Proof.Machine.execFixedRailOutOfRange t s
  | .pinReset t start => Sys2Proof.Machine.execPinReset t start s
  | .softReset t i3c width value => Sys2Proof.Machine.execSoftReset t i3c width value s
  | .softStart t start => Sys2Proof.Machine.execSoftStart t start s
  | .setupClose t value => Sys2Proof.Machine.execSetupClose t value s
  | .ringEnable t value => Sys2Proof.Machine.execRingEnable t value s
  | .apertureWrite t value => Sys2Proof.Machine.execApertureWrite t value s
  | .numstatClear t oven value => Sys2Proof.Machine.execNumstatClear t oven value s
  | .pinStatClear t i3c value => Sys2Proof.Machine.execPinStatClear t i3c value s
  | .dmpCtlWrite t offset width value => Sys2Proof.Machine.execDmpCtlWrite t offset width value s
  | .gateArm t outlet value => Sys2Proof.Machine.execGateArm t outlet value s
  | .gateDisarm t outlet value => Sys2Proof.Machine.execGateDisarm t outlet value s
  | .gateTakeover t outlet => Sys2Proof.Machine.execGateTakeover t outlet s
  | .registerWrite t i3c bar offset width value => Sys2Proof.Machine.execRegisterWrite t i3c bar offset width value s
  | .windowRead t offset count uncorrectable => Sys2Proof.Machine.execWindowRead t offset count uncorrectable s
  | .windowWrite t offset data => Sys2Proof.Machine.execWindowWrite t offset data s
  | .i3cDynamicAddress t addr => Sys2Proof.Machine.execI3cDynamicAddress t addr s
  | .hostLinkDown t => Sys2Proof.Machine.execHostLinkDown t s
  | .hostLinkUp t modules rate => Sys2Proof.Machine.execHostLinkUp t modules rate s
  | .streamHoldTimeout t request => Sys2Proof.Machine.execStreamHoldTimeout t request s
  | .hostRecordWrite t => Sys2Proof.Machine.execHostRecordWrite t s
  | .interruptTimeThreshold t kind ring => Sys2Proof.Machine.execInterruptTimeThreshold t kind ring s
  | .msixUnmask t vector => Sys2Proof.Machine.execMsixUnmask t vector s
  | .linkDown t port up cause lanes => Sys2Proof.Machine.execLinkDown t port up cause lanes s
  | .portTrainTimeout t port => Sys2Proof.Machine.execPortTrainTimeout t port s
  | .linkReplay t port received => Sys2Proof.Machine.execLinkReplay t port received s
  | .link t port p => Sys2Proof.Machine.execLink t port p s
  | .read t port p => Sys2Proof.Machine.execRead t port p s
  | .write t port p => Sys2Proof.Machine.execWrite t port p s
  | .add t port p => Sys2Proof.Machine.execAdd t port p s
  | .smin t port p => Sys2Proof.Machine.execSmin t port p s
  | .smax t port p => Sys2Proof.Machine.execSmax t port p s
  | .umin t port p => Sys2Proof.Machine.execUmin t port p s
  | .umax t port p => Sys2Proof.Machine.execUmax t port p s
  | .cas t port p => Sys2Proof.Machine.execCas t port p s
  | .probe t port p => Sys2Proof.Machine.execProbe t port p s
  | .openHandoff t port p session logLength epoch cls => Sys2Proof.Machine.execOpenHandoff t port p session logLength epoch cls s
  | .logDone t port p session logLength => Sys2Proof.Machine.execLogDone t port p session logLength s
  | .logFree t port p session header => Sys2Proof.Machine.execLogFree t port p session header s
  | .kvSend t port p session sentV shared tally pages => Sys2Proof.Machine.execKvSend t port p session sentV shared tally pages s
  | .release t port p image tag => Sys2Proof.Machine.execRelease t port p image tag s
  | .fabricResponse t port p => Sys2Proof.Machine.execFabricResponse t port p s
  | .responseTimeout t tag => Sys2Proof.Machine.execResponseTimeout t tag s
  | .reissueTimer t tag => Sys2Proof.Machine.execReissueTimer t tag s
  | .nodeDead t node => Sys2Proof.Machine.execNodeDead t node s
  | .fabricGiveUp t tag => Sys2Proof.Machine.execFabricGiveUp t tag s
  | .replayEntryExpiry t src tag => Sys2Proof.Machine.execReplayEntryExpiry t src tag s
  | .alternateRouteProbe t node answered => Sys2Proof.Machine.execAlternateRouteProbe t node answered s
  | .deadSetProbe t node answered => Sys2Proof.Machine.execDeadSetProbe t node answered s
  | .portPacketBoundary t port => Sys2Proof.Machine.execPortPacketBoundary t port s
  | .handoffTallyZero t session => Sys2Proof.Machine.execHandoffTallyZero t session s
  | .handoffLimitExpiry t session => Sys2Proof.Machine.execHandoffLimitExpiry t session s
  | .incomingRecordExpiry t session => Sys2Proof.Machine.execIncomingRecordExpiry t session s
  | .flashWriteComplete t how => Sys2Proof.Machine.execFlashWriteComplete t how s
  | .siftComplete t ctx localBad blockBad => Sys2Proof.Machine.execSiftComplete t ctx localBad blockBad s
  | .patrolScrub t slice bank errors => Sys2Proof.Machine.execPatrolScrub t slice bank errors s
  | .pwrWarnRelease t => Sys2Proof.Machine.execPwrWarnRelease t s
  | .initiatorLimitRelease t => Sys2Proof.Machine.execInitiatorLimitRelease t s
  | .mailboxCommand t opcode payload => Sys2Proof.Machine.execMailboxCommand t opcode payload s

end Sys2Proof.Machine
end

