-- ==== Sys2Proof/Safety.lean ====
section
/-! DEFINITION. What counts as safe, and the terms claims use. -/

namespace Sys2Proof.Machine

/-- A step that answers a next state. -/
def Completes (i : Instr) (s : State) : Prop := ∃ t, exec i s = .next t

/-- The memories of a state are in their canonical form. -/
def State.memOk (s : State) : Bool :=
  Memory.wf 0 s.dev.host && Memory.wf 0 s.dev.lp && Memory.wf 0 s.dev.loaf && Memory.wf 0 s.dev.jobMem

/-- The commands that may end in a start (R387, R413–R415). -/
def mayStart : Instr → Bool
  | .powerOn _ _ _ => true
  | .pinReset _ _ => true
  | .softStart _ _ => true
  | _ => false

/-- The commands that may write a set-up register or close set-up. -/
def mayWriteRegs : Instr → Bool
  | .setupClose _ _ => true
  | .apertureWrite _ _ => true
  | .dmpCtlWrite _ _ _ _ => true
  | .registerWrite _ _ _ _ _ _ => true
  | _ => false

/-- The qwords of BAR0 that are stored and have no rule of their own (Table 18.2): not the close, the enables, HIF_APERTURE,
PEL_CHAN_MAP, a NUMSTAT, a gate's registers, DMP_CTL, DMP_PIN_STAT or HTH_RESET. -/
def plainReg (o : Nat) : Bool :=
  o < 0xF0000 && !([0, 8, 0x20, 0x30, 0x30070, 0x40020, 0x50020, 0x50028, 0xB0008, 0xB0018, 0xC0030].contains o)
    && !(0xA1000 ≤ o && o < 0xAA000 && 0x48 ≤ (o - 0xA1000) % 0x1000)

/-- The qword that a write of v at offset o makes of old, before any field's rule: whole, or the half it covers (R419). -/
def writtenWord (old o w v : Nat) : Nat :=
  if w = 8 then v % 2 ^ 64
  else if o % 8 = 0 then old / 2 ^ 32 * 2 ^ 32 + v % 2 ^ 32
  else v % 2 ^ 32 * 2 ^ 32 + old % 2 ^ 32

/-- Every stored register field holds a value of its range (R419). -/
def Env.inRange (e : Env) : Prop := ∀ o, ∀ f ∈ regFields o, f.ok (bits (regWord e o) f.hi f.lo) = true

/-- DMP_CTL holds throttle above warn (R417). -/
def Env.guarded (e : Env) : Prop := warnAt e < throttleAt e

/-- The invariant of the registers and the clock: fields in range, throttle above warn, LTIME within 64 bits. -/
def State.RegsInv (s : State) : Prop := s.env.inRange ∧ s.env.guarded ∧ s.env.now ≤ lim64

/-- The completion ring bound to a submission ring takes an entry now (R28, R31). -/
def Device.hasRoom (e : Env) (d : Device) (ring : Nat) : Prop :=
  (d.ring .cq (sqCq e ring)).held = [] ∧ d.canPut e .cq (sqCq e ring) = true

end Sys2Proof.Machine
end

