-- ==== Sys2Proof/Certificates/Slice0/Obligations.lean ====
section
/-! DEFINITION. The statements for the provers. In each of them `e` is the environment at the command's moment. -/

open Sys2Proof Sys2Proof.Machine

/-! ## The machine as a whole -/

/-- A step takes the command at the front of the queue and runs it with the queue's rest; an empty queue idles (the
queue is the model's, log 1). No command touches the queue of waiting commands. The queue and its idle step are the
model's choice, log 1. -/
def Obligations.StepRunsFrontCommand : Prop :=
  ((∀ (c : Instr) (s : State), step { s with pending := c :: s.pending } = exec c s) ∧
   (∀ s : State, s.pending = [] → step s = .next s)) ∧
  (∀ (c : Instr) (s t : State), exec c s = .next t → t.pending = s.pending)

/-- LTIME never moves backwards but at a start, and stays within 64 bits (R400). Registers change by register writes,
the close and starts alone: every other command leaves every stored register and the state of set-up as they were.
That LTIME is known at the commands' moments and saturates is the model's choice, log 10. -/
def Obligations.ClockAndRegistersKeepTheirRules : Prop :=
  (∀ (c : Instr) (s t : State), mayStart c = false → s.env.now ≤ lim64 → exec c s = .next t →
     s.env.now ≤ t.env.now ∧ t.env.now ≤ lim64) ∧
  (∀ (c : Instr) (s t : State), mayStart c = false → mayWriteRegs c = false → exec c s = .next t →
     t.env.regs = s.env.regs ∧ t.env.closed = s.env.closed)

/-- Once set-up is closed, no command but a start reopens it or changes an RWL field (R9). -/
def Obligations.LockedFieldsKeepTheirValues : Prop :=
  ∀ (c : Instr) (s t : State), s.env.closed = true → mayStart c = false → exec c s = .next t →
    t.env.closed = true ∧
    ∀ o, ∀ f ∈ regFields o, f.locked = true → bits (regWord t.env o) f.hi f.lo = bits (regWord s.env o) f.hi f.lo

/-- Every step keeps every stored field in its range, DMP_CTL's throttle above its warn, and LTIME within 64 bits
(R417, R419, R400). -/
def Obligations.StepKeepsRegistersInRange : Prop :=
  ∀ s t : State, s.RegsInv → step s = .next t → t.RegsInv

/-- The machine after reset: every stored field at its reset value in range, set-up open, LTIME 0, no command
waiting, and memories in canonical form (the model's memories at reset: logs 4 and 8). The reset state is the model's
choice where the spec gives no value, logs 3 to 8 and 81. -/
def Obligations.ResetMeetsInvariants : Prop :=
  State.reset.RegsInv ∧ State.reset.memOk = true ∧ State.reset.pending = [] ∧ State.reset.env.closed = false ∧
  State.reset.env.now = 0 ∧ ∀ o, regWord State.reset.env o = regReset o

/-! ## Set-up and registers (18) -/

/-- A close that no check refuses closes set-up; one that a check refuses stores its code and the offending offset
and leaves set-up open; while the link is down it is not served (R420, R427). The refusals of a close come in the
order of their codes: an asserted PWR_WARN_N before every other (code 1), then the bank runs (code 2) (R422–R426 in
the order of Table 18.10). The order of the checks is the model's reading, log 31. -/
def Obligations.CloseClosesOrSaysWhy : Prop :=
  (∀ (t v : Nat) (s : State) (e : Env), e = s.env.tick t → bit v 0 = true → s.env.closed = false →
     s.dev.hif.linkUp = true → s.dev.mode = .running → s.dev.logicFrozen = false →
     (s.dev.closeRefusal e = none → ∃ u, exec (.setupClose t v) s = .next u ∧ u.env.closed = true ∧
       u.env.regs = s.env.regs ∧ u.dev.kn.released = e.now ∧ u.dev.dmp.alert = false ∧ u.dev.hif.linkUp = true) ∧
     (∀ code off, s.dev.closeRefusal e = some (code, off) → ∃ u, exec (.setupClose t v) s = .next u ∧
       u.env.closed = false ∧ u.env.regs = s.env.regs ∧ u.dev.hif.refusal = code ∧ u.dev.hif.offender = off ∧
       u.dev.host = s.dev.host ∧ u.dev.lp = s.dev.lp)) ∧
  (∀ (e : Env) (d : Device),
     (d.dmp.warnPin = true → d.closeRefusal e = some (1, 0)) ∧
     (d.dmp.warnPin = false → ∀ r, badRun [] (bankRuns e) = some r → d.closeRefusal e = some (2, r)) ∧
     (d.closeRefusal e = none → d.dmp.warnPin = false ∧ d.shortfall e = 0 ∧ chanMapOk e = true ∧
       damperShare e 0 + damperShare e 1 + damperShare e 2 + damperShare e 3 ≤ envelope e))

/-- HIF_RING_ENABLE enables a submission ring after the close, when its base is good and its completion ring enabled;
before the close it refuses and sets the refusal bit (R421). A base whose ring ends at 2^64 is refused by the model's
reading of R421, log 32. -/
def Obligations.RingEnableEnablesOrRefuses : Prop :=
  ∀ (t n : Nat) (s : State) (e : Env), e = s.env.tick t → n < 256 → s.dev.hif.linkUp = true → s.dev.mode = .running →
    (s.dev.sqr n).enabled = false →
    (s.env.closed = true → ringBaseBad (sqBase e n) (64 * sqSize e n) = false →
      (s.dev.ring .cq (sqCq e n)).enabled = true →
      exec (.ringEnable t (4 * n)) s
        = .next { s with env := e, dev := s.dev.setSq n { s.dev.sqr n with enabled := true } }) ∧
    ((s.env.closed = false ∨ ringBaseBad (sqBase e n) (64 * sqSize e n) = true ∨
        (s.dev.ring .cq (sqCq e n)).enabled = false) →
      exec (.ringEnable t (4 * n)) s
        = .next { s with env := e, dev := { s.dev with hif := { s.dev.hif with enableRefused := true } } })

/-- A 64-bit or 32-bit write of a stored register puts each of its fields that is not locked and whose new value is in
range in place, and leaves every other field and every other register; it changes nothing of the device; a write of any
other width or alignment, or to a device that does not serve its registers, changes nothing but the clock (R9, R419).
HIF_APERTURE moves when the new range lies in the directory range, and keeps its value otherwise (R45). A write of
DMP_CTL that would set throttle at or below warn, each checked against its own range first, keeps both, and its other
fields take effect; after the close it changes nothing (R417, R9). -/
def Obligations.RegisterWritesStoreFields : Prop :=
  (∀ (t o w v m : Nat) (s : State) (e : Env), e = s.env.tick t → plainReg (o / 8 * 8) = true →
     ((s.dev.regsUp = true → (w = 8 ∧ o % 8 = 0) ∨ (w = 4 ∧ o % 4 = 0) → m = writtenWord (regWord s.env (o / 8 * 8)) o w v →
       ∃ u, exec (.registerWrite t false 0 o w v) s = .next u ∧ u.dev = s.dev ∧ u.pending = s.pending ∧
         u.env.closed = s.env.closed ∧ u.env.now = e.now ∧
         (∀ f ∈ regFields (o / 8 * 8), bits (regWord u.env (o / 8 * 8)) f.hi f.lo =
           if (f.locked && s.env.closed) = false ∧ f.ok (bits m f.hi f.lo) = true then bits m f.hi f.lo
           else bits (regWord s.env (o / 8 * 8)) f.hi f.lo) ∧
         (∀ o', o' ≠ o / 8 * 8 → regWord u.env o' = regWord s.env o')) ∧
      ((w ≠ 8 ∧ w ≠ 4) ∨ o % w ≠ 0 ∨ (s.dev.regsUp = false ∧ s.dev.mode ≠ .recovery) →
        exec (.registerWrite t false 0 o w v) s = .next { s with env := e }))) ∧
  ((∀ (t v : Nat) (s : State) (e : Env), e = s.env.tick t →
     (s.dev.regsUp = true → v < 2 ^ 11 → ∃ u, exec (.apertureWrite t v) s = .next u ∧ u.dev = s.dev ∧
       u.env.closed = s.env.closed ∧ u.env.now = e.now ∧
       reg u.env 0x30 10 0 = (if apertureOk s.env v then v else reg s.env 0x30 10 0) ∧
       (∀ o', o' ≠ 0x30 → regWord u.env o' = regWord s.env o') ∧
       exec (.registerWrite t false 0 0x30 8 v) s = .next u) ∧
     (s.dev.regsUp = false → exec (.apertureWrite t v) s = .next { s with env := e })) ∧
   (∀ (t o w v m nw nt : Nat) (s : State) (e : Env), e = s.env.tick t → o / 8 * 8 = 0xB0008 →
     (s.dev.regsUp = true → (w = 8 ∧ o % 8 = 0) ∨ (w = 4 ∧ o % 4 = 0) → m = writtenWord (regWord s.env 0xB0008) o w v →
       nw = (if 60 ≤ bits m 22 16 ∧ bits m 22 16 ≤ 100 then bits m 22 16 else warnAt s.env) →
       nt = (if 70 ≤ bits m 29 23 ∧ bits m 29 23 ≤ 103 then bits m 29 23 else throttleAt s.env) →
       ∃ u, exec (.dmpCtlWrite t o w v) s = .next u ∧ u.dev = s.dev ∧ u.env.closed = s.env.closed ∧ u.env.now = e.now ∧
         (s.env.closed = true → u.env.regs = s.env.regs) ∧
         (s.env.closed = false →
           (warnAt u.env, throttleAt u.env) = (if nw < nt then (nw, nt) else (warnAt s.env, throttleAt s.env)) ∧
           (∀ f ∈ regFields 0xB0008, f.lo ≠ 16 → f.lo ≠ 23 → bits (regWord u.env 0xB0008) f.hi f.lo =
             if f.ok (bits m f.hi f.lo) = true then bits m f.hi f.lo else bits (regWord s.env 0xB0008) f.hi f.lo)) ∧
         (∀ o', o' ≠ 0xB0008 → regWord u.env o' = regWord s.env o') ∧
         exec (.registerWrite t false 0 o w v) s = .next u) ∧
     ((w ≠ 8 ∧ w ≠ 4) ∨ o % w ≠ 0 ∨ s.dev.regsUp = false →
       exec (.dmpCtlWrite t o w v) s = .next { s with env := e })))

/-- The clears: a 1 in bit 63 of a NUMSTAT register zeroes its two counts and no others (R100); a 1 in bit 48 of
DMP_PIN_STAT clears the pulse counts (R407), by the host or over I3C. SETDASA or ENTDAA gives the I3C target its
dynamic address (R437); a cleared MSI-X mask unmasks its vector, sends a pending message once, and leaves the
memories (R44). MSI-X masks are PRESUMED from PCIe, log 6; what an unmasked vector covers is the model's reading, log
36. -/
def Obligations.StatusClearsAndAddresses : Prop :=
  (∀ (t v : Nat) (s : State) (e : Env), e = s.env.tick t →
     (s.dev.regsUp = true → bit v 63 = true →
       exec (.numstatClear t true v) s = .next { s with env := e, dev := { s.dev with
         health := { s.dev.health with ovnSat := 0, ovnNan := 0 } } } ∧
       exec (.numstatClear t false v) s = .next { s with env := e, dev := { s.dev with
         health := { s.dev.health with crbSat := 0, crbNan := 0 } } }) ∧
     (∀ i3c, (if i3c then s.dev.i3cUp else s.dev.regsUp) = true → bit v 48 = true →
       exec (.pinStatClear t i3c v) s = .next { s with env := e, dev := { s.dev with
         dmp := { s.dev.dmp with pulses := [], storm := [] } } })) ∧
  ((∀ (t a : Nat) (s : State), s.dev.i3cUp = true → a < 128 →
     exec (.i3cDynamicAddress t a) s = .next { s with env := s.env.tick t, dev := { s.dev with
       hif := { s.dev.hif with i3cAddr := some a } } }) ∧
   (∀ (t v : Nat) (s : State), s.dev.heard = true → s.dev.mode ≠ .halted → v < 2048 →
     ∃ u, exec (.msixUnmask t v) s = .next u ∧ u.dev.masked v = false ∧ u.dev.hif.msixPending.contains v = false ∧
       u.dev.host = s.dev.host ∧ u.dev.lp = s.dev.lp ∧
       (s.dev.hif.msixPending.contains v = true →
         tget 0 u.dev.hif.msixSent v = tget 0 s.dev.hif.msixSent v + 1) ∧
       (s.dev.hif.msixPending.contains v = false → u.dev.hif.msixSent = s.dev.hif.msixSent)))

/-! ## Gates (15) -/

/-- A write of PRF_GATE_CTL_p with arm set arms a pending list that meets R376, with the takeover instant of R375,
and sets the error bit for one that does not; without arm set it disarms before the instant. The active list, the
cycle base and the bank stand in every case. An armed takeover that is disarmed before its instant is off; one whose
instant has come is not (R375). At its instant an armed pending list becomes active, the instant the cycle base; the
takeover is counted and the gate no longer armed (R375). That the pending bank holds the old list after a takeover is
the model's reading, log 62. -/
def Obligations.GatesArmDisarmAndTakeOver : Prop :=
  (∀ (t p v : Nat) (s : State) (e : Env), e = s.env.tick t → s.dev.regsUp = true → p ≤ 8 → bits v 8 0 ≤ 256 →
     (s.dev.gate p).armed = false →
     (bit v 9 = true → ∃ u, exec (.gateArm t p v) s = .next u ∧
       (let g := { s.dev.gate p with pendingLen := bits v 8 0 }
        (g.mayArm e p = true → (u.dev.gate p).armed = true ∧ (u.dev.gate p).at_ = g.instant) ∧
        (g.mayArm e p = false → (u.dev.gate p).armed = false ∧ (u.dev.gate p).error = true)) ∧
       (u.dev.gate p).active = (s.dev.gate p).active ∧ (u.dev.gate p).base = (s.dev.gate p).base) ∧
     (bit v 9 = false → ∃ u, exec (.gateDisarm t p v) s = .next u ∧ (u.dev.gate p).armed = false ∧
       (u.dev.gate p).pendingLen = bits v 8 0 ∧ (u.dev.gate p).active = (s.dev.gate p).active) ∧
     (∀ q, q ≠ p → ∀ u, exec (.gateArm t p v) s = .next u → u.dev.gate q = s.dev.gate q)) ∧
  (∀ (t p v : Nat) (s : State) (e : Env), e = s.env.tick t → s.dev.regsUp = true → p ≤ 8 → bit v 9 = false →
     (s.dev.gate p).armed = true →
     ∃ u, exec (.gateDisarm t p v) s = .next u ∧ (u.dev.gate p).armed = !decide (e.now < (s.dev.gate p).at_) ∧
       (u.dev.gate p).pendingLen = (s.dev.gate p).pendingLen ∧ (u.dev.gate p).pending = (s.dev.gate p).pending) ∧
  (∀ (t p : Nat) (s : State) (e : Env), e = s.env.tick t → s.dev.mode = .running → p ≤ 8 →
     (s.dev.gate p).armed = true → (s.dev.gate p).at_ ≤ e.now →
     ∃ u, exec (.gateTakeover t p) s = .next u ∧
       (let g := u.dev.gate p
        g.active = (s.dev.gate p).pending ∧ g.activeLen = (s.dev.gate p).pendingLen ∧
        g.pending = (s.dev.gate p).active ∧ g.base = (s.dev.gate p).at_ ∧ g.armed = false ∧
        g.bankB = !(s.dev.gate p).bankB ∧ g.takeovers = ((s.dev.gate p).takeovers + 1) % 65536) ∧
       (∀ q, q ≠ p → u.dev.gate q = s.dev.gate q) ∧ u.dev.host = s.dev.host ∧ u.dev.lp = s.dev.lp)

/-! ## Rings, doorbells, fetch (02) -/

/-- A submission doorbell: with the ring enabled and the value below its size the tail is the value's low 16 bits and
a stopped ring resumes; at or beyond the size bad doorbell is set and the tail stands (R25, R29). The driver's stores
become visible first (R26). A head doorbell of a device-produced ring that holds no completion back: a head within
what is pending becomes the ring's last head; one that would pass the tail, or at or beyond the size, sets bad
doorbell and moves nothing (R25). The visible stores as an operand are the model's choice, log 4. -/
def Obligations.DoorbellsMoveTailsAndHeads : Prop :=
  (∀ (t ring v : Nat) (vis : List (Nat × Byte)) (s : State) (e : Env), e = s.env.tick t → s.dev.heard = true →
     s.dev.mode ≠ .halted → (s.dev.sqr ring).enabled = true →
     (v % 65536 < sqSize e ring → exec (.submissionDoorbell t ring 4 v vis) s = .next { s with env := e, dev := (
       (s.dev.visible vis).setSq ring { s.dev.sqr ring with tail := v % 65536, stopped := false }) }) ∧
     (sqSize e ring ≤ v % 65536 → exec (.submissionDoorbell t ring 4 v vis) s = .next { s with env := e, dev := (
       (s.dev.visible vis).setSq ring { s.dev.sqr ring with bad := true }) })) ∧
  (∀ (t n v : Nat) (s : State) (e : Env), e = s.env.tick t → s.dev.heard = true →
     ((s.dev.ring .cq n).enabled = true → (s.dev.ring .cq n).held = [] → v < 2 ^ 20 →
       ∃ u, exec (.completionDoorbell t n 4 v) s = .next u ∧ u.dev.host = s.dev.host ∧
         (if v < devSize e .cq n ∧ (v + devSize e .cq n - (s.dev.ring .cq n).lastHead) % devSize e .cq n
               ≤ (s.dev.ring .cq n).used (devSize e .cq n)
           then (u.dev.ring .cq n).lastHead = v ∧ (u.dev.ring .cq n).bad = (s.dev.ring .cq n).bad
           else u.dev.ring .cq n = { s.dev.ring .cq n with bad := true })) ∧
     ((s.dev.ring .ts n).enabled = true → v < 2 ^ 16 →
       ∃ u, exec (.tokenStreamDoorbell t n 4 v) s = .next u ∧ u.dev.host = s.dev.host ∧
         (if v < devSize e .ts n ∧ (v + devSize e .ts n - (s.dev.ring .ts n).lastHead) % devSize e .ts n
               ≤ (s.dev.ring .ts n).used (devSize e .ts n)
           then (u.dev.ring .ts n).lastHead = v ∧ (u.dev.ring .ts n).bad = (s.dev.ring .ts n).bad
           else u.dev.ring .ts n = { s.dev.ring .ts n with bad := true })) ∧
     (s.dev.eq.enabled = true → v < 2 ^ 16 →
       ∃ u, exec (.eventDoorbell t 4 v) s = .next u ∧ u.dev.host = s.dev.host ∧
         (if v < devSize e .eq 0 ∧ (v + devSize e .eq 0 - s.dev.eq.lastHead) % devSize e .eq 0
               ≤ s.dev.eq.used (devSize e .eq 0)
           then u.dev.eq.lastHead = v ∧ u.dev.eq.bad = s.dev.eq.bad
           else u.dev.eq = { s.dev.eq with bad := true })))

/-- The resync doorbell fetches its descriptor from host memory at once when no RESYNC is in progress: a valid RESYNC
waits for the next boundary, any other descriptor gets its header alone, with status 0x20; while one is in progress the
address is kept, the last one standing; a doorbell that is no aligned 64-bit write, or that comes before the close or to
a device that does not run, is ignored (R47, R429). RESYNC from a ring waits for the next boundary; in recovery mode,
which has none, it is answered at once (R47, R390). A boundary answers what waits: the summary, its header last, and the
completion; then it takes the doorbell kept meanwhile (R47, R48, R392). The moment of the doorbell's fetch, and that a
boundary answers nothing while the link is down, are the model's choice, log 38. -/
def Obligations.ResyncIsFetchedAndAnswered : Prop :=
  (∀ (t a w : Nat) (vis : List (Nat × Byte)) (s : State) (e : Env) (d : Device), e = s.env.tick t →
     d = s.dev.visible vis →
     (s.env.closed = true → s.dev.heard = true → s.dev.mode = .running → w = 8 → a % 64 = 0 →
       (∀ f : Fetched, f = ⟨none, s.dev.nextSeq, (upto 8).map (fun i => d.hostNat (a + 8 * i) 8)⟩ → s.dev.resync = [] →
         (f.op = 0x3F → f.form e = none →
           exec (.resyncDoorbell t w a vis) s = .next { s with env := e, dev := { d with resync := [f] } }) ∧
         (f.op ≠ 0x3F ∨ f.form e ≠ none → exec (.resyncDoorbell t w a vis) s = .next { s with env := e, dev := (
           d.hostWrite (f.w 2) (toBytes 8 (bits (f.w 3) 31 0 + 0x20 * 2 ^ 32))) })) ∧
       (s.dev.resync ≠ [] →
         exec (.resyncDoorbell t w a vis) s = .next { s with env := e, dev := { d with resyncDb := some a } })) ∧
     (w ≠ 8 ∨ a % 64 ≠ 0 ∨ s.env.closed = false ∨ s.dev.heard = false ∨ s.dev.mode ≠ .running →
       exec (.resyncDoorbell t w a vis) s = .next { s with env := e, dev := d })) ∧
  (∀ (t ring : Nat) (s : State) (e : Env) (f : Fetched) (d : Device), e = s.env.tick t →
     s.dev.take e ring 0x3F = some (f, d) →
     (d.mode ≠ .recovery →
       exec (.resync t ring) s = .next { s with env := e, dev := { d with resync := d.resync ++ [f] } }) ∧
     (d.mode = .recovery → d.hif.linkUp = true →
       exec (.resync t ring) s = .next { s with env := e, dev := d.writeSummary e f })) ∧
  (∀ (t ring : Nat) (s : State) (e : Env), e = s.env.tick t →
     s.dev.take e ring 0x3F = none ∨ (s.dev.mode = .recovery ∧ s.dev.hif.linkUp = false) →
     exec (.resync t ring) s = .next { s with env := e }) ∧
  (∀ (e : Env) (d : Device),
     (d.hif.linkUp = false → d.snapshot e = d) ∧
     (d.hif.linkUp = true → d.resyncDb = none → (d.snapshot e).resync = []) ∧
     (d.hif.linkUp = true → d.resyncDb = none → d.mode = .running → ∀ (f : Fetched) (d1 : Device) (st : Nat),
       d.resync = [f] → st = (if d.hearth.resyncMigration then 0x63 else 0) →
       d1 = { d with resync := [], free := d.free + 1, hearth := { d.hearth with resyncMigration := false } } →
       d.snapshot e = (((d1.hostWrite (f.w 2 + 8) (({ d with resync := [], free := d.free + 1 } : Device).summary e d.free)).hostWrite
         (f.w 2) (toBytes 8 (bits (f.w 3) 31 0 + st * 2 ^ 32))).completeD e f st 0 summaryLen)) ∧
     (d.hif.linkUp = true → d.resync = [] → ∀ a, d.resyncDb = some a →
       d.snapshot e = ({ d with resyncDb := none } : Device).fetchResync e a))

/-- A fetch takes the descriptor at the head and moves the head on; one whose form is good waits for its opcode's
command, one whose form is bad completes BAD_DESCRIPTOR with the detail of the first check it fails, and in recovery
mode an opcode not served there completes with status 0xFF, detail 7; a class W descriptor beyond the backlog is not
fetched, and where nothing may be fetched only the clock moves (R30, R34, R35, R390, R447). A fetch that fails on the
link stops the ring, sets its bad doorbell, and completes BAD_DESCRIPTOR with cookie 0 and detail 0x000B (R29). That a
fenced descriptor of bad form is refused at its fetch is the model's choice, log 108. -/
def Obligations.FetchTakesDescriptor : Prop :=
  (∀ (t ring : Nat) (s : State) (e : Env) (f : Fetched), e = s.env.tick t → f = s.dev.peek e ring →
     (s.dev.canFetch e ring = true →
       ((opClass f.op ≠ some .w ∨ s.dev.classW < Config.maxClassW) → ∀ d : Device,
         d = { s.dev with
           sq := tset s.dev.sq ring { s.dev.sqr ring with head := ((s.dev.sqr ring).head + 1) % sqSize e ring },
           nextSeq := s.dev.nextSeq + 1,
           inflight := s.dev.inflight ++ [⟨f.seq, ring, f.cookie, f.op, f.quiet, false⟩] } →
         ((s.dev.mode ≠ .recovery ∨ recoveryOp f.op = true) →
           (f.form e = none → exec (.descriptorFetch t ring) s
             = .next { s with env := e, dev := { d with fetched := s.dev.fetched ++ [f] } }) ∧
           (∀ k, f.form e = some k → exec (.descriptorFetch t ring) s
             = .next { s with env := e, dev := d.completeD e f 0x20 k 0 })) ∧
         (s.dev.mode = .recovery → recoveryOp f.op = false → exec (.descriptorFetch t ring) s
           = .next { s with env := e, dev := d.completeD e f 0xFF 7 0 })) ∧
       (opClass f.op = some .w → Config.maxClassW ≤ s.dev.classW →
         exec (.descriptorFetch t ring) s = .next { s with env := e })) ∧
     (s.dev.canFetch e ring = false → exec (.descriptorFetch t ring) s = .next { s with env := e } ∧
       exec (.descriptorFetchFailed t ring) s = .next { s with env := e })) ∧
  (∀ (t ring : Nat) (s : State) (e : Env), e = s.env.tick t → s.dev.canFetch e ring = true →
     exec (.descriptorFetchFailed t ring) s = .next { s with env := e, dev := (
       ({ s.dev.setSq ring { s.dev.sqr ring with stopped := true, bad := true } with nextSeq := s.dev.nextSeq + 1 } : Device).complete
         e ⟨s.dev.nextSeq, ring, 0, none, 0x20, 0, 0x000B, 0, 0, false⟩) } ∧
     ∃ u, exec (.descriptorFetchFailed t ring) s = .next u ∧ (u.dev.sqr ring).stopped = true ∧
       (u.dev.sqr ring).bad = true ∧ (u.dev.sqr ring).head = (s.dev.sqr ring).head ∧
       u.dev.canFetch e ring = false ∧ u.dev.lp = s.dev.lp ∧
       (s.dev.hasRoom e ring → ∀ n a : Nat, n = sqCq e ring → a = devBase e .cq n + 32 * (s.dev.ring .cq n).next →
         bits (u.dev.hostNat a 8) 63 56 = 0x20 ∧ bits (u.dev.hostNat a 8) 31 0 = 0 ∧ bits (u.dev.hostNat a 8) 63 52 = 0x201 ∧
         bits (u.dev.hostNat (a + 8) 8) 63 32 = 0x000B) ∧
       (¬ s.dev.hasRoom e ring → u.dev.host = s.dev.host))

/-- The form checks come in the order of R447: opcode, privilege, tenant, rsvd, alignment, range. A fence holds its
descriptor back while an earlier descriptor of its ring is in flight, and a started class M descriptor holds back
every later one of its ring (R30). -/
def Obligations.FormChecksAndFencesHoldBack : Prop :=
  (∀ (e : Env) (f : Fetched) (n : Nat), f.ring = some n →
     (opClass f.op = none → f.form e = some 1) ∧
     (opClass f.op ≠ none → sqPriv e n = false → f.needsPriv = true → f.form e = some 5) ∧
     (opClass f.op ≠ none → sqPriv e n = false → f.needsPriv = false → f.tenant ≠ sqTenant e n → f.form e = some 6) ∧
     (opClass f.op ≠ none → (sqPriv e n = true ∨ (f.needsPriv = false ∧ f.tenant = sqTenant e n)) →
       (f.rsvdBad = true → f.form e = some 2) ∧
       (f.rsvdBad = false → f.misaligned = true → f.form e = some 4) ∧
       (f.rsvdBad = false → f.misaligned = false → f.form e = (if f.outOfRange then some 3 else none)))) ∧
  (∀ (e : Env) (d : Device) (ring op : Nat) (f : Fetched) (rest : List Fetched) (y : InFlight),
     y ∈ d.inflight → y.ring = ring → y.seq < f.seq →
     takeFirst (fun g => g.ring == some ring) d.fetched = some (f, rest) →
     (f.fence = true ∨ (y.started = true ∧ opClass y.op = some .m)) →
     d.take e ring op = none)

/-- NOP completes DONE: its entry in host memory carries its cookie, status 0, no request entry, reason 0, detail 0, the
ring and head of its submission ring, result 0, quality 0 and the ring's phase; the descriptor is no longer in flight
(R38, Table 02.4); where the ring has no NOP that may start, only the clock moves (R30). A completion on a ring
without a free entry, or with the link down, is held in order and takes no entry; with room it is written at the
ring's next index and the index moves on (R21, R28, R31). -/
def Obligations.NopCompletesDone : Prop :=
  (∀ (t ring : Nat) (s : State) (e : Env), e = s.env.tick t →
     (∀ (f : Fetched) (d : Device), s.dev.take e ring 0x00 = some (f, d) →
       exec (.nop t ring) s = .next { s with env := e, dev := d.completeD e f 0 0 0 } ∧
       (s.dev.hasRoom e ring → ring < 256 → (s.dev.sqr ring).head < 65536 →
         ∃ u, exec (.nop t ring) s = .next u ∧ u.dev.reqs = s.dev.reqs ∧ u.dev.ctxs = s.dev.ctxs ∧ u.dev.lp = s.dev.lp ∧
           (∀ x ∈ u.dev.inflight, x.seq ≠ f.seq) ∧
           (∀ n a : Nat, n = sqCq e ring → a = devBase e .cq n + 32 * (s.dev.ring .cq n).next →
             bits (u.dev.hostNat a 8) 31 0 = f.cookie ∧ bits (u.dev.hostNat a 8) 63 32 = 2 ^ 20 ∧
             u.dev.hostNat (a + 8) 8 = (s.dev.sqr ring).head + ring * 2 ^ 16 ∧ u.dev.hostNat (a + 16) 8 = 0 ∧
             bits (u.dev.hostNat (a + 24) 8) 62 0 = 0 ∧
             bit (u.dev.hostNat (a + 24) 8) 63 = (s.dev.ring .cq n).phase))) ∧
     (s.dev.take e ring 0x00 = none → exec (.nop t ring) s = .next { s with env := e })) ∧
  (∀ (e : Env) (d : Device) (c : Completion), c.request = none →
     (¬ d.hasRoom e c.ring → (d.complete e c).host = d.host ∧ (d.complete e c).inflight = d.inflight ∧
       ((d.complete e c).ring .cq (sqCq e c.ring)).held = (d.ring .cq (sqCq e c.ring)).held ++ [c] ∧
       ((d.complete e c).ring .cq (sqCq e c.ring)).next = (d.ring .cq (sqCq e c.ring)).next) ∧
     (d.hasRoom e c.ring → ((d.complete e c).ring .cq (sqCq e c.ring)).held = [] ∧
       (∀ x ∈ (d.complete e c).inflight, x.seq ≠ c.seq) ∧
       (d.complete e c).host = mwrites 0 d.host (devBase e .cq (sqCq e c.ring) + 32 * (d.ring .cq (sqCq e c.ring)).next)
         (withPhase (d.ring .cq (sqCq e c.ring)).phase (c.bytes (d.sqr c.ring).head)) ∧
       ((d.complete e c).ring .cq (sqCq e c.ring)).next =
         if (d.ring .cq (sqCq e c.ring)).next + 1 = devSize e .cq (sqCq e c.ring) then 0
         else (d.ring .cq (sqCq e c.ring)).next + 1))

/-! ## Requests (03, 08, 12) -/

/-- GENERATE that every admission check passes takes an entry: ADMITTED, with the descriptor's session, tenant,
priority, Recipe and cookie, its incarnation one higher, LTIME as its admission time; nothing is written to host
memory (R51, R53, R55). One that a check fails completes with that check's status and detail, and takes no entry. The
admission checks in the order of Table 03.4: the text limits, the Recipe, the adapter, the epoch, a held tenant, a
busy session, the handles, the entries (R55). The entry taken, where none was ever freed, is the model's choice, log
9. -/
def Obligations.GenerateAdmits : Prop :=
  (∀ (t ring : Nat) (s : State) (e : Env) (f : Fetched) (d : Device), e = s.env.tick t →
     s.dev.take e ring 0x01 = some (f, d) →
     (d.admissionFault f = none → d.fresh < Config.requestEntries →
       ∃ u, exec (.generate t ring) s = .next u ∧ u.dev.fresh = d.fresh + 1 ∧ u.dev.host = s.dev.host ∧
         (let r := u.dev.req d.fresh
          r.state = .admitted ∧ r.session = f.session ∧ r.tenant = f.tenant ∧ r.priority = f.priority ∧
          r.recipe = f.recipe ∧ r.cookie = f.cookie ∧ r.admitted = e.now ∧ r.logged = 0 ∧
          r.incarnation = ((d.req d.fresh).incarnation + 1) % 65536)) ∧
     (∀ x, d.admissionFault f = some x →
       exec (.generate t ring) s = .next { s with env := e, dev := d.completeD e f x.1 x.2 0 })) ∧
  (∀ (d : Device) (f : Fetched),
     let ss := d.spans (f.w 4) (bits (f.w 5) 15 0)
     (textOver ss = true → d.admissionFault f = some (0x20, 3)) ∧
     (textOver ss = false → ∀ x, d.recipeFault f.recipe = some x → d.admissionFault f = some x) ∧
     (textOver ss = false → d.recipeFault f.recipe = none → ∀ k, d.adapterFault f.recipe f.adapter f.version = .inl k →
       d.admissionFault f = some (0x23, k)) ∧
     (textOver ss = false → d.recipeFault f.recipe = none → (∃ v, d.adapterFault f.recipe f.adapter f.version = .inr v) →
       (∀ k, d.epochFault (bits (f.w 3) 15 0) = some k → d.admissionFault f = some (0x22, k)) ∧
       (d.epochFault (bits (f.w 3) 15 0) = none →
         ((d.tenant f.tenant).held = true → d.admissionFault f = some (0x13, 0)) ∧
         ((d.tenant f.tenant).held = false → d.sessionBusy f.session = true → d.admissionFault f = some (0x20, 7)) ∧
         ((d.tenant f.tenant).held = false → d.sessionBusy f.session = false → d.handleFault f = true →
           d.admissionFault f = some (0x20, 0x000C)) ∧
         ((d.tenant f.tenant).held = false → d.sessionBusy f.session = false → d.handleFault f = false →
           d.fresh < Config.requestEntries → d.admissionFault f = none))))

/-- The standing and blocks of an ADMITTED request that need not wait are read: a check of the log length that fails
refuses the request with detail 9 (R37, R56); sound blocks bind it, its words staged, or its text sent to the Mill
and the request in INTAKE (R56, R57, R302). A failed read of an input ends the request BAD_DESCRIPTOR with detail
0x000A, and its entry is free (R58). A quantum takes in 1 MiB of the text of the next one served in admission order,
and no more of any other; a text taken in whole is tokenised and staged (R302). -/
def Obligations.StandingBindsRequest : Prop :=
  (∀ (t i : Nat) (s : State) (e : Env) (r : Request), e = s.env.tick t → r = s.dev.req i →
     s.dev.serving e = true → r.state = .admitted → r.bound = false → s.dev.mustWait e r = false →
     (bit (r.desc.getD 7 0) 23 = true → r.session ≠ 0 → bits (r.desc.getD 7 0) 22 0 ≠ s.dev.standing e r.session →
       exec (.directoryRecordRead t i) s = .next { s with env := e, dev := s.dev.refuseReq e i 0x20 9 }) ∧
     (bit (r.desc.getD 7 0) 23 = false → ∀ (rs : RecipeSlot) (sm : Sampling), s.dev.recipe r.recipe = some rs →
       s.dev.inputFault rs.mill (s.dev.spans (r.desc.getD 4 0) (bits (r.desc.getD 5 0) 15 0)) = none →
       s.dev.samplingAt (r.desc.getD 6 0) (s.dev.info r.recipe).vocab = .inr sm → sm.stops = [] →
       ∃ u, exec (.directoryRecordRead t i) s = .next u ∧ (u.dev.req i).bound = true ∧
         (let ss := s.dev.spans (r.desc.getD 4 0) (bits (r.desc.getD 5 0) 15 0)
          (u.dev.req i).state = (if ss.any (fun x => decide (x.type ≤ 1)) then .intake else .admitted) ∧
          (u.dev.req i).textLeft = partsText (s.dev.inputParts ss) ∧
          (u.dev.req i).staged = if partsText (s.dev.inputParts ss) = 0 then (stageParts rs.mill (s.dev.inputParts ss)).1
            else []) ∧
         u.dev.host = s.dev.host ∧ u.dev.lp = s.dev.lp)) ∧
  (∀ (t i : Nat) (s : State) (e : Env), e = s.env.tick t → s.dev.serving e = true →
     ((s.dev.req i).state = .admitted ∨ (s.dev.req i).state = .intake) →
     ∃ u, exec (.inputReadFailed t i) s = .next u ∧ u.dev = s.dev.refuseReq e i 0x20 0x000A ∧
       (u.dev.req i).state = .free ∧ (u.dev.req i).incarnation = (s.dev.req i).incarnation) ∧
  (∀ (t i order : Nat) (s : State) (e : Env), e = s.env.tick t → s.dev.serving e = true →
     nextServed s.dev.mill.lastServed s.dev.millWaiters = some (order, true, i) →
     ∃ u, exec (.millIntakeQuantum t) s = .next u ∧ u.dev.mill.lastServed = order ∧
       (u.dev.req i).textLeft = (s.dev.req i).textLeft - 2 ^ 20 ∧
       ((s.dev.req i).textLeft ≤ 2 ^ 20 → (u.dev.req i).parts = [] ∧
         (u.dev.req i).staged = (stageParts (s.dev.millOf (s.dev.req i).recipe) (s.dev.req i).parts).1) ∧
       ∀ j, j ≠ i → u.dev.req j = s.dev.req j)

/-- COMMIT appends the staged tokens as a whole at the log's end, then places the request, and new Oven work may be
posted (R57, R59, R202). An empty input for a session without a log is refused (R57), and an input that does not fit
the longest log ends DONE with reason 3, nothing appended (Table 03.7). A demotion's record write ends with the
context entry unused: every field but the incarnation reads zero (R68). The log of an anonymous context is freed by
the model's reading, log 13. -/
def Obligations.CommitAppendsOrRefuses : Prop :=
  (∀ (t i b : Nat) (s : State) (e : Env) (d0 d1 d2 : Device) (r : Request) (x : Context), e = s.env.tick t →
     r = s.dev.req i → s.dev.mayCommit e i = true → ¬ (s.dev.standing e r.session = 0 ∧ r.staged = []) →
     s.dev.contextFor e i = some d0 → d1 = d0.pinAt e i → x = d1.ctx (d1.req i).context →
     x.logLength + r.staged.length < Config.maxLog → pastDeadline e r = false →
     d1.logEnsure e x.logBase (x.logLength + r.staged.length) = some (b, d2) →
     exec (.commit t i) s = .next { s with env := e, dev := (
       (((((d2.logPut b x.logLength r.staged).modCtx (d1.req i).context (fun y =>
           { y with logBase := b, logLength := x.logLength + r.staged.length })).modReq i (fun r =>
           { r with staged := [] })).placeReq e i x.logLength).markRevived i b x.logLength r.staged).fillOven e) }) ∧
  (∀ (t i : Nat) (s : State) (e : Env), e = s.env.tick t → s.dev.mayCommit e i = true →
     (s.dev.standing e (s.dev.req i).session = 0 → (s.dev.req i).staged = [] →
       exec (.commit t i) s = .next { s with env := e, dev := (s.dev.refuseReq e i 0x20 3).fillOven e }) ∧
     (∀ d0 d1 : Device, (s.dev.req i).staged ≠ [] → s.dev.contextFor e i = some d0 → d1 = d0.pinAt e i →
       Config.maxLog < (d1.ctx (d1.req i).context).logLength + (s.dev.req i).staged.length →
       exec (.commit t i) s = .next { s with env := e, dev := (d1.endReq e i 0 3 0).fillOven e })) ∧
  (∀ (t c : Nat) (s : State) (e : Env), e = s.env.tick t → s.dev.serving e = true → (s.dev.ctx c).demoting = true →
     ∃ u, exec (.demotionRecordWritten t c) s = .next u ∧ u.dev.ctx c = { incarnation := (s.dev.ctx c).incarnation } ∧
       (∀ c', c' ≠ c → u.dev.ctx c' = s.dev.ctx c') ∧ u.dev.reqs = s.dev.reqs ∧ u.dev.host = s.dev.host)

/-- A request that ends is DONE for status 0 and FAILED otherwise, with its status and reason; it holds no seat, no
logits slot, no chunk and no staged token; other requests keep their entries, and host memory is untouched: its
completion follows its end record (R61, R62, R27). At a check of deadlines a request whose deadline LTIME has passed
ends TIMEOUT (status 0x31, detail 1), and one that has waited for frames past its bound ends PAGES_EXHAUSTED (status
0x12) with the detail of what it waits for (R63, R186); one that is not checked then, in mid step, or with an ending or
a change of its own due first, is left alone (R63, R64). Before its time a check changes only the clock: the model's
choice, logs 11 and 80. -/
def Obligations.EndedRequestsHoldNothing : Prop :=
  (∀ (e : Env) (d : Device) (i status reason detail : Nat), (d.req i).going = true →
     let u := d.endReq e i status reason detail
     (u.req i).state = (if status = 0 then .done else .failed) ∧ (u.req i).endStatus = status ∧
     (u.req i).reason = reason ∧ (u.req i).slot = false ∧ (u.req i).chunk = none ∧ (u.req i).staged = [] ∧
     (∀ x ∈ u.kn.seats, x.2 ≠ i) ∧ (∀ j, j ≠ i → u.req j = d.req j) ∧ u.host = d.host ∧ u.lp = d.lp ∧
     (u.req i).logged = (d.req i).logged) ∧
  (∀ (t i : Nat) (s : State) (e : Env) (r : Request), e = s.env.tick t → r = s.dev.req i →
     s.dev.checkable e i = true →
     (r.deadline ≠ 0 → r.deadline < e.now → (r.waitFrom = none ∨ r.state = .waitFetch) →
       exec (.deadlineMissed t i) s = .next { s with env := e, dev := s.dev.endReq e i 0x31 0 1 }) ∧
     ((r.deadline = 0 ∨ e.now ≤ r.deadline) → exec (.deadlineMissed t i) s = .next { s with env := e }) ∧
     (∀ w, r.waitFrom = some w → r.state ≠ .waitFetch →
       (waitBound e r w < e.now →
         exec (.pagesExhausted t i) s = .next { s with env := e, dev := s.dev.endReq e i 0x12 0 r.waitKind }) ∧
       (e.now ≤ waitBound e r w → exec (.pagesExhausted t i) s = .next { s with env := e }))) ∧
  (∀ (t i : Nat) (s : State) (e : Env), e = s.env.tick t → s.dev.checkable e i = false →
     exec (.deadlineMissed t i) s = .next { s with env := e } ∧ exec (.pagesExhausted t i) s = .next { s with env := e })

/-- CANCEL of a request that has no step or chunk in progress ends it CANCELLED (status 0x32) and completes DONE; of
one that is SEATED, READY, in WAIT_PAGE, in WAIT_FETCH or in a chunk it is kept for the boundary or the chunk's end;
with no such request it completes DONE with detail 1 (R14, R32, R60, R64; READY and the waits: the model's reading,
log 22). PARK with no live request clears the pin and sets the parked bit of the session's resident context, which is
demoted at once when asked, and completes DONE with detail 1 (R284). MODIFY of a request that is not SEATED gives it
the deadline and priority that its flags name, at once, and leaves its state; of a SEATED one it waits for the
boundary (R65, R194). -/
def Obligations.CancelParkModifyTakeEffect : Prop :=
  (∀ (t ring : Nat) (s : State) (e : Env) (f : Fetched) (d : Device), e = s.env.tick t →
     s.dev.take e ring 0x02 = some (f, d) → d.foreign e f = false →
     (∀ i, d.target f = some i → (d.req i).going = true →
       ((d.req i).cancelLater = false → exec (.cancel t ring) s
         = .next { s with env := e, dev := (d.endReq e i 0x32 0 0).completeD e f 0 0 0 }) ∧
       ((d.req i).cancelLater = true → exec (.cancel t ring) s = .next { s with env := e, dev := { d with kn :=
         { d.kn with changes := d.kn.changes ++ [.cancel f i (d.req i).incarnation] } } })) ∧
     (d.target f = none → exec (.cancel t ring) s = .next { s with env := e, dev := d.completeD e f 0 1 0 })) ∧
  (∀ (t ring c : Nat) (s : State) (e : Env) (f : Fetched) (d : Device), e = s.env.tick t →
     s.dev.take e ring 0x03 = some (f, d) → d.foreign e f = false → d.inHandoff f.session = false →
     d.target f = none → d.ctxOf f.session = some c → (d.ctx c).live = false →
     ∃ u, exec (.park t ring) s = .next u ∧ (u.dev.ctx c).pinned = false ∧ (u.dev.ctx c).parked = true ∧
       (u.dev.ctx c).demoting = ((d.ctx c).demoting || bit (f.w 2) 0) ∧ (u.dev.ctx c).logLength = (d.ctx c).logLength ∧
       u.dev.reqs = s.dev.reqs) ∧
  (∀ (t ring i : Nat) (s : State) (e : Env) (f : Fetched) (d : Device), e = s.env.tick t →
     s.dev.take e ring 0x04 = some (f, d) → d.foreign e f = false → d.target f = some i → (d.req i).going = true →
     ((d.req i).state ≠ .seated → ∃ u, exec (.modify t ring) s = .next u ∧
       (u.dev.req i).priority = (if bit (f.w 3) 3 then bits (f.w 3) 2 0 else (d.req i).priority) ∧
       (u.dev.req i).deadline = (if bit (f.w 3) 4 then f.w 2 else (d.req i).deadline) ∧
       (u.dev.req i).state = (d.req i).state ∧ (∀ j, j ≠ i → u.dev.req j = s.dev.req j) ∧ u.dev.lp = s.dev.lp) ∧
     ((d.req i).state = .seated → exec (.modify t ring) s = .next { s with env := e, dev := { d with kn :=
       { d.kn with changes := d.kn.changes ++ [.modify f i (d.req i).incarnation] } } }))

/-- TENANT_SET waits for the boundary; there it gives the tenant its weight, held bit and budget, resets no deficit,
touches no other tenant, no request, no candidate for a seat and no job; a tenant never set has weight 1; a held
tenant's JOB_GRANT and GENERATE are refused TENANT_HELD, status 0x13 (R33, R200, R194). The completion at the boundary is the
model's reading, log 41. -/
def Obligations.TenantSettingsAndBudgets : Prop :=
  (∀ (t ring : Nat) (s : State) (e : Env) (f : Fetched) (d : Device), e = s.env.tick t →
     s.dev.take e ring 0x10 = some (f, d) →
     exec (.tenantSet t ring) s = .next { s with env := e, dev := { d with kn :=
       { d.kn with changes := d.kn.changes ++ [.tenantSet f] } } }) ∧
   (∀ (e : Env) (d : Device) (f : Fetched),
     let u := d.applyChange e (.tenantSet f)
     (u.tenant f.tenant).weight = bits (f.w 2) 15 0 ∧ (u.tenant f.tenant).held = bit (f.w 2) 16 ∧
     (u.tenant f.tenant).budget = bits (f.w 2) 63 32 ∧ (u.tenant f.tenant).used = (d.tenant f.tenant).used ∧
     (u.tenant f.tenant).seatDeficit = (d.tenant f.tenant).seatDeficit ∧
     (u.tenant f.tenant).ovenDeficit = (d.tenant f.tenant).ovenDeficit ∧
     (∀ n, n ≠ f.tenant → u.tenant n = d.tenant n) ∧ u.reqs = d.reqs ∧ u.candidates = d.candidates ∧
     u.kn.jobs = d.kn.jobs) ∧
   (∀ (d : Device) (n : Nat), tfind d.kn.tenants n = none → (d.tenant n).weight = 1) ∧
   (∀ (t ring : Nat) (s : State) (e : Env) (f : Fetched) (d : Device), e = s.env.tick t →
     (d.tenant f.tenant).held = true → d.recipeFault f.recipe = none →
     (s.dev.take e ring 0x12 = some (f, d) →
       exec (.jobGrant t ring) s = .next { s with env := e, dev := d.completeD e f 0x13 0 0 }) ∧
     (s.dev.take e ring 0x01 = some (f, d) → textOver (d.spans (f.w 4) (bits (f.w 5) 15 0)) = false →
       (∃ v, d.adapterFault f.recipe f.adapter f.version = .inr v) → d.epochFault (bits (f.w 3) 15 0) = none →
       exec (.generate t ring) s = .next { s with env := e, dev := d.completeD e f 0x13 0 0 }))

/-! ## Boundaries, steps, chunks (05, 06, 08, 10) -/

/-- A boundary outside a job runs the lines of R194 in order: endings, changes, deadlines; then, with no job
eligible, waiting fetches, seats, Oven items, background reclaim; the decode of the seated list begins, and a bake
step is counted when some sequence is seated (R194, R197). A job that is eligible takes the chip instead (R206,
R207). After a boundary a decode is in progress exactly when a sequence is seated and no job took the chip (R194).
While a job holds the chip a boundary runs the first three lines of R194 and no others, and no decode begins (R197).
The bake step number counts steps begun, log 51; boundaries come as commands, log 11. -/
def Obligations.BoundaryRunsLinesInOrder : Prop :=
  (∀ (t : Nat) (s : State) (e : Env) (d1 d2 : Device), e = s.env.tick t → s.dev.atBoundary e = true →
     s.dev.jobHolds = false → d1 = ((s.dev.clearStep.endDue e).applyChanges e).checkTimes e →
     (d1.eligibleJob e = none → d2 = (((d1.serveFetch e).settle e).fillOven e).background e → ∀ d3 : Device,
       d3 = { d2 with kn := { d2.kn with decoding := !d2.kn.seats.isEmpty, step := d2.kn.step + b2n (!d2.kn.seats.isEmpty),
                                         workAt := if d2.kn.seats.isEmpty then d2.kn.workAt else e.now } } →
       exec (.bakeStepBoundary t) s = .next { s with env := e, dev := d3.triggers.boundaryEnd e } ∧
       (s.dev.kn.seats = [] → exec (.idleBoundary t) s = .next { s with env := e, dev := d3.triggers.boundaryEnd e })) ∧
     (∀ j, d1.eligibleJob e = some j →
       exec (.bakeStepBoundary t) s = .next { s with env := e, dev := (d1.takeChip e j).boundaryEnd e })) ∧
  (∀ (t : Nat) (s : State) (e : Env), e = s.env.tick t → s.dev.atBoundary e = true → s.dev.jobHolds = false →
     (((s.dev.clearStep.endDue e).applyChanges e).checkTimes e).eligibleJob e = none →
     ∃ u, exec (.bakeStepBoundary t) s = .next u ∧ u.dev.kn.decoding = !u.dev.kn.seats.isEmpty) ∧
  (∀ (t : Nat) (s : State) (e : Env), e = s.env.tick t → s.dev.serving e = true → s.dev.jobHolds = true →
     exec (.heldBoundary t) s = .next { s with env := e, dev := (
       ((((s.dev.clearStep.endDue e).applyChanges e).checkTimes e).lostEvents e).snapshot e) } ∧
     exec (.bakeStepBoundary t) s = .next { s with env := e } ∧ exec (.idleBoundary t) s = .next { s with env := e })

/-- A decode that met no error runs every seated Recipe's programs; its numeric events are counted, every seated
sequence takes its step in seat order with what the array computed, the step's streamed tensors are let go, and no
decode is in progress; while a streamed tensor that a lane needs is missing only the clock moves (R100, R124, R194).
A generated token goes to the log's end and is counted for its request and its tenant once; after a stop condition
nothing is appended (R12, R204, R267, R268). At the end of a budget period every tenant's use starts again, and its use
beyond its allowance is carried into the next period only; budgets stand; before LTIME has passed a multiple of the period
only the clock moves (R204). The excess counted over the reduced budget is the model's choice, log 101. -/
def Obligations.DecodeEndStepsSeats : Prop :=
  (∀ (t : Nat) (store : List Nat) (s : State) (e : Env) (p : Pass) (xs : List Drafted) (d1 d2 : Device),
     e = s.env.tick t → s.dev.serving e = true → s.dev.kn.decoding = true → s.dev.decode [] store = (p, xs) →
     (p.blocked = true → exec (.decodeEnd t [] store) s = .next { s with env := e }) ∧
     (p.blocked = false →
       d1 = (s.dev.kn.seats.map (·.2)).foldl (fun d i => d.stepSeq e [] p xs i)
         ((s.dev.ranBy p.dev).numeric true p.sats p.nans) →
       d2 = d1.endUse e (.step d1.kn.step) p.used → d2.mode = .running →
       exec (.decodeEnd t [] store) s
         = .next { s with env := e, dev := { d2 with kn := { d2.kn with decoding := false } } })) ∧
  (∀ (e : Env) (d : Device) (i tok : Nat),
     ((d.req i).stop ≠ 0 → d.appendToken e i tok = d) ∧
     ((d.req i).stop = 0 → ∀ b d', d.logEnsure e (d.ctx (d.req i).context).logBase
         ((d.ctx (d.req i).context).logLength + 1) = some (b, d') →
       let u := d.appendToken e i tok
       (u.ctx (d.req i).context).logLength = (d.ctx (d.req i).context).logLength + 1 ∧
       (u.req i).logged = (d.req i).logged + 1 ∧ (u.req i).lastToken = e.now ∧
       (u.tenant (d.req i).tenant).used = (d.tenant (d.req i).tenant).used + 1 ∧
       (∀ j, j ≠ i → u.req j = d.req j) ∧ (∀ c, c ≠ (d.req i).context → u.ctx c = d.ctx c))) ∧
  (∀ (t : Nat) (s : State) (e : Env), e = s.env.tick t → s.dev.serving e = true → tokenBudgetMode e = true →
     (e.now / budgetPeriod e = s.dev.kn.budgetAt / budgetPeriod e →
       exec (.budgetPeriodEnd t) s = .next { s with env := e }) ∧
     (e.now / budgetPeriod e ≠ s.dev.kn.budgetAt / budgetPeriod e →
     ∃ u, exec (.budgetPeriodEnd t) s = .next u ∧ u.dev.kn.budgetAt = e.now ∧ ∀ n, (u.dev.tenant n).used = 0 ∧
       (u.dev.tenant n).budget = (s.dev.tenant n).budget ∧ (u.dev.tenant n).weight = (s.dev.tenant n).weight ∧
       (u.dev.tenant n).carry = if (s.dev.tenant n).budget = 0 then 0
         else (s.dev.tenant n).used - ((s.dev.tenant n).budget - (s.dev.tenant n).carry)))

/-- Verification emits the accepted drafted tokens in order and at most one token more; what it accepts is a prefix
of what was drafted (R265). The stop conditions of a token in their order: end of sequence, grammar end, stop string,
length (R268). -/
def Obligations.VerificationAcceptsPrefix : Prop :=
  (∀ (d : Device) (r : Request) (pos : Nat) (drafted : List Nat) (main drafts : List (List Nat)) (cs : List Constraint),
     let em := d.verify r pos [] drafted main drafts cs
     em.accepted ≤ drafted.length ∧ em.tokens.take em.accepted = drafted.take em.accepted ∧
     em.accepted ≤ em.tokens.length ∧ em.tokens.length ≤ em.accepted + 1 ∧
     (em.dead = none → em.tokens.length = em.accepted + 1)) ∧
  (∀ a b c l : Bool,
     (a = true → stopReason a b c l = 1) ∧ (a = false → b = true → stopReason a b c l = 4) ∧
     (a = false → b = false → c = true → stopReason a b c l = 2) ∧
     (a = false → b = false → c = false → stopReason a b c l = if l then 3 else 0))

/-- The Oven's running chunk, met no error, runs the prefill program to its end: the item leaves the queue and is
counted, the chunk's results are taken by its request, the item's streamed tensors are let go, and new items may be
posted; while a streamed tensor that it needs is missing only the clock moves (R144, R145, R202). A chunk whose result
is poisoned ends its request POISON (status 0x43) with the detail of Table 05.7; its V does not rise (R144, R149). -/
def Obligations.ChunkEndServesRequest : Prop :=
  (∀ (t i start stop : Nat) (rest : List Item) (s : State) (e : Env) (x : Bake) (d0 d : Device), e = s.env.tick t →
     s.dev.serving e = true → s.dev.oven.items = .chunk i start stop :: rest →
     x = s.dev.bake (s.dev.chunkWork e i start stop) [] →
     (x.blocked = true → exec (.chunkEnd t []) s = .next { s with env := e }) ∧
     (x.blocked = false → d0 = (s.dev.baked x e []).keepItems (fun k _ => k != 0) →
       d = { d0 with oven := { d0.oven with chunks := sat lim32 (d0.oven.chunks + 1) } } →
       d.oven.items.length = rest.length ∧ d.oven.chunks = sat lim32 (s.dev.oven.chunks + 1) ∧
       ((s.dev.req i).going = true → (s.dev.req i).chunk = some (start, stop) →
         exec (.chunkEnd t []) s = .next { s with env := e, dev := (
           ((d.chunkDone e i start stop x []).endUse e (.item i) x.used).fillOven e) }) ∧
       ((s.dev.req i).chunk ≠ some (start, stop) →
         exec (.chunkEnd t []) s = .next { s with env := e, dev := (d.endUse e (.item i) x.used).fillOven e }))) ∧
  (∀ (e : Env) (d : Device) (i start stop : Nat) (x : Bake), x.poison ≠ 0 →
     (d.req i).going = true → d.kn.changes = [] →
     let u := d.chunkDone e i start stop x []
     (u.req i).state = .failed ∧ (u.req i).endStatus = 0x43 ∧ (u.req i).detail = x.poison ∧
     (u.ctx (d.req i).context).valid ≤ (d.ctx (d.req i).context).valid)

/-- A frame whose zeroing completes is free of it: its bytes are zero, no other frame changes, and with no request in
WAIT_PAGE nothing is granted; a list frame whose zeroing completes is free (R185, R241, R242). A staging of a tier-1 page ends with the page's image in its bench slot
and the staging ready (R188, R190). The moment is the environment's, log 11. -/
def Obligations.ZeroingFreesAndStagingBrings : Prop :=
  (∀ (t r p slot : Nat) (s : State) (e : Env), e = s.env.tick t → s.dev.mode = .running → s.dev.logicFrozen = false →
     r ≠ 16 → (s.dev.frame r p slot).zeroing = true → (∀ x ∈ s.dev.reqs, x.2.state ≠ .waitPage) →
     ∃ u, exec (.frameZeroed t r p slot) s = .next u ∧
       u.dev.frame r p slot = { s.dev.frame r p slot with zeroing := false } ∧
       u.dev.loaf = slotClear ((s.dev.info r).pool p) slot s.dev.loaf ∧
       (∀ k, k ≠ frameKey r p slot → tget {} u.dev.frames k = tget {} s.dev.frames k) ∧ u.dev.ctxs = s.dev.ctxs) ∧
  (∀ (t p n : Nat) (s : State) (e : Env) (f : ListFrame), e = s.env.tick t → s.dev.mode = .running → s.dev.logicFrozen = false →
     tfind s.dev.lists n = some f → f.zeroing = true → (∀ x ∈ s.dev.reqs, x.2.state ≠ .waitPage) →
     exec (.frameZeroed t 16 p n) s = .next { s with env := e, dev := { s.dev with lists := tdel s.dev.lists n } }) ∧
  (∀ (t c l i key : Nat) (s : State) (e : Env) (p : Page) (pl : PoolInfo), e = s.env.tick t → s.dev.serving e = true →
     s.dev.staging c l i = some (key, false) → (s.dev.ctx c).page l i = some p → p.tier = 1 → s.dev.liveReq c = none →
     pl = (s.dev.info (s.dev.ctx c).recipe).layerPool l →
     exec (.stagingComplete t c l i .ok) s = .next { s with env := e, dev := { s.dev with
       loaf := slotWrite pl (key % 2 ^ 24) s.dev.loaf 0 (mreads 0 s.dev.lp (p.frame * 4096) pl.slotBytes),
       frames := tset s.dev.frames key { tget {} s.dev.frames key with owner := .stage c l i true, lastUse := e.now } } })

/-! ## Exclusive jobs (08) -/

/-- JOB_GRANT for a loaded Recipe, a tenant not held, a program it has and a sound slice queues a job, ready from
now; it completes when the job ends (R205, R214). A held tenant's is refused with status 0x13. JOB_REVOKE of a job
that is not running completes DONE and ends the job REVOKED (status 0x50, detail 1); a running one is marked and ends
at its record's end; with no such job it completes DONE with detail 1 (R213). -/
def Obligations.JobGrantQueuesRevokeEnds : Prop :=
  (∀ (t ring : Nat) (s : State) (e : Env) (f : Fetched) (d : Device), e = s.env.tick t →
     s.dev.take e ring 0x12 = some (f, d) → d.recipeFault f.recipe = none →
     ((d.tenant f.tenant).held = false → bits (f.w 3) 15 0 < (d.info f.recipe).jobs.length → bits (f.w 3) 15 0 ≤ 63 →
       (bits (f.w 2) 47 0 = 0 ∨ 1000000 ≤ bits (f.w 2) 47 0) → bits (f.w 5) 31 0 ≤ 65536 → saveSlots e ≠ 0 →
       ∃ u j, exec (.jobGrant t ring) s = .next u ∧ u.dev.kn.jobs = d.kn.jobs ++ [j] ∧ j.seq = f.seq ∧
         j.cookie = f.cookie ∧ j.tenant = f.tenant ∧ j.recipe = f.recipe ∧ j.program = bits (f.w 3) 15 0 ∧
         j.slice = bits (f.w 2) 47 0 ∧ j.ready = e.now ∧ j.state = .queued ∧ j.slot = none ∧ j.next = 0 ∧
         u.dev.host = s.dev.host ∧ u.dev.inflight = d.inflight) ∧
     ((d.tenant f.tenant).held = true →
       exec (.jobGrant t ring) s = .next { s with env := e, dev := d.completeD e f 0x13 0 0 })) ∧
  (∀ (t ring : Nat) (s : State) (e : Env) (f : Fetched) (d : Device), e = s.env.tick t →
     s.dev.take e ring 0x13 = some (f, d) →
     (∀ j, d.kn.jobs = [j] → j.cookie = bits (f.w 2) 31 0 →
       (j.state ≠ .running → exec (.jobRevoke t ring) s
         = .next { s with env := e, dev := (d.completeD e f 0 0 0).endJob e j 0x50 1 }) ∧
       (j.state = .running → ∃ u, exec (.jobRevoke t ring) s = .next u ∧
         u.dev.kn.jobs = [{ j with revoked := true }])) ∧
     ((∀ j ∈ d.kn.jobs, j.cookie ≠ bits (f.w 2) 31 0) →
       exec (.jobRevoke t ring) s = .next { s with env := e, dev := d.completeD e f 0 1 0 }))

/-- A job that has taken the chip starts, once the Oven and the Sifter are idle: its argument block, or what it
saved, is its memory, and its slice ends a slice, or what is left of it, from now (R207, R208, R210). The argument
block is read at this moment by the model's reading, log 47. -/
def Obligations.JobStartLoadsMemory : Prop :=
  ∀ (t : Nat) (s : State) (e : Env) (j : Job), e = s.env.tick t → s.dev.serving e = true → s.dev.oven.items = [] →
    (∀ q ∈ s.dev.sift.queries, q.ctx = none) → s.dev.kn.jobs = [j] → j.state = .taking → s.dev.program j ≠ [] →
    ∃ u, exec (.jobStart t true) s = .next u ∧
      (j.saves = 0 → u.dev.jobMem = mwrites 0 [] 0 (s.dev.hostRead j.argAddr j.argLen)) ∧
      (0 < j.saves → ∀ o, o < jobBytes →
        mread 0 u.dev.jobMem o = mread 0 s.dev.lp (slotAddr e (j.slot.getD 0) + o)) ∧
      (∃ k, u.dev.kn.jobs = [k] ∧ k.state = .running ∧ k.next = j.next ∧ k.began = e.now ∧
        k.sliceEnd = if j.slice = 0 then 0 else e.now + (if 0 < j.saves then j.remaining else (j.slice : Int)).toNat) ∧
      u.dev.lp = s.dev.lp ∧ u.dev.host = s.dev.host

/-- At a record's end a job past neither its slice nor its program goes on to its next record; one at its program's
end ends DONE; one past its slice begins its save with the next slice shortened by the overrun (R153, R208, R209,
R214). LTIME past the slice end makes preemption pending, not before (R208); a record past twice its declared
duration ends its job OVERRUN (status 0x51) with the record's index as detail, one overrun for its tenant (R209).
An Oven record's results are computed (R153); while a streamed tensor that it needs is missing only the clock moves.
What a crumb record of a job leaves comes with the command, log 26; before its time a command changes only the clock,
log 11. -/
def Obligations.JobRecordsEndOnTimeOrOverrun : Prop :=
  (∀ (t : Nat) (done : RecordEnd) (s : State) (e : Env) (j : Job) (r : JobRec) (d : Device), e = s.env.tick t →
     s.dev.serving e = true → s.dev.kn.jobs = [j] → j.state = .running → (s.dev.program j)[j.next]? = some r →
     done.handshakes ≤ 2 * recDuration r.op → j.fault = false → j.revoked = false → done.ecc = [] →
     (s.dev.runRecord e j done = none → exec (.jobCommandBoundary t done) s = .next { s with env := e }) ∧
     (∀ d0, s.dev.runRecord e j done = some d0 →
     d = { d0 with
           oven := { s.dev.oven with recordCount := sat lim32 done.handshakes },
           kn := { s.dev.kn with jobs := [{ j with next := j.next + 1 }] } } →
     ((s.dev.program j).length ≤ j.next + 1 → exec (.jobCommandBoundary t done) s
       = .next { s with env := e, dev := d.endJob e { j with next := j.next + 1 } 0 0 }) ∧
     (j.next + 1 < (s.dev.program j).length → j.preempt = false → (j.slice = 0 ∨ e.now ≤ j.sliceEnd) →
       exec (.jobCommandBoundary t done) s
         = .next { s with env := e, dev := { d with kn := { d.kn with workAt := e.now } } }) ∧
     (j.next + 1 < (s.dev.program j).length → j.slice ≠ 0 → j.sliceEnd < e.now →
       ∃ u k, exec (.jobCommandBoundary t done) s = .next u ∧ u.dev.kn.jobs = [k] ∧ k.state = .saving ∧
         k.next = j.next + 1 ∧ k.remaining = (j.slice : Int) - ((e.now - j.sliceEnd : Nat) : Int) ∧
         u.dev.jobMem = d.jobMem))) ∧
  (∀ (t h : Nat) (s : State) (e : Env) (j : Job), e = s.env.tick t → s.dev.serving e = true → s.dev.kn.jobs = [j] →
     j.state = .running →
     (j.slice ≠ 0 → j.sliceEnd < e.now → ∃ u, exec (.jobSliceEnd t) s = .next u ∧
       u.dev.kn.jobs = [{ j with preempt := true }] ∧ u.dev.jobMem = s.dev.jobMem) ∧
     (e.now ≤ j.sliceEnd → exec (.jobSliceEnd t) s = .next { s with env := e }) ∧
     (2 * recDuration (s.dev.recordOf j).op < h → exec (.commandOverrun t h) s = .next { s with env := e, dev := (
       (({ s.dev with oven := { s.dev.oven with recordCount := sat lim32 h } } : Device).modTenant j.tenant (fun x =>
         { x with overruns := sat lim16 (x.overruns + 1) })).endJob e j 0x51 (j.next % 65536)) }) ∧
     (h ≤ 2 * recDuration (s.dev.recordOf j).op → exec (.commandOverrun t h) s = .next { s with env := e }))

/-- A save keeps the job: its save slot holds every byte of the job's memory at the offsets of Table 08.3, the job is
saved with one save more and the chip is released with its memory zero (R210, R211, R216). -/
def Obligations.SaveKeepsJobMemory : Prop :=
  ∀ (t : Nat) (s : State) (e : Env) (j : Job), e = s.env.tick t → s.dev.serving e = true → s.dev.kn.jobs = [j] →
    j.state = .saving →
    ∃ u, exec (.jobSaveDone t true) s = .next u ∧
      (∀ o, o < jobBytes → mread 0 u.dev.lp (slotAddr e (j.slot.getD 0) + o) = mread 0 s.dev.jobMem o) ∧
      (∀ a, a < slotAddr e (j.slot.getD 0) ∨ slotAddr e (j.slot.getD 0) + jobBytes + 64 ≤ a →
        mread 0 u.dev.lp a = mread 0 s.dev.lp a) ∧
      u.dev.jobMem = [] ∧ u.dev.kn.released = e.now ∧
      (∃ k, u.dev.kn.jobs = [k] ∧ k.state = .saved ∧ k.saves = j.saves + 1 ∧ k.next = j.next ∧ k.ready = e.now) ∧
      (u.dev.tenant j.tenant).jobPreempted = sat lim32 ((s.dev.tenant j.tenant).jobPreempted + 1)

/-! ## Recipes, adapters, grammars, EMBED (09, 10, 12, 06) -/

/-- RECIPE_LOAD of a sound image into a free slot loads it: its digest, area and section lengths are the slot's, its
weights lie at their places in the Loaf, it needs no re-placement, and no other slot changes; an occupied slot refuses with detail 0x000B (R244, Table 09.11).
RECIPE_UNLOAD of a slot in use refuses with detail 0x000B; of an empty one completes DONE with detail 1; else the
slot is free and completes DONE, other slots standing (R247). The sections' decoded content is an operand, log 27;
storage as section bytes is the model's choice, log 66. -/
def Obligations.RecipeSlotsFillAndFree : Prop :=
  (∀ (t ring a : Nat) (info : RecipeInfo) (s : State) (e : Env) (f : Fetched) (d : Device) (im : List Byte),
     e = s.env.tick t → s.dev.take e ring 0x18 = some (f, d) → im = d.hostRead (f.w 2) (bits (f.w 3) 39 0) →
     ((d.recipe f.recipe).isSome = true → exec (.recipeLoad t ring true true info) s
       = .next { s with env := e, dev := d.completeD e f 0x21 0x000B 0 }) ∧
     (d.recipe f.recipe = none → imageOk im (bits (f.w 3) 39 0) = true →
       d.recipeBlock e (bits (f.w 3) 39 0) = some a → sha512 (im.drop 0x100) = (im.drop 0x40).take 64 →
       d.imageFault e im info = none →
       ∃ u rs, exec (.recipeLoad t ring true true info) s = .next u ∧ u.dev.recipe f.recipe = some rs ∧
         rs.replace = false ∧ rs.digest = secNat im 0x40 64 ∧ rs.area = a ∧ rs.length = im.length ∧ rs.info = info ∧
         rs.weights = sectionBytes im 8 ∧ u.dev.loaf = putWeights info.weightPlaces (sectionBytes im 8) d.loaf ∧ (∀ n, n ≠ f.recipe → u.dev.recipe n = d.recipe n) ∧ u.dev.reqs = s.dev.reqs)) ∧
  (∀ (t ring : Nat) (s : State) (e : Env) (f : Fetched) (d : Device), e = s.env.tick t →
     s.dev.take e ring 0x19 = some (f, d) →
     (d.recipe f.recipe = none →
       exec (.recipeUnload t ring) s = .next { s with env := e, dev := d.completeD e f 0 1 0 }) ∧
     (∀ rs, d.recipe f.recipe = some rs →
       (d.slotInUse f.recipe = true →
         exec (.recipeUnload t ring) s = .next { s with env := e, dev := d.completeD e f 0x21 0x000B 0 }) ∧
       (d.slotInUse f.recipe = false → ∃ u, exec (.recipeUnload t ring) s = .next u ∧
         u.dev.recipe f.recipe = none ∧ (∀ n, n ≠ f.recipe → u.dev.recipe n = d.recipe n) ∧
         (∀ g ∈ u.dev.grammars, g.2.recipe ≠ f.recipe) ∧ (∀ a ∈ u.dev.adapters, a.2.recipe ≠ f.recipe))))

/-- ADAPTER_LOAD of a sound image makes its version the slot's current one, earlier versions held only by their
users; ADAPTER_RETIRE leaves no current version (R270, R272, R274). GRAMMAR_LOAD of a sound image that fits puts it
behind its handle; GRAMMAR_UNLOAD drains the handle, which is free once no live request holds it; a handle that is
free or draining completes DONE with detail 1 (R315, R316). -/
def Obligations.AdapterVersionsAndGrammarHandles : Prop :=
  (∀ (t ring : Nat) (s : State) (e : Env) (f : Fetched) (d : Device), e = s.env.tick t →
     (s.dev.take e ring 0x1A = some (f, d) → ∀ rs, d.recipe f.recipe = some rs →
       d.adapterBad f.recipe f.adapter f.version (bits (f.w 3) 39 0) rs (d.hostRead (f.w 2) (bits (f.w 3) 39 0)) = false →
       ∃ u, exec (.adapterLoad t ring true) s = .next u ∧
         (tfind u.dev.adapters f.adapter).map (·.current) = some (some f.version) ∧ u.dev.recipes = s.dev.recipes) ∧
     (s.dev.take e ring 0x1B = some (f, d) → ∀ a, tfind d.adapters f.adapter = some a → a.recipe = f.recipe →
       (a.versions.any (fun v => v.1 == f.version)) = true → a.current = some f.version →
       exec (.adapterRetire t ring) s = .next { s with env := e, dev := (
         ({ d with adapters := tset d.adapters f.adapter { a with current := none } } : Device).sweepAdapters.completeD e f
           0 0 0) })) ∧
  (∀ (t ring : Nat) (s : State) (e : Env) (f : Fetched) (d : Device), e = s.env.tick t →
     (s.dev.take e ring 0x1C = some (f, d) → ∀ rs, d.recipe f.recipe = some rs →
       tfind d.grammars (bits (f.w 3) 51 40) = none →
       grammarOk (d.hostRead (f.w 2) (bits (f.w 3) 39 0)) (millV rs.mill) rs.digest = true →
       d.stencilUsed + bits (f.w 3) 39 0 ≤ stencilStore e →
       ∃ u, exec (.grammarLoad t ring true) s = .next u ∧ tfind u.dev.grammars (bits (f.w 3) 51 40)
         = some ⟨f.recipe, d.hostRead (f.w 2) (bits (f.w 3) 39 0), false⟩ ∧
         (∀ h, h ≠ bits (f.w 3) 51 40 → tfind u.dev.grammars h = tfind d.grammars h)) ∧
     (s.dev.take e ring 0x1D = some (f, d) →
       (∀ g, tfind d.grammars (bits (f.w 3) 51 40) = some g → g.draining = false →
         exec (.grammarUnload t ring) s = .next { s with env := e, dev := (
           ({ d with grammars := tset d.grammars (bits (f.w 3) 51 40) { g with draining := true } } : Device).sweepGrammars
             |>.completeD e f 0 0 0) }) ∧
       ((∀ g, tfind d.grammars (bits (f.w 3) 51 40) = some g → g.draining = true) →
         exec (.grammarUnload t ring) s = .next { s with env := e, dev := d.completeD e f 0 1 0 })))

/-- EMBED with text waits for the Mill with its items, its tenant and priority; it completes when its last row group
ends (R151, R302). The end of its last sound row group writes each item's record, the vector that the embed program
left, and completes it DONE with the bytes written (R152); while a streamed tensor that it needs is missing only the
clock moves. Items and rows are formed by the model's reading, log 52. -/
def Obligations.EmbedQueuesAndEnds : Prop :=
  (∀ (t ring v : Nat) (s : State) (e : Env) (f : Fetched) (d : Device), e = s.env.tick t → s.dev.jobHolds = false →
    s.dev.take e ring 0x20 = some (f, d) →
    ∀ ss : List Span, ss = d.spans (f.w 2) (bits (f.w 3) 15 0) → textOver ss = false → d.recipeFault f.recipe = none →
    d.adapterFault f.recipe f.adapter f.version = .inr v → d.embedFault (d.millOf f.recipe) ss = none →
    (ss.map (fun x => if x.type ≤ 1 then (d.hostRead x.addr x.len).length else 0)).sum ≠ 0 →
    ∃ u x, exec (.embed t ring true) s = .next u ∧ u.dev.oven.embeds = d.oven.embeds ++ [x] ∧ x.seq = f.seq ∧
      x.tenant = f.tenant ∧ x.priority = f.priority ∧ x.version = v ∧ x.items = ss.length ∧ x.groups = [] ∧
      x.admitted = e.now ∧
      u.dev.kn.order = d.kn.order + 1 ∧ u.dev.host = s.dev.host) ∧
  (∀ (t seq n : Nat) (items : List Nat) (rest : List Item) (s : State) (e : Env)
    (x : EmbedJob) (y : Bake) (d : Device), e = s.env.tick t → s.dev.serving e = true → s.dev.hif.linkUp = true →
    s.dev.oven.items = .rows seq n items :: rest → s.dev.oven.embeds = [x] → x.seq = seq →
    y = s.dev.bake (x.work e items) [] →
    (y.blocked = true → exec (.embedRowGroupEnd t []) s = .next { s with env := e }) ∧
    (y.blocked = false → y.poison = 0 → x.left = 1 → d = (s.dev.baked y e []).keepItems (fun k _ => k != 0) →
      exec (.embedRowGroupEnd t []) s = .next { s with env := e, dev := (
        (((d.writeRecords x items (y.vectors (x.work e items))).endEmbed e { x with left := 0, postedAt := x.postedAt.drop 1 }
          0 0 (x.items * embedRecord ((d.writeRecords x items (y.vectors (x.work e items))).info x.recipe))).endUse e
          (.item (1048576 + seq)) y.used).fillOven e) }))

/-! ## The Sifter (13) -/

/-- SIFT and SIFT_UPDATE join the queries in the order of their starts; the earliest one that may start takes a free
context and asks for what its re-rank needs from other nodes, or is refused BAD_DESCRIPTOR (R331, R335, R338, R340). A SIFT in progress past the query limit ends TIMEOUT
(status 0x31, detail 2) with no results; before the limit the command changes nothing (R337). The end of a query
frees its context and counts a SIFT once, and waits for the host link and for its READs; a SIFT changes no byte of LPDDR5X (R21, R336,
R338). The check at the grant of a
context is the model's choice, log 64; before the limit only the clock changes, log 11. -/
def Obligations.SiftQueriesQueueRunAndEnd : Prop :=
  ((∀ (t ring : Nat) (upd : Bool) (s : State) (e : Env) (f : Fetched) (d : Device), e = s.env.tick t →
     s.dev.take e ring (if upd then 0x22 else 0x21) = some (f, d) → f.ring = some ring →
     exec (if upd then .siftUpdate t ring true else .sift t ring true) s
       = .next { s with env := e, dev := { d with sift := { d.sift with queries := d.sift.queries ++
           [⟨f.seq, ring, f.cookie, f.seq, upd, f.q, bits (f.w 3) 15 0, none, 0, [], []⟩] } } }) ∧
   (∀ (t : Nat) (s : State) (e : Env) (q g : Query) (blk : List Byte), e = s.env.tick t → s.dev.serving e = true →
     s.dev.jobHolds = false → s.dev.sift.queries = [q] → q.ctx = none → q.update = false →
     blk = s.dev.hostRead (q.q.getD 2 0) (blockBytes (s.dev.siftIndex e q.handle) q.q) →
     g = { q with ctx := some 0, since := e.now, block := blk } →
     (siftFault (s.dev.siftIndex e q.handle) q.q blk = none → exec (.siftContextGrant t) s
       = .next { s with env := e, dev := (({ s.dev with sift := { s.dev.sift with queries := [g] } } : Device).askVectors e 0
           g).settleFabric e }) ∧
     (∀ k, siftFault (s.dev.siftIndex e q.handle) q.q blk = some k → ∃ u, exec (.siftContextGrant t) s = .next u ∧
       u.dev.sift.queries = [] ∧ u.dev.lp = s.dev.lp))) ∧
  (∀ (t c : Nat) (s : State) (e : Env) (q : Query), e = s.env.tick t → s.dev.serving e = true →
     s.dev.sift.queries = [q] → q.ctx = some c → q.update = false →
     (q.since + queryLimit e ≤ e.now → ∃ u, exec (.siftQueryLimit t c) s = .next u ∧
       u.dev = s.dev.endQuery e q 0x31 2 0 ∧ u.dev.sift.queries = []) ∧
     (e.now < q.since + queryLimit e → exec (.siftQueryLimit t c) s = .next { s with env := e })) ∧
  (∀ (t c : Nat) (lb : List Nat) (bad : Bool) (s : State) (e : Env) (q : Query),
     e = s.env.tick t → s.dev.serving e = true → s.dev.sift.queries = [q] → q.ctx = some c →
     (s.dev.hif.linkUp = true → s.dev.vectorsOut c = false → ∃ u, exec (.siftComplete t c lb bad) s = .next u ∧ u.dev.sift.queries = [] ∧
       u.dev.sift.completed = sat lim32 (s.dev.sift.completed + b2n (!q.update)) ∧
       (q.update = false → u.dev.lp = s.dev.lp)) ∧
     ((s.dev.hif.linkUp = false ∨ s.dev.vectorsOut c = true) → exec (.siftComplete t c lb bad) s = .next { s with env := e }))

/-- The filter (R332): with enable 0 every record passes; with enable 1 one whose tag bitmap has every bit of all-of,
none of none-of and, for a nonzero any-of, one of any-of, and whose fields lie in both ranges; a range whose low
exceeds its high passes nothing. A group is pruned when its tag union fails the all-of or a nonzero any-of test, or
its bounds lie wholly outside either range; then it holds no record that passes, of records whose tag lies in the
union and whose fields lie in the bounds. -/
def Obligations.FilterPassesAndPrunes : Prop :=
  ∀ (d : Device) (x : SiftIndex) (f : SiftFilter) (g tag a b : Nat),
    (f.on = false → f.passes tag a b = true) ∧
    (f.on = true → (f.passes tag a b = true ↔
      (tag &&& f.all = f.all ∧ tag &&& f.none = 0 ∧ (f.any = 0 ∨ tag &&& f.any ≠ 0) ∧ f.aLow ≤ a ∧ a ≤ f.aHigh ∧
        f.bLow ≤ b ∧ b ≤ f.bHigh))) ∧
    (f.on = true → (f.aHigh < f.aLow ∨ f.bHigh < f.bLow) → f.passes tag a b = false) ∧
    (d.pruned x f g = true ↔ f.on = true ∧
      (d.ix x (g + 0x10) 8 &&& f.all ≠ f.all ∨ (f.any ≠ 0 ∧ d.ix x (g + 0x10) 8 &&& f.any = 0) ∨
        d.ix x (g + 0x1C) 4 < f.aLow ∨ f.aHigh < d.ix x (g + 0x18) 4 ∨
        d.ix x (g + 0x24) 4 < f.bLow ∨ f.bHigh < d.ix x (g + 0x20) 4)) ∧
    (tag &&& d.ix x (g + 0x10) 8 = tag → d.ix x (g + 0x18) 4 ≤ a → a ≤ d.ix x (g + 0x1C) 4 →
      d.ix x (g + 0x20) 4 ≤ b → b ≤ d.ix x (g + 0x24) 4 → d.pruned x f g = true → f.passes tag a b = false)

/-! ## Firmware, attestation, flash (16) -/

/-- FW_BLOCK in service stages its bytes at its offset of the staging area and marks their granules, a block at
offset 0 starting afresh; a misplaced one is refused with detail 3 (R384). FW_COMMIT of a whole staged image that
passes every check queues the write of the bank that is not booted and completes with that write; one that fails a
check completes with the check's status, the banks untouched; the granules are unmarked in both cases (R385). -/
def Obligations.FirmwareStagesAndCommits : Prop :=
  (∀ (t ring : Nat) (s : State) (e : Env) (f : Fetched) (d : Device), e = s.env.tick t → d.mode = .running →
     s.dev.take e ring 0x30 = some (f, d) → ∀ off len : Nat, off = bits (f.w 3) 63 32 → len = bits (f.w 3) 16 0 →
     (off % 4096 = 0 → off + len ≤ Config.maxImage → len % 4096 = 0 → ∃ u, exec (.fwBlock t ring true true) s = .next u ∧
       u.dev.lp = mwrites 0 s.dev.lp (stageBase e + off) (d.hostRead (f.w 2) len) ∧
       (∀ g, g ∈ u.dev.hearth.granules ↔ g ∈ granules off len ∨ (off ≠ 0 ∧ g ∈ s.dev.hearth.granules)) ∧
       u.dev.hearth.bankA = s.dev.hearth.bankA ∧ u.dev.hearth.bankB = s.dev.hearth.bankB) ∧
     ((off % 4096 ≠ 0 ∨ Config.maxImage < off + len) → exec (.fwBlock t ring true true) s
       = .next { s with env := e, dev := d.completeD e f 0x20 3 0 })) ∧
  (∀ (t ring : Nat) (s : State) (e : Env) (f : Fetched) (d d' : Device) (im : List Byte) (total : Nat),
     e = s.env.tick t → d.mode = .running → s.dev.take e ring 0x31 = some (f, d) → total = bits (f.w 3) 31 0 →
     im = mreads 0 d.lp (stageBase e) (sat Config.maxImage total) →
     d' = { d with hearth := { d.hearth with granules := [] } } →
     (total ≤ Config.maxImage → secNat im 0x18 8 = total → 0x28 ≤ total →
       (∀ g ∈ granules 0 total, g ∈ d.hearth.granules) →
       (imageChecks d.hearth.fuses im total = none → exec (.fwCommit t ring) s
         = .next { s with env := e, dev := d'.pushFlash (.commit f (!d.hearth.bootB) im) }) ∧
       (∀ k, imageChecks d.hearth.fuses im total = some k → exec (.fwCommit t ring) s
         = .next { s with env := e, dev := d'.completeD e f k.1 k.2 0 })) ∧
     ((∃ g ∈ granules 0 total, g ∉ d.hearth.granules) → exec (.fwCommit t ring) s
       = .next { s with env := e, dev := d'.completeD e f 0x20 3 0 }))

/-- The image checks in the order of Table 16.5: form, target, binding, key, signature, digests, rollback (R383). -/
def Obligations.ImageChecksInOrder : Prop :=
  ∀ (fu : Fuses) (im : List Byte) (len : Nat),
    (imageForm im len = false → imageChecks fu im len = some (0x20, 3)) ∧
    (imageForm im len = true → secNat im 6 2 ≠ 0x0720 → imageChecks fu im len = some (0x61, 1)) ∧
    (imageForm im len = true → secNat im 6 2 = 0x0720 → bit (secNat im 0x0C 1) 0 = true →
      secNat im 0x20 16 ≠ fu.unitId → imageChecks fu im len = some (0x61, 2)) ∧
    (imageChecks fu im len = none → fu.rollback ≤ secNat im 0x0D 1 ∧ (fu.keys.getD (secNat im 0x12 2) (0, true)).2 = false ∧
      pssVerify ((im.drop 0x40).take 512) (im.take 0xA00) ((im.drop 0xA00).take 512) = true)

/-- ATTEST, with the host link up, writes a report that begins with its magic and repeats the descriptor's nonce, and completes DONE with
6,144 bytes; it draws one free value, the signature, and changes no other memory (R395, Table 16.8). CAL_WRITE of a
sound set queues its flash write in the half that holds none; one that is not sound is refused with detail 3 (R393).
A flash write that is done programs its region: a committed bank is PENDING with the next sequence number and the
image; a calibration set is the valid one; its descriptor completes DONE. One that mismatches completes POISON with
detail 6 and programs nothing (R382, R385, R393). The signature is a free value, log 18; the half that CAL_WRITE
takes is the model's reading, log 72. -/
def Obligations.ReportsAndFlashWrites : Prop :=
  (∀ (t ring : Nat) (s : State) (e : Env) (f : Fetched) (d : Device), e = s.env.tick t →
     s.dev.take e ring 0x32 = some (f, d) → s.dev.hif.linkUp = true →
     ∃ report : List Byte, exec (.attest t ring) s = .next { s with env := e, dev := (
         (({ d with free := d.free + 1 } : Device).hostWrite (f.w 2) report).completeD e f 0 0 6144) } ∧
       ofBytes (report.take 4) = 0x54525441 ∧
       ∀ i, i < 4 → ofBytes ((report.drop (0x40 + 8 * i)).take 8) = f.w (4 + i) % 2 ^ 64) ∧
  (∀ (t ring : Nat) (s : State) (e : Env) (f : Fetched) (d : Device) (set : List Byte), e = s.env.tick t →
     s.dev.take e ring 0x33 = some (f, d) → set = d.hostRead (f.w 2) (bits (f.w 3) 31 0) →
     (calOk set = true → exec (.calWrite t ring true) s
       = .next { s with env := e, dev := d.pushFlash (.calibration f (!d.hearth.cal0.isEmpty) set) }) ∧
     (calOk set = false → exec (.calWrite t ring true) s = .next { s with env := e, dev := d.completeD e f 0x20 3 0 })) ∧
  (∀ (t : Nat) (s : State) (e : Env) (f : Fetched) (im : List Byte) (b : Bool), e = s.env.tick t →
     s.dev.mode = .running → s.dev.logicFrozen = false →
     (s.dev.hearth.ops = [.commit f b im] →
       (∃ u, exec (.flashWriteComplete t .done) s = .next u ∧ u.dev.hearth.ops = [] ∧
         u.dev.hearth.bank b = ⟨0x7F, s.dev.hearth.nextSeq, im.length, im, false⟩ ∧
         u.dev.hearth.bank (!b) = s.dev.hearth.bank (!b)) ∧
       (∃ u, exec (.flashWriteComplete t .mismatch) s = .next u ∧ u.dev.hearth = { s.dev.hearth with ops := [] } ∧
         u.dev = ({ s.dev with hearth := { s.dev.hearth with ops := [] } } : Device).completeD e f 0x43 6 0)) ∧
     (s.dev.hearth.ops = [.calibration f b im] → ∃ u, exec (.flashWriteComplete t .done) s = .next u ∧
       u.dev.hearth.ops = [] ∧ (if b then u.dev.hearth.cal1 = im ∧ u.dev.hearth.cal0 = []
         else u.dev.hearth.cal0 = im ∧ u.dev.hearth.cal1 = [])))

/-! ## Composition maps and handoffs (11, 14) -/

/-- MAP_INSTALL of a sound map of a later epoch becomes the newer live epoch at once when one epoch is live, and
waits when two are; behind a waiting one it waits in turn (the model's reading, log 133). When no request or handoff
carries the older epoch any more the waiting one is installed and completes (R291, R292). -/
def Obligations.MapInstallAndDrain : Prop :=
  (∀ (t ring : Nat) (s : State) (e : Env) (f : Fetched) (d : Device) (m : Epoch), e = s.env.tick t →
    s.dev.take e ring 0x11 = some (f, d) → d.mapAt e (f.w 3) (bits (f.w 4) 31 0) (bits (f.w 2) 15 0) = some m →
    (bits (f.w 2) 15 0 + 65536 - d.kn.newer.num) % 65536 ≠ 0 →
    (bits (f.w 2) 15 0 + 65536 - d.kn.newer.num) % 65536 ≤ 32767 →
    (d.kn.install = none → d.kn.twoLive = false → ∃ u, exec (.mapInstall t ring true) s = .next u ∧ u.dev.kn.newer = m ∧
      u.dev.kn.older = d.kn.newer ∧ u.dev.kn.twoLive = true ∧ u.dev.kn.probesDue = d.pem.dead) ∧
    (d.kn.install = none → d.kn.twoLive = true → exec (.mapInstall t ring true) s
      = .next { s with env := e, dev := { d with kn := { d.kn with install := some (f, m) } } }) ∧
    (d.kn.install ≠ none → exec (.mapInstall t ring true) s
      = .next { s with env := e, dev := { d with kn := { d.kn with installWait := d.kn.installWait ++ [(f, m)] } } })) ∧
  (∀ (t : Nat) (s : State) (e : Env) (f : Fetched) (m : Epoch), e = s.env.tick t → s.dev.serving e = true →
    s.dev.kn.install = some (f, m) → s.dev.kn.installWait = [] →
    (s.dev.carried s.dev.kn.older.num = false → ∃ u, exec (.epochDrained t) s = .next u ∧ u.dev.kn.install = none ∧
      u.dev.kn.older = s.dev.kn.newer ∧ u.dev.kn.newer = m) ∧
    (s.dev.carried s.dev.kn.older.num = true → exec (.epochDrained t) s = .next { s with env := e }))

/-- HANDOFF that no check refuses begins: its session's context is marked outgoing to its peer and OPEN is asked for;
one refused completes with the check's status and detail (R293–R295). At the limit of 4,096 it waits. A source in
step 7 finishes when its tally word reads 0, or past the handoff limit: the handoff leaves and its context is unused;
before that nothing but the fabric moves on. A destination in step 2 past the limit clears its incoming record (R296,
R297, R366). Before its time a command changes only the clock, log 11. -/
def Obligations.HandoffBeginsAndEnds : Prop :=
  (∀ (t ring : Nat) (s : State) (e : Env) (f : Fetched) (d : Device), e = s.env.tick t →
     s.dev.take e ring 0x05 = some (f, d) →
     (∀ x, d.handoffFault e f = some x → exec (.handoff t ring) s
       = .next { s with env := e, dev := (d.completeD e f x.1 x.2 0).settleFabric e }) ∧
     (d.handoffFault e f = none → d.kn.handoffs.length < 4096 → ∀ c, d.ctxOf f.session = some c →
       ∃ d' : Device, exec (.handoff t ring) s = .next { s with env := e, dev := d'.settleFabric e } ∧
         (d'.ctx c).dir.outgoing = true ∧ (d'.ctx c).dir.peer = bits (f.w 2) 5 0 ∧
         (d'.ctx c).dir.epoch = bits (f.w 2) 31 16 ∧
         (∃ h, d'.kn.handoffs = d.kn.handoffs ++ [h] ∧ h.session = f.session ∧ h.outgoing = true ∧ h.step = 2 ∧
           h.opened = e.now ∧ h.seq = f.seq) ∧
         (∃ o, d'.pem.waiting = d.pem.waiting ++ [o] ∧ o.pkt.type = 0x21 ∧ o.pkt.dest = bits (f.w 2) 5 0 ∧ o.once = true)) ∧
     (d.handoffFault e f = none → 4096 ≤ d.kn.handoffs.length → exec (.handoff t ring) s
       = .next { s with env := e, dev := (
         ({ d with kn := { d.kn with handoffWait := d.kn.handoffWait ++ [f] } } : Device).settleFabric e) })) ∧
  (∀ (t session : Nat) (s : State) (e : Env) (h : Handoff), e = s.env.tick t → s.dev.serving e = true →
     s.dev.kn.handoffs = [h] → h.session = session →
     (h.outgoing = true → h.step = 7 →
       (s.dev.lpNat h.tallyAddr 8 = 0 → exec (.handoffTallyZero t session) s
         = .next { s with env := e, dev := (s.dev.finishSource session).settleFabric e }) ∧
       (s.dev.lpNat h.tallyAddr 8 ≠ 0 → exec (.handoffTallyZero t session) s
         = .next { s with env := e, dev := s.dev.settleFabric e }) ∧
       (h.since + handoffLimit e < e.now → exec (.handoffLimitExpiry t session) s
         = .next { s with env := e, dev := (s.dev.finishSource session).settleFabric e }) ∧
       (e.now ≤ h.since + handoffLimit e → exec (.handoffLimitExpiry t session) s
         = .next { s with env := e, dev := s.dev.settleFabric e }) ∧
       (s.dev.finishSource session).kn.handoffs = []) ∧
     (h.outgoing = false → h.step = 2 →
       (h.opened + handoffLimit e < e.now → exec (.incomingRecordExpiry t session) s
         = .next { s with env := e, dev := (s.dev.clearIncoming e session).settleFabric e }) ∧
       (e.now ≤ h.opened + handoffLimit e → exec (.incomingRecordExpiry t session) s
         = .next { s with env := e, dev := s.dev.settleFabric e }) ∧
       (s.dev.clearIncoming e session).kn.handoffs = []))

/-- A command of the handoff protocol that reaches this node for the first time is applied, entered in the replay
store and answered by its result (R360, R366); RELEASE frees what still matches and is answered (R353). The payload
fields as operands are the model's choice, log 23. -/
def Obligations.HandoffCommandsApplyOnce : Prop :=
  ∀ (t port session : Nat) (k : Pkt) (s : State) (e : Env), e = s.env.tick t → s.dev.serving e = true →
    s.dev.isUp port = true → k.dest = nodeNumber e →
    (∀ (a b c res : Nat) (d d2 : Device), d = s.dev.arrive e port (mgmtAs k 0x21) (fun d => d) →
      d.replayed e k.src k.tag = none → (d.pem.applied.contains (k.src, k.tag) = false ∨ k.attempt = 0) →
      Device.serveOpen e k.src session a b c d = (0, res, d2) →
      exec (.openHandoff t port k session a b c) s = .next { s with env := e, dev := (
        ((d2.remember e (mgmtAs k 0x21) 0 res).respond e port (mgmtAs k 0x21) 0 (toBytes 32 res)).settleFabric e) } ∧
      (res = 0 → ∃ h, d2.kn.handoffs = d.kn.handoffs ++ [h] ∧ h.session = session ∧ h.outgoing = false ∧
        h.peer = k.src ∧ h.epoch = b ∧ h.opened = e.now)) ∧
    (∀ (len : Nat) (d : Device), d = s.dev.arrive e port (mgmtAs k 0x22) (fun d => d) →
      d.replayed e k.src k.tag = none → (d.pem.applied.contains (k.src, k.tag) = false ∨ k.attempt = 0) →
      exec (.logDone t port k session len) s = .next { s with env := e, dev := (
        (((Device.serveLogDone e session len d).2.2.remember e (mgmtAs k 0x22) 0 0).respond e port (mgmtAs k 0x22) 0
          (toBytes 32 0)).settleFabric e) }) ∧
    (∀ (header : Nat) (d : Device), d = s.dev.arrive e port (mgmtAs k 0x23) (fun d => d) →
      d.replayed e k.src k.tag = none → (d.pem.applied.contains (k.src, k.tag) = false ∨ k.attempt = 0) →
      exec (.logFree t port k session header) s = .next { s with env := e, dev := (
        (((d.logFreed e session header).remember e (mgmtAs k 0x23) 0 0).respond e port (mgmtAs k 0x23) 0
          (toBytes 32 0)).settleFabric e) }) ∧
    (∀ (v cover tally : Nat) (pages : List SentPage) (d : Device), d = s.dev.arrive e port (mgmtAs k 0x24) (fun d => d) →
      d.replayed e k.src k.tag = none → (d.pem.applied.contains (k.src, k.tag) = false ∨ k.attempt = 0) →
      exec (.kvSend t port k session v cover tally pages) s = .next { s with env := e, dev := (
        (((Device.serveKvSend e k.src session v cover tally pages d).2.2.remember e (mgmtAs k 0x24) 0 0).respond e port
          (mgmtAs k 0x24) 0 (toBytes 32 0)).settleFabric e) }) ∧
    (∀ (image tag : Nat) (d : Device), d = s.dev.arrive e port (mgmtAs k 0x25) (fun d => d) →
      exec (.release t port k image tag) s = .next { s with env := e, dev := (
        ((d.serveRelease image tag).respond e port (mgmtAs k 0x25) 0 (toBytes 32 0)).settleFabric e) } ∧
      (d.peel.images.contains (image, tag) = false → d.serveRelease image tag = d))

/-! ## Moves and streamed tensors (09) -/

/-- A demand for a move that can start takes a record, one that cannot waits in order, behind those that wait (R224); a
commit of a page makes the destination its home and keeps the record with the source's readers, and waits while a job is
being saved (R212); the source is released and the record freed once they have ended, not before; an abort leaves the
object at its source (R225, R226, R229). The destination taken is the lowest
free one, not the operand, by the model's choice, log 12; poison marks by its reading, log 61. -/
def Obligations.MovesStartCommitRelease : Prop :=
  ∀ (t m : Nat) (s : State) (e : Env), e = s.env.tick t → s.dev.serving e = true →
    (∀ (kind : MoveKind) (obj : MoveObj) (who : Requester) (dest : Nat),
      (s.dev.peel.waiting = [] →
        (∀ d', s.dev.askMove e kind obj who = .started d' → exec (.moveStart t kind obj who dest) s
          = .next { s with env := e, dev := d'.settleFabric e }) ∧
        (∀ d', s.dev.askMove e kind obj who = .wait d' → exec (.moveStart t kind obj who dest) s
          = .next { s with env := e, dev := (({ d' with peel := { d'.peel with
              waiting := d'.peel.waiting ++ [(kind, obj, who, dest)] } } : Device).settleFabric e) }) ∧
        (s.dev.askMove e kind obj who = .refused → exec (.moveStart t kind obj who dest) s
          = .next { s with env := e, dev := s.dev.settleFabric e })) ∧
      (s.dev.peel.waiting.contains (kind, obj, who, dest) = false → exec (.moveStart t kind obj who dest) s
        = .next { s with env := e, dev := ((({ s.dev with peel := { s.dev.peel with
            waiting := s.dev.peel.waiting ++ [(kind, obj, who, dest)] } } : Device).retryMoves e).settleFabric e) })) ∧
    (∀ (x : Move) (c l i : Nat) (bad : Bool) (d : Device), tfind s.dev.peel.moves m = some x → x.obj = .page c l i →
      (x.committed = false → s.dev.moveQuiet m = true → s.dev.saving = false →
        d = s.dev.commitPage c l i x (bad || x.bad) →
        exec (.moveCommit t m bad []) s = .next { s with env := e, dev := (({ d with peel := { d.peel with
          moves := tset d.peel.moves m { x with committed := true, readers := s.dev.readersNow } } } : Device).settleFabric e) }) ∧
      (s.dev.saving = true → exec (.moveCommit t m bad []) s = .next { s with env := e, dev := s.dev.settleFabric e }) ∧
      (x.committed = true → x.sourceTier = 0 → x.readers.any s.dev.reading = true → exec (.moveSourceRelease t m) s
        = .next { s with env := e, dev := s.dev.settleFabric e }) ∧
      (x.committed = true → x.sourceTier = 0 → x.readers.any s.dev.reading = false → exec (.moveSourceRelease t m) s
        = .next { s with env := e, dev := ((((s.dev.releaseFrame (s.dev.ctx c).recipe
            ((s.dev.info (s.dev.ctx c).recipe).layer l).pool x.source).delMove m).retryMoves e).settleFabric e) }) ∧
      (x.committed = true → x.sourceTier = 1 → exec (.moveSourceRelease t m) s = .next { s with env := e, dev := (
        (((s.dev.tier1Free (x.source * 4096)).delMove m).retryMoves e).settleFabric e) }) ∧
      (x.committed = false → exec (.moveAbort t m) s = .next { s with env := e, dev := (
        ((s.dev.abortMove e m x).retryMoves e).settleFabric e) }) ∧
      (x.committed = true → exec (.moveAbort t m) s = .next { s with env := e, dev := s.dev.settleFabric e })) ∧
    (∀ (d : Device) (x : Move) (c l i : Nat) (bad : Bool) (p : Page), (d.ctx c).page l i = some p → x.destTier ≠ 0 →
      ((d.commitPage c l i x bad).ctx c).page l i
        = some { p with tier := x.destTier, frame := x.dest, node := 0, moving := false, bad := bad })

/-- At a need point a committed tensor is used at once and another is waited for, asked for by the step or item
(R234); at the deadline of a tensor that is not there a STALL goes on waiting and any other fallback is decided,
counted and logged once (R235–R238). The moments are the environment's, log 11. -/
def Obligations.StreamNeedAndDeadline : Prop :=
  ∀ (t r i : Nat) (s : State) (e : Env) (rs : RecipeSlot) (lanes : List Nat), e = s.env.tick t →
    s.dev.serving e = true → s.dev.kn.decoding = true → s.dev.recipe r = some rs → i < rs.streams.length →
    ((s.dev.residency r i).decided = false → (s.dev.residency r i).needAt = none → ∀ d : Device,
      d = s.dev.wantTensor r i (.step s.dev.kn.step) →
      exec (.streamNeedPoint t r i false lanes) s = .next { s with env := e, dev := (
        (d.setResidency r i { d.residency r i with
          needAt := some e.now, lanes := lanes, oven := false, late := false, fell := 0,
          decided := (d.residency r i).slot.isSome && (d.moveOf (.tensor r i)).isNone,
          lastUse := if (d.residency r i).slot.isSome && (d.moveOf (.tensor r i)).isNone then e.now
            else (d.residency r i).lastUse }).settleFabric e) }) ∧
    (∀ t0, (s.dev.residency r i).needAt = some t0 → (s.dev.residency r i).decided = false →
      (s.dev.residency r i).slot = none → (s.dev.residency r i).oven = false →
      t0 + bits (s.dev.streamEntry r i).q3 31 0 ≤ e.now →
      (bits (s.dev.streamEntry r i).q0 1 0 = 0 → exec (.streamDeadline t r i false) s = .next { s with env := e, dev := (
        (s.dev.setResidency r i { s.dev.residency r i with late := true }).settleFabric e) }) ∧
      (bits (s.dev.streamEntry r i).q0 1 0 ≠ 0 → exec (.streamDeadline t r i false) s = .next { s with env := e, dev := (
        (s.dev.decide_ e r i (bits (s.dev.streamEntry r i).q0 1 0) false).settleFabric e) } ∧
        (s.dev.decide_ e r i (bits (s.dev.streamEntry r i).q0 1 0) false).peel.decisions = s.dev.peel.decisions + 1))

/-! ## Memory faults, halt, pace, heat, pins, starts (05, 16, 17) -/

/-- The scrub moves the bank's row pointer on by one row per row read and wraps after its last; a row without error
changes nothing else, an error corrected is counted for its Slice and bank (R126). ECC_SUMMARY after its interval
reports what has occurred and starts the counts again; with nothing to report it changes nothing (R132). A Slice
that has held work for the hang limit and is not frozen halts the device with cause 3; no other one does (R125). Errors found come with the command, log 26; outside its
condition a command changes only the clock, log 11. -/
def Obligations.MemoryFaultsAreCounted : Prop :=
  ∀ (t slice bank : Nat) (s : State) (e : Env), e = s.env.tick t → s.dev.mode = .running →
    (s.dev.dmp.frozen.contains slice = false →
      exec (.patrolScrub t slice bank [none]) s = .next { s with env := e, dev := { s.dev with health :=
        { s.dev.health with scrub := (tset s.dev.health.scrub (2048 * slice + bank)
            ((tget 0 s.dev.health.scrub (2048 * slice + bank) + 1) % 12288)) } } } ∧
      ((tget {} s.dev.health.banks (2048 * slice + bank)).times = [] → 1 ≤ ceLimit e →
        ∃ u, exec (.patrolScrub t slice bank [some false]) s = .next u ∧
          u.dev.health.sinceCe = sat lim32 (s.dev.health.sinceCe + 1) ∧
          tget 0 u.dev.health.corrected slice = sat lim16 (tget 0 s.dev.health.corrected slice + 1) ∧
          u.dev.health.generation = s.dev.health.generation ∧ u.dev.health.out = s.dev.health.out)) ∧
    (s.dev.serving e = true →
      ((s.dev.health.sinceCe ≠ 0 ∨ s.dev.health.sinceRows ≠ []) → s.dev.health.lastSummary + summaryInterval e ≤ e.now →
        ∃ u, exec (.eccSummary t) s = .next u ∧ u.dev.health.sinceCe = 0 ∧ u.dev.health.sinceRows = [] ∧
          u.dev.health.sinceBanks = [] ∧ u.dev.health.lastSummary = e.now ∧
          u.dev.health.generation = s.dev.health.generation ∧ u.dev.lp = s.dev.lp) ∧
      (s.dev.health.sinceCe = 0 → s.dev.health.sinceRows = [] → exec (.eccSummary t) s = .next { s with env := e })) ∧
    (s.dev.holdsWork e slice = true → s.dev.dmp.frozen.contains slice = false → s.dev.logicFrozen = false →
      exec (.sliceHang t slice) s = .next { s with env := e, dev := (
        ({ s.dev with mode := .halting, dmp := { s.dev.dmp with cause := 3, alert := true } } : Device).finishHalt e) }) ∧
    (s.dev.dmp.frozen.contains slice = true ∨ s.dev.holdsWork e slice = false →
      exec (.sliceHang t slice) s = .next { s with env := e })

/-- A halt ends with the device halted and serving no more, the job's memory zero, no seat taken, no query, no job; a
later cause changes nothing (R411, R412). A frozen logic die halts at its thaw, log 15. -/
def Obligations.HaltStopsEverything : Prop :=
  ∀ (e : Env) (d : Device) (cause : Nat),
    (d.finishHalt e).mode = .halted ∧ (d.finishHalt e).serving e = false ∧ (d.finishHalt e).jobMem = [] ∧
    (d.finishHalt e).sift.queries = [] ∧ (d.finishHalt e).hearth.ops = [] ∧
    (d.mode = .halted → d.halt e cause = d) ∧
    (d.mode = .running → d.logicFrozen = false → (cause ≠ 1 ∨ d.kn.decoding = false) → (d.halt e cause).mode = .halted)

/-- A mean pace that crosses its floor is stored, marks or unmarks its domain and is reported; a crossing held back
by the 1-s limit is reported when the second has passed (R397–R399). A supply below 500 mV freezes its domain at pace
0; 520 mV or more thaws it, and between the two nothing changes; a domain frozen past the limit halts the device with
cause 5 (R401, R402). Readings come with the command, log 26; outside its condition a command changes only the clock,
log 11. -/
def Obligations.PaceFreezeAndThaw : Prop :=
  (∀ (t dom pace mv tj : Nat) (s : State) (e : Env), e = s.env.tick t → s.dev.powered = true → dom ≤ 12 →
     s.dev.logicFrozen = false →
     (s.env.closed = true → s.dev.dmp.below.contains dom ≠ decide (pace < paceFloor e dom) →
       tfind s.dev.dmp.lastPace dom = none → tfind s.dev.dmp.heldPace dom = none →
       ∃ u, exec (.paceLow t dom pace mv tj) s = .next u ∧ tget 0 u.dev.dmp.pace dom = pace ∧
         tget 0 u.dev.dmp.supply dom = mv ∧ u.dev.dmp.below.contains dom = decide (pace < paceFloor e dom) ∧
         tfind u.dev.dmp.lastPace dom = some e.now ∧ u.dev.lp = s.dev.lp ∧ u.dev.reqs = s.dev.reqs) ∧
     (∀ t0 x, tfind s.dev.dmp.heldPace dom = some x → tfind s.dev.dmp.lastPace dom = some t0 →
       (t0 + 1000000000 ≤ e.now → ∃ u, exec (.paceLowDeferred t dom) s = .next u ∧
         tfind u.dev.dmp.heldPace dom = none ∧ tfind u.dev.dmp.lastPace dom = some e.now ∧
         u.dev.dmp.below = s.dev.dmp.below) ∧
       (e.now < t0 + 1000000000 → exec (.paceLowDeferred t dom) s = .next { s with env := e }))) ∧
  (∀ (t dom mv : Nat) (s : State) (e : Env), e = s.env.tick t → s.dev.powered = true → dom ≤ 12 →
     (s.dev.dmp.frozen.contains dom = false →
       (mv < 500 → ∃ u, exec (.freeze t dom mv) s = .next u ∧ u.dev.dmp.frozen = s.dev.dmp.frozen ++ [dom] ∧
         tfind u.dev.dmp.frozenAt dom = some e.now ∧ tget 0 u.dev.dmp.pace dom = 0 ∧ u.dev.mode = s.dev.mode) ∧
       (500 ≤ mv → exec (.freeze t dom mv) s = .next { s with env := e })) ∧
     (s.dev.dmp.frozen.contains dom = true →
       (520 ≤ mv → dom < 12 → ∃ u, exec (.thaw t dom mv) s = .next u ∧ u.dev.dmp.frozen.contains dom = false ∧
         tfind u.dev.dmp.frozenAt dom = none ∧ u.dev.mode = s.dev.mode ∧
         (∀ x, x ≠ dom → u.dev.dmp.frozen.contains x = s.dev.dmp.frozen.contains x)) ∧
       (mv < 520 → exec (.thaw t dom mv) s = .next { s with env := e }) ∧
       (∀ t0, tfind s.dev.dmp.frozenAt dom = some t0 →
         (t0 + freezeLimitNs e < e.now → exec (.freezeLimit t dom) s = .next { s with env := e, dev := s.dev.halt e 5 }) ∧
         (e.now ≤ t0 + freezeLimitNs e → exec (.freezeLimit t dom) s = .next { s with env := e }))))

/-- The thermal level follows the highest reading with 3 °C of hysteresis; level 3 halts the device (R405); a change
held back by the 10-ms limit is reported after it; the thermal factor falls by 1 to 4 at level 2 and rises by 1 to 16
once the reading is more than 3 °C below throttle (R404–R406). Readings come with the command, log 26; outside its
condition a command changes only the clock, log 11. -/
def Obligations.ThermalLevelsFollowReadings : Prop :=
  ∀ (t dom tj : Nat) (s : State) (e : Env), e = s.env.tick t → s.dev.powered = true → s.dev.logicFrozen = false →
    (dom ≤ 12 → s.dev.thermalLevel e tj ≠ 3 → ∃ u, exec (.thermal t dom tj) s = .next u ∧
      u.dev.dmp.level = s.dev.thermalLevel e tj ∧ u.dev.dmp.tj = tj ∧ u.dev.dmp.tjDomain = dom ∧ u.dev.mode = s.dev.mode) ∧
    (dom ≤ 12 → s.dev.thermalLevel e tj = 3 → s.dev.dmp.level ≠ 3 → s.dev.mode = .running →
      ∃ u, exec (.thermal t dom tj) s = .next u ∧ u.dev.mode = .halted) ∧
    (∀ t0, s.dev.dmp.lastThermal = some t0 → s.dev.dmp.heldLevel = true →
      (t0 + 10000000 ≤ e.now → s.dev.dmp.level ≠ s.dev.dmp.reported → ∃ u, exec (.thermalDeferred t) s = .next u ∧
        u.dev.dmp.reported = s.dev.dmp.level ∧ u.dev.dmp.heldLevel = false ∧ u.dev.dmp.lastThermal = some e.now) ∧
      (e.now < t0 + 10000000 → exec (.thermalDeferred t) s = .next { s with env := e })) ∧
    (2 ≤ s.dev.dmp.level → exec (.thermalFactorStep t) s = .next { s with env := e, dev := { s.dev with dmp :=
      { s.dev.dmp with thermalFactor := if 4 < s.dev.dmp.thermalFactor then s.dev.dmp.thermalFactor - 1
          else s.dev.dmp.thermalFactor } } }) ∧
    (s.dev.dmp.level < 2 → s.dev.dmp.tj + 3 < s.dev.threshold (throttleAt e) →
      exec (.thermalFactorStep t) s = .next { s with env := e, dev := { s.dev with dmp :=
        { s.dev.dmp with thermalFactor := if s.dev.dmp.thermalFactor < 16 then s.dev.dmp.thermalFactor + 1
            else s.dev.dmp.thermalFactor } } }) ∧
    (∀ (d : Device) (a b : Nat), a ≤ b → d.thermalLevel e a ≤ d.thermalLevel e b)

/-- PWR_WARN_N asserted in service halts the device with cause 1, at once or after the step in progress, the live requests and
whether a flash write runs noted for PWR_WARN; before the close it is only noted; its release is noted (R407–R409). THROTTLE_N sets the factor's fraction and is reported with
the new factor (R404, R409). A pin stuck for its time is reported, then every 60 s (R410). An ignored pulse is
counted, the sixteenth raising INPUT_STORM once (R407). What a frozen logic die does not raise is the model's choice,
log 15. -/
def Obligations.PinEventsTakeEffect : Prop :=
  ∀ (t pin : Nat) (s : State) (e : Env), e = s.env.tick t → s.dev.powered = true →
    (s.dev.dmp.warnPin = false → ∀ d : Device, d = { s.dev with dmp := { s.dev.dmp with
        warnPin := true, warnSince := some e.now, warnAfter := s.env.closed,
        stuckLast := tdel s.dev.dmp.stuckLast 0 } } →
      (s.env.closed = false → exec (.pwrWarn t) s = .next { s with env := e, dev := d }) ∧
      (s.env.closed = true → s.dev.mode = .running → s.dev.dmp.haltPending = none →
        exec (.pwrWarn t) s = .next { s with env := e, dev := ({ d with dmp := { d.dmp with
          warnsDue := d.dmp.warnsDue ++ [d.warnNote] } } : Device).halt e 1 })) ∧
    exec (.pwrWarnRelease t) s = .next { s with env := e, dev := { s.dev with dmp :=
      { s.dev.dmp with warnPin := false, warnSince := none } } } ∧
    (∀ b : Bool, s.dev.dmp.throttlePin ≠ b → s.dev.logicFrozen = false → ∀ d : Device, d = { s.dev with dmp :=
        { s.dev.dmp with throttlePin := b, throttleSince := if b then some e.now else none,
                         throttleAfter := b && s.env.closed, stuckLast := tdel s.dev.dmp.stuckLast 1 } } →
      exec (.throttle t b) s = .next { s with env := e, dev := d.raise e 0x0004 (b2n b + d.factor e * 2) 0 } ∧
      d.factor e = min (if b then throttleFraction e else 16) s.dev.dmp.thermalFactor ∧
      (d.raise e 0x0004 (b2n b + d.factor e * 2) 0).factor e = d.factor e) ∧
    (∀ t0, s.dev.dmp.warnSince = some t0 → s.dev.dmp.warnAfter = true → s.dev.logicFrozen = false →
      tfind s.dev.dmp.stuckLast 0 = none →
      (t0 + 1000000000 ≤ e.now → ∃ u, exec (.pwrWarnStuck t 0) s = .next u ∧
        tfind u.dev.dmp.stuckLast 0 = some e.now ∧ u.dev.dmp.warnPin = s.dev.dmp.warnPin) ∧
      (e.now < t0 + 1000000000 → exec (.pwrWarnStuck t 0) s = .next { s with env := e })) ∧
    (pin ≤ 2 → ∃ u, exec (.inputStorm t pin) s = .next u ∧
      tget 0 u.dev.dmp.pulses pin = sat lim16 (tget 0 s.dev.dmp.pulses pin + 1) ∧
      (tget 0 s.dev.dmp.pulses pin + 1 < 16 → u.dev.dmp.storm = s.dev.dmp.storm ∧ u.dev.host = s.dev.host) ∧
      (16 ≤ tget 0 s.dev.dmp.pulses pin + 1 → u.dev.dmp.storm.contains pin = true))

/-- A loss of power, or of a fixed rail, stops the device and keeps flash, fuses and host memory (R413, R414, R433).
A start that finds no bootable bank enters recovery mode (R386, R390); one that does ends with set-up open, LTIME
from 0 and every request, context and frame at reset (R387, R415). The same start follows power, the pin and a soft
reset; the soft reset's key halts a running device first (R411, R415). The fitted image is the model's choice, log 8;
a halted device takes the key by the model's reading, log 30. -/
def Obligations.StartsAndResets : Prop :=
  ∀ (t : Nat) (st : StartInput) (s : State) (e : Env), e = s.env.tick t →
    exec (.powerLoss t) s = .next { s with env := e, dev := { s.dev.bare with mode := .off } } ∧
    (s.dev.mode ≠ .off → exec (.fixedRailOutOfRange t) s
      = .next { s with env := e, dev := { s.dev.bare with mode := .waitGood } }) ∧
    (s.dev.mode = .off → exec (.powerOn t true st) s = .next { s with env := e, dev := { s.dev with mode := .held } }) ∧
    (∀ c : Instr, (c = .powerOn t false st ∧ s.dev.mode = .off) ∨
        (c = .pinReset t st ∧ s.dev.mode ≠ .off ∧ s.dev.mode ≠ .waitGood) ∨
        (c = .softStart t st ∧ s.dev.dmp.soft = true ∧ s.dev.mode = .halted) →
      (∀ h, (s.dev.bare.hearth.fit st.fitted).choose = (h, none) →
        exec c s = .next { s with env := {}, dev := (
          { s.dev.bare with mode := .recovery, hearth := { h with calSet := h.validCal } } : Device) }) ∧
      (∀ h b, (s.dev.bare.hearth.fit st.fitted).choose = (h, some b) → st.grade ≠ 0 →
        ∃ u, exec c s = .next u ∧ u.env.closed = false ∧ u.env.now = 0 ∧ u.dev.mode = .running ∧ u.dev.reqs = [] ∧
          u.dev.ctxs = [] ∧ u.dev.frames = [] ∧ u.dev.lp = [] ∧ u.dev.host = s.dev.host ∧ u.dev.hearth.bootB = b ∧
          u.dev.hearth.fuses = s.dev.hearth.fuses ∧ u.dev.health.out = h.census)) ∧
    (s.dev.mode = .running → s.dev.hif.linkUp = true → s.dev.logicFrozen = false →
      ∃ u, exec (.softReset t false 8 0x54534B52) s = .next u ∧ u.dev.mode = .halted)

/-! ## Window, host link, output (02, 15, 18) -/

/-- A read of the window answers the bytes of LPDDR5X at its offsets, by the fixed part and then the aperture (R45),
or poison when one of them is uncorrectable, and changes no memory; it waits while a job is being saved (R212); a write
is dropped and counted (R45, R46); an
access past the window's end is a fault of the model. The mailbox answers a free value (R418). The host link's loss
is noted and nothing else changes; its return with no completion held is noted with its width and rate (R21, Table
18.3). The fault, the stored answer and the mailbox's free value are the model's choices, logs 19, 77 and 78. -/
def Obligations.WindowMailboxAndHostLink : Prop :=
  (∀ (t o n : Nat) (s : State) (e : Env), e = s.env.tick t →
     (s.dev.regsUp = true → s.dev.saving = true → o + n ≤ 64 * 2 ^ 30 → o < 64 * 2 ^ 30 →
       exec (.windowRead t o n false) s = .next { s with env := e }) ∧
     (s.dev.regsUp = true → s.dev.saving = false → o + n ≤ 64 * 2 ^ 30 → o < 64 * 2 ^ 30 → ∃ u, exec (.windowRead t o n false) s = .next u ∧
       u.dev.lp = s.dev.lp ∧ u.dev.host = s.dev.host ∧ u.dev.reqs = s.dev.reqs ∧
       ((∀ i, i < n → s.dev.lpPoisoned (windowAddr e (o + i)) = false) → u.dev.hif.answer.poison = false ∧
         u.dev.hif.answer.data = (upto n).map (fun i => s.dev.lpByte e (windowAddr e (o + i)))) ∧
       ((∃ i, i < n ∧ s.dev.lpPoisoned (windowAddr e (o + i)) = true) → u.dev.hif.answer.poison = true)) ∧
     (64 * 2 ^ 30 < o + n → exec (.windowRead t o n false) s = .fault .outsideWindow) ∧
     (∀ data : List Byte, s.dev.regsUp = true → o + data.length ≤ 64 * 2 ^ 30 → o < 64 * 2 ^ 30 →
       exec (.windowWrite t o data) s = .next { s with env := e, dev := { s.dev with hif :=
         { s.dev.hif with winDrops := sat lim64 (s.dev.hif.winDrops + 1) } } }) ∧
     (∀ (opcode : Nat) (p : List Byte), s.dev.regsUp = true → exec (.mailboxCommand t opcode p) s
       = .next { s with env := e, dev := ({ s.dev with
           free := s.dev.free + 1
           hif := { s.dev.hif with mailbox := [opcode, Config.mailboxAnswer s.dev.free opcode] } } : Device) })) ∧
  (∀ (t m r : Nat) (s : State) (e : Env), e = s.env.tick t →
     exec (.hostLinkDown t) s = .next { s with env := e, dev := { s.dev with hif :=
       { s.dev.hif with linkUp := false, modules := 0, rate := 0 } } } ∧
     (s.dev.powered = true → s.dev.mode ≠ .halted → m < 16 → r < 8 → s.dev.cq = [] →
       exec (.hostLinkUp t m r) s = .next { s with env := e, dev := { s.dev with hif :=
         { s.dev.hif with linkUp := true, modules := m, rate := r } } }))

/-- The host outlet writes the head record of the highest-numbered class that may start, to its stream ring, and
takes it from the queue; no other record of the queue is lost (R377, R378). A record whose oldest byte has waited the
ring's hold time is formed and queued, not before (R43); a pending entry that has waited the ring's time threshold
has its message sent, covering every entry pending (R44). Before its time a command changes only the clock, log 11. -/
def Obligations.RecordsAndInterruptsGoOut : Prop :=
  (∀ (t c : Nat) (s : State) (e : Env) (d : Device) (r : StreamRec) (rest : List StreamRec), e = s.env.tick t →
     s.dev.serving e = true → s.dev.hif.linkUp = true → d = s.dev.settleOutlet e 8 →
     ((upto 8).reverse.findSome? (fun c => (d.hostEligible e c).map (fun r => (c, r)))) = some (c, r) →
     takeFirst (fun x => recClass e x == c) d.prf.hostQueue = some (r, rest) → r.last = false →
     ∃ u, exec (.hostRecordWrite t) s = .next u ∧ u.dev.prf.hostQueue = rest ∧
       (u.dev.ring .ts r.ring).next = (if (s.dev.ring .ts r.ring).next + 1 = devSize e .ts r.ring then 0
         else (s.dev.ring .ts r.ring).next + 1) ∧
       rest.length + 1 = s.dev.prf.hostQueue.length ∧ u.dev.lp = s.dev.lp ∧ u.dev.reqs = s.dev.reqs) ∧
  (∀ (t i : Nat) (s : State) (e : Env), e = s.env.tick t →
     (∀ t0, (s.dev.req i).out.since = some t0 → s.dev.serving e = true → (s.dev.req i).going = true →
       (s.dev.req i).out.finished = false →
       (t0 + tsHold e (s.dev.req i).stream ≤ e.now → ∃ u x, exec (.streamHoldTimeout t i) s = .next u ∧
         u.dev.prf.hostQueue = s.dev.prf.hostQueue ++ [x] ∧ x.request = i ∧ x.last = false ∧ x.cookie = (s.dev.req i).cookie) ∧
       (e.now < t0 + tsHold e (s.dev.req i).stream → exec (.streamHoldTimeout t i) s = .next { s with env := e })) ∧
     (∀ k n x rest, k < 3 → (s.dev.ring (ringKindOf k) n).pend = x :: rest → s.dev.heard = true →
       s.dev.masked (devVector e (ringKindOf k) n) = false →
       (x.2 + devTime e (ringKindOf k) n ≤ e.now → ∃ u, exec (.interruptTimeThreshold t k n) s = .next u ∧
         (u.dev.ring (ringKindOf k) n).pend = [] ∧
         tget 0 u.dev.hif.msixSent (devVector e (ringKindOf k) n)
           = tget 0 s.dev.hif.msixSent (devVector e (ringKindOf k) n) + 1 ∧ u.dev.host = s.dev.host) ∧
       (e.now < x.2 + devTime e (ringKindOf k) n → exec (.interruptTimeThreshold t k n) s = .next { s with env := e })))

/-! ## Links, packets, timers (14) -/

/-- A port that comes up starts its sequence numbers, credits and replay afresh; one that goes down retrains at once,
its unacknowledged packets gone (R347, R348). A port still training 500 ms after it began is down, and tries again 1
s after it began. A negative acknowledgement replays every unacknowledged packet and counts one replay; the sixteenth
without progress takes the port down; a packet dropped for its CRC asks for a replay with the next packet sent. A
link word takes what it acknowledges out of the replay buffer and adds the credit it returns (R349, R355). Sequence
numbers that start at 0 and are not checked are the model's choice, log 55. -/
def Obligations.LinksComeUpReplayAndGoDown : Prop :=
  (∀ (t p cause lanes : Nat) (s : State) (e : Env), e = s.env.tick t → s.dev.serving e = true →
     (p < 8 → portEnabled e p = true → s.dev.isUp p = false → ∀ d : Device, d = s.dev.portUp e p lanes →
       exec (.linkDown t p true cause lanes) s = .next { s with env := e, dev := d.settleFabric e } ∧
       (d.port p).state = 2 ∧ (d.port p).lanes = lanes ∧ (d.port p).txSeq = 0 ∧ (d.port p).unacked = [] ∧
       (d.port p).sinceUp = 0 ∧ (d.port p).credits = [2048, 2048, 16384, 128]) ∧
     (p < 8 → portEnabled e p = true → s.dev.isUp p = true → ∀ d : Device, d = s.dev.portDown e p cause lanes →
       exec (.linkDown t p false cause lanes) s = .next { s with env := e, dev := d.settleFabric e } ∧
       (d.port p).state = 1 ∧ (d.port p).unacked = [] ∧ (d.port p).replay = [] ∧
       (∀ q, q ≠ p → d.isUp q = s.dev.isUp q)) ∧
     (portEnabled e p = false → exec (.linkDown t p true cause lanes) s
       = .next { s with env := e, dev := s.dev.settleFabric e }) ∧
     ((s.dev.port p).state = 1 → (s.dev.port p).trainAt + 500000000 ≤ e.now →
       ∀ d : Device, d = s.dev.modPort p (fun x => { x with state := 3 }) →
       exec (.portTrainTimeout t p) s = .next { s with env := e, dev := d.settleFabric e }) ∧
     ((s.dev.port p).state = 3 → (s.dev.port p).trainAt + 1000000000 ≤ e.now →
       ∀ d : Device, d = s.dev.modPort p (fun x => { x with state := 1, trainAt := e.now }) →
       exec (.portTrainTimeout t p) s = .next { s with env := e, dev := d.settleFabric e }) ∧
     ((s.dev.port p).state ≠ 1 → (s.dev.port p).state ≠ 3 →
       exec (.portTrainTimeout t p) s = .next { s with env := e, dev := s.dev.settleFabric e })) ∧
  ((∀ (t p : Nat) (s : State) (e : Env) (x : Port), e = s.env.tick t → s.dev.serving e = true → s.dev.isUp p = true →
     x = s.dev.port p →
     (x.unacked ≠ [] → x.streak < 15 → ∀ d : Device,
       d = s.dev.setPort p { x with replay := x.unacked, replays := sat lim32 (x.replays + 1),
                                    sinceUp := sat lim32 (x.sinceUp + 1), streak := x.streak + 1 } →
       exec (.linkReplay t p true) s = .next { s with env := e, dev := d.settleFabric e }) ∧
     (x.unacked ≠ [] → 15 ≤ x.streak → ∃ d : Device,
       exec (.linkReplay t p true) s = .next { s with env := e, dev := d.settleFabric e } ∧ d.isUp p = false) ∧
     (∀ d : Device, d = s.dev.setPort p { x with nack := true } →
       exec (.linkReplay t p false) s = .next { s with env := e, dev := d.settleFabric e })) ∧
   (∀ (t p : Nat) (k : Pkt) (s : State) (e : Env), e = s.env.tick t → s.dev.serving e = true → s.dev.isUp p = true →
     ∃ d : Device, exec (.link t p k) s = .next { s with env := e, dev := d.settleFabric e } ∧
       (∀ q, q ≠ p → d.port q = s.dev.port q) ∧ (d.port p).rxSeq = (s.dev.port p).rxSeq ∧
       (k.neg = false → ∀ a u b, (s.dev.port p).unacked = a ++ u :: b → u.seq = k.ack → (∀ v ∈ a, v.seq ≠ k.ack) →
         (d.port p).unacked = b ∧ (d.port p).streak = 0) ∧
       (∀ c, c < 4 → (d.port p).credits.getD c 0
         = (s.dev.port p).credits.getD c 0 + bits k.credits (8 * c + 7) (8 * c)) ∧ d.lp = s.dev.lp))

/-- A packet boundary sends the oldest replayed packet first, then a management packet that has credit, then the head
packet of the highest class that is eligible and clears the guard, with the credit of its class charged, and with
none a link-only packet (R349, R368, R370–R373). A packet sent takes the next sequence number and waits for its
acknowledgement. Link-only packets take no number, log 55. -/
def Obligations.PacketBoundarySendsNext : Prop :=
  ∀ (t p : Nat) (s : State) (e : Env) (d : Device) (x : Port), e = s.env.tick t → s.dev.serving e = true →
    s.dev.isUp p = true →
    (100 * e.now < (s.dev.port p).busyUntil → exec (.portPacketBoundary t p) s = .next { s with env := e }) ∧
    ((s.dev.port p).busyUntil ≤ 100 * e.now → d = ((s.dev.pump e).settleOutlet e p).noteHold e p → x = d.port p →
      (∀ k r, x.replay = k :: r → exec (.portPacketBoundary t p) s
        = .next { s with env := e, dev := (d.setPort p { x with replay := r }).transmit e p k }) ∧
      (∀ k r, x.replay = [] → x.mgmt = k :: r → x.mayCarry k = true → exec (.portPacketBoundary t p) s
        = .next { s with env := e, dev := (d.setPort p { x with mgmt := r }).sendNew e p k }) ∧
      (∀ c k, x.replay = [] → x.mgmt = [] → c < 8 → d.classHead e p c = some k → d.guardOk e p c k = true →
        (∀ c', c < c' → c' < 8 → ∀ k', d.classHead e p c' = some k' → d.guardOk e p c' k' = false) →
        exec (.portPacketBoundary t p) s = .next { s with env := e, dev := (
          (d.setPort p { x with
            queues := tset x.queues c ((tget [] x.queues c).drop 1)
            credit := chargeCredit e p c (wireLen e p k) ((tget [] x.queues c).drop 1).isEmpty x.credit }).sendNew e p k) }) ∧
      (x.replay = [] → x.mgmt = [] → (∀ c', c' < 8 → ∀ k', d.classHead e p c' = some k' → d.guardOk e p c' k' = false) →
        ∃ u, exec (.portPacketBoundary t p) s = .next u ∧ (u.dev.port p).txSeq = x.txSeq ∧
          (u.dev.port p).queues = x.queues ∧ (∃ k, (u.dev.port p).sent = some k ∧ k.type = 0 ∧ k.ack = x.rxSeq)) ∧
      (∀ k, ((d.sendNew e p k).port p).txSeq = (x.txSeq + 1) % 4096 ∧
        ((d.sendNew e p k).port p).unacked = x.unacked ++ [{ k with seq := x.txSeq }] ∧
        ((d.sendNew e p k).port p).busyUntil = 100 * e.now + wireLen e p k))

/-- A READ is answered OK with the bytes of its units as software sees them, POISON with ones when one is
uncorrectable, REFUSED with ones when it is unaligned, outside the export window or too long for its channel; no
memory changes (R350, R353, R354). A response carries the source, tag and attempt of what it answers (R352); a PROBE
is answered OK with zeros. The tag of PROBE and the channel of answers are the model's choices, log 56. -/
def Obligations.ReadsAreAnswered : Prop :=
  (∀ (t port n : Nat) (p k : Pkt) (s : State) (e : Env) (d : Device), e = s.env.tick t → s.dev.serving e = true →
     s.dev.isUp port = true → p.dest = nodeNumber e → k = pktAs p 1 → d = s.dev.arrive e port k (fun d => d) →
     n = k.readUnits → d.lp = s.dev.lp ∧
     (pktOff k % 32 = 0 → exported e (pktOff k) (32 * n) = true → 1 ≤ n → n ≤ (if k.chan = 2 then 128 else 8) →
       (d.anyPoison (pktOff k) (32 * n) = false → exec (.read t port p) s = .next { s with env := e, dev := (
         (d.respond e port k 0 (d.lpSeen e (pktOff k) (32 * n))).settleFabric e) }) ∧
       (d.anyPoison (pktOff k) (32 * n) = true → exec (.read t port p) s = .next { s with env := e, dev := (
         (d.respond e port k 1 (onesPayload n)).settleFabric e) })) ∧
     (pktOff k % 32 ≠ 0 ∨ exported e (pktOff k) (32 * n) = false ∨ n = 0 ∨ (if k.chan = 2 then 128 else 8) < n →
       exec (.read t port p) s = .next { s with env := e, dev := (
         (d.respond e port k 3 (onesPayload (sat 128 n))).settleFabric e) })) ∧
  ((∀ (e : Env) (d : Device) (port status : Nat) (k : Pkt) (bs : List Byte), ∃ r,
     (d.respond e port k status bs).pem.lastResponse = some r ∧ r.dest = k.src ∧ r.src = nodeNumber e ∧ r.tag = k.tag ∧
       r.attempt = k.attempt ∧ r.status = status ∧ r.payload = bs ∧ r.type = respType k.type ∧
       (d.respond e port k status bs).lp = d.lp) ∧
   (∀ (t port : Nat) (p : Pkt) (s : State) (e : Env) (d : Device), e = s.env.tick t → s.dev.serving e = true →
     s.dev.isUp port = true → p.dest = nodeNumber e → d = s.dev.arrive e port (mgmtAs p 0x20) (fun d => d) →
     exec (.probe t port p) s = .next { s with env := e, dev := (
       (d.respond e port (mgmtAs p 0x20) 0 (toBytes 32 0)).settleFabric e) }))

/-- A WRITE stores its whole units and nothing else, and leaves them good; on the bulk channel at once, on the
request channel entered in the replay store as applied; one outside the export window is REFUSED and stores nothing
(R350, R353, R357). -/
def Obligations.WritesStoreWholeUnits : Prop :=
  ∀ (t port n : Nat) (p k : Pkt) (s : State) (e : Env) (d w : Device), e = s.env.tick t → s.dev.serving e = true →
    s.dev.isUp port = true → p.dest = nodeNumber e → k = pktAs p 2 → d = s.dev.arrive e port k (fun d => d) →
    n = 32 * k.units → k.payload.length = n → w = (d.applyWrite e k).2.2 →
    (pktOff k % 32 = 0 → exported e (pktOff k) n = true → 1 ≤ k.units → k.units ≤ (if k.chan = 2 then 128 else 8) →
      (k.chan = 2 → exec (.write t port p) s = .next { s with env := e, dev := (
        (w.respond e port k 0 []).settleFabric e) }) ∧
      (k.chan ≠ 2 → d.replayed e k.src k.tag = none → (d.pem.applied.contains (k.src, k.tag) = false ∨ k.attempt = 0) →
        exec (.write t port p) s = .next { s with env := e, dev := (
          ((w.remember e k 0 0).respond e port k 0 []).settleFabric e) }) ∧
      (∀ i, i < n → mread 0 w.lp (pktOff k + i) = k.payload.getD i 0) ∧
      (∀ a, a < pktOff k ∨ pktOff k + n ≤ a → mread 0 w.lp a = mread 0 s.dev.lp a) ∧
      w.anyPoison (pktOff k) n = false) ∧
    (k.chan = 2 → exported e (pktOff k) n = false → exec (.write t port p) s = .next { s with env := e, dev := (
      (d.respond e port k 3 []).settleFabric e) })

/-- An atomic that its home has not applied reads its naturally aligned operand, stores the sum or the minimum or
maximum, signed or unsigned, or for CAS the second operand where the first equals the old value, answers the old
value and is entered in the replay store (R353, R357). -/
def Obligations.AtomicsStoreAndAnswerOld : Prop :=
  ∀ (t port n old x y : Nat) (c : Instr) (p k : Pkt) (s : State) (e : Env) (d : Device), e = s.env.tick t →
    s.dev.serving e = true → s.dev.isUp port = true → p.dest = nodeNumber e → n = atomBytes k.size →
    d = s.dev.arrive e port k (fun d => d) → pktOff k % n = 0 → exported e (pktOff k) n = true →
    d.anyPoison (pktOff k) n = false → d.replayed e k.src k.tag = none →
    (d.pem.applied.contains (k.src, k.tag) = false ∨ k.attempt = 0) →
    old = d.lpNat (pktOff k) n → x = ofBytes (k.payload.take n) →
    (k.size ≤ 1 ∧
      ((c = .add t port p ∧ k = pktAs p 0x10 ∧ y = (BitVec.ofNat (8 * n) old + BitVec.ofNat (8 * n) x).toNat) ∨
       (c = .smin t port p ∧ k = pktAs p 0x11 ∧
          y = if (BitVec.ofNat (8 * n) x).slt (BitVec.ofNat (8 * n) old) then x else old) ∨
       (c = .smax t port p ∧ k = pktAs p 0x12 ∧
          y = if (BitVec.ofNat (8 * n) old).slt (BitVec.ofNat (8 * n) x) then x else old) ∨
       (c = .umin t port p ∧ k = pktAs p 0x13 ∧ y = min old x) ∨
       (c = .umax t port p ∧ k = pktAs p 0x14 ∧ y = max old x)) ∨
     (k.size = 1 ∨ k.size = 2) ∧ c = .cas t port p ∧ k = pktAs p 0x15 ∧
       y = if old = x then ofBytes ((k.payload.drop n).take n) else old) →
    exec c s = .next { s with env := e, dev := (
      (((d.lpStore (pktOff k) n y).remember e k 0 old).respond e port k 0 (toBytes 32 old)).settleFabric e) }

/-- Exactly once: a request whose live entry the replay store holds is answered from the entry and counted, one whose
entry is gone but whose applied bit stands and that is no first attempt is answered POISON and counted; neither
touches memory (R357, R360, R361, Table 14.6). An entry older than 64 µs leaves the store, its applied bit stays. -/
def Obligations.ReplayedRequestsApplyNothing : Prop :=
  ∀ (t port src tag : Nat) (p k : Pkt) (s : State) (e : Env) (d : Device) (c : Instr), e = s.env.tick t →
    s.dev.serving e = true → s.dev.isUp port = true → p.dest = nodeNumber e → d = s.dev.arrive e port k (fun d => d) →
    ((c = .write t port p ∧ k = pktAs p 2 ∧ p.chan ≠ 2) ∨ (c = .add t port p ∧ k = pktAs p 0x10) ∨
      (c = .smin t port p ∧ k = pktAs p 0x11) ∨ (c = .smax t port p ∧ k = pktAs p 0x12) ∨
      (c = .umin t port p ∧ k = pktAs p 0x13) ∨ (c = .umax t port p ∧ k = pktAs p 0x14) ∨
      (c = .cas t port p ∧ k = pktAs p 0x15)) →
    (∀ x, d.replayed e k.src k.tag = some x → ∀ w : Device,
      w = ({ d with pem := { d.pem with served := sat lim32 (d.pem.served + 1) } } : Device).respond e port k x.status
        (onceAnswer k x.status x.result) →
      exec c s = .next { s with env := e, dev := w.settleFabric e } ∧ w.lp = s.dev.lp) ∧
    (d.replayed e k.src k.tag = none → d.pem.applied.contains (k.src, k.tag) = true → k.attempt ≠ 0 → ∀ w : Device,
      w = ({ d with pem := { d.pem with expired := sat lim32 (d.pem.expired + 1) } } : Device).respond e port k 2
        (onceAnswer k 2 0) →
      exec c s = .next { s with env := e, dev := w.settleFabric e } ∧ w.lp = s.dev.lp) ∧
    (∃ u, exec (.replayEntryExpiry t src tag) s = .next u ∧ u.dev.pem.applied = s.dev.pem.applied ∧
      (∀ x, x ∈ u.dev.pem.store ↔ x ∈ s.dev.pem.store ∧ ¬ (x.src = src ∧ x.tag = tag ∧ x.at_ + 64000 ≤ e.now)))

/-- The response of an operation's present attempt ends it, any other changes only the link (R357, R359). T_r after
an issue its node is probed (R362); 20 µs and 40 µs after the first issue the operation goes again with the next
attempt, at most three times; 80 µs after it a once-operation is uncertain, and another takes its node into the dead
set (R359, R363, R364). That only the present attempt's response ends an operation is the model's reading, log 63;
before its time a timer changes only the clock, log 11. -/
def Obligations.OperationsEndOrGoAgain : Prop :=
  ∀ (t port tag : Nat) (k : Pkt) (s : State) (e : Env) (o : FabOp), e = s.env.tick t → s.dev.serving e = true →
    (∀ d : Device, s.dev.isUp port = true → k.dest = nodeNumber e → k.type ≠ 0 → ¬ (k.type = 0xA0 ∧ k.tag = 65535) →
      d = s.dev.arrive e port k (fun d => d) →
      (d.pem.ops = [o] → o.pkt.tag = k.tag → o.pkt.attempt = k.attempt → o.pkt.dest = k.src → k.status = 0 →
        exec (.fabricResponse t port k) s = .next { s with env := e, dev := (
          (d.endOp e o (.ok k.payload)).settleFabric e) }) ∧
      ((∀ x ∈ d.pem.ops, ¬ (x.pkt.tag = k.tag ∧ x.pkt.attempt = k.attempt ∧ x.pkt.dest = k.src)) →
        exec (.fabricResponse t port k) s = .next { s with env := e, dev := d.settleFabric e })) ∧
    (s.dev.opOf tag = none → exec (.responseTimeout t tag) s = .next { s with env := e, dev := s.dev.settleFabric e } ∧
      exec (.reissueTimer t tag) s = .next { s with env := e, dev := s.dev.settleFabric e } ∧
      exec (.fabricGiveUp t tag) s = .next { s with env := e, dev := s.dev.settleFabric e }) ∧
    (s.dev.opOf tag = some o →
      (o.probed = false → o.probedAt + respTimer e o.pkt.dest ≤ e.now → ∃ d : Device,
        exec (.responseTimeout t tag) s = .next { s with env := e, dev := d.settleFabric e } ∧
        (∃ o', d.opOf tag = some o' ∧ o' = { o with probed := true, probedAt := e.now }) ∧
        (∀ q, (q ∉ routePorts e o.pkt.dest ∨ s.dev.isUp q = false) → d.port q = s.dev.port q)) ∧
      (e.now < o.probedAt + respTimer e o.pkt.dest → exec (.responseTimeout t tag) s
        = .next { s with env := e, dev := s.dev.settleFabric e }) ∧
      (o.issued + 20000 ≤ e.now → o.last < o.issued + 20000 → e.now ≤ o.issued + 40000 → o.pkt.attempt < 3 →
        ∃ d : Device, exec (.reissueTimer t tag) s = .next { s with env := e, dev := d.settleFabric e } ∧
          (∃ o', d.opOf tag = some o' ∧ o'.pkt.attempt = o.pkt.attempt + 1 ∧ o'.last = e.now ∧ o'.issued = o.issued)) ∧
      (e.now < o.issued + 20000 → exec (.reissueTimer t tag) s
        = .next { s with env := e, dev := s.dev.settleFabric e }) ∧
      (o.issued + 80000 ≤ e.now → o.once = true → exec (.fabricGiveUp t tag) s
        = .next { s with env := e, dev := (s.dev.endOp e o .uncertain).settleFabric e }) ∧
      (o.issued + 80000 ≤ e.now → o.once = false → o.pkt.chan ≠ 3 → exec (.fabricGiveUp t tag) s
        = .next { s with env := e, dev := (s.dev.nodeDies e o.pkt.dest 2).settleFabric e }) ∧
      (e.now < o.issued + 80000 → exec (.fabricGiveUp t tag) s
        = .next { s with env := e, dev := s.dev.settleFabric e }))

/-- A node to which operations are outstanding enters the dead set when no port of its route is up, or T_r after
probes that no port answered; it takes a fault record (R363, R365). A node leaves the dead set by a PROBE answered
after an install (R365, R292); the first PROBE answered by the primary port ends the use of the alternate (R351).
Outside its condition a command changes only the clock, log 11. -/
def Obligations.NodesDieAndReturn : Prop :=
  ∀ (t n : Nat) (s : State) (e : Env), e = s.env.tick t → s.dev.serving e = true →
    (∀ o ∈ s.dev.pem.ops, o.pkt.dest = n → s.dev.pem.dead.contains n = false →
      (s.dev.routeUp e n = false → exec (.nodeDead t n) s
        = .next { s with env := e, dev := (s.dev.nodeDies e n 1).settleFabric e }) ∧
      (s.dev.routeUp e n = true → o.probed = true → o.probedAt + respTimer e n ≤ e.now → exec (.nodeDead t n) s
        = .next { s with env := e, dev := (s.dev.nodeDies e n 0).settleFabric e })) ∧
    ((∀ o ∈ s.dev.pem.ops, o.pkt.dest ≠ n) → exec (.nodeDead t n) s
      = .next { s with env := e, dev := s.dev.settleFabric e }) ∧
    (s.dev.pem.dead.contains n = true → s.dev.kn.probesDue.contains n = true →
      ∃ d : Device, exec (.deadSetProbe t n true) s = .next { s with env := e, dev := d.settleFabric e } ∧
        d.pem.dead.contains n = false ∧ d.kn.probesDue.contains n = false ∧
        (∀ m, m ≠ n → d.pem.dead.contains m = s.dev.pem.dead.contains m)) ∧
    (s.dev.kn.probesDue.contains n = false → exec (.deadSetProbe t n true) s
      = .next { s with env := e, dev := s.dev.settleFabric e }) ∧
    (s.dev.pem.alternate.contains n = true → bit (routeWord e n) 3 = true → bit (routeWord e n) 9 = true →
      bits (routeWord e n) 8 6 ≠ bits (routeWord e n) 2 0 →
      ∃ d : Device, exec (.alternateRouteProbe t n true) s = .next { s with env := e, dev := d.settleFabric e } ∧
        d.pem.alternate.contains n = false) ∧
    (s.dev.pem.alternate.contains n = false → exec (.alternateRouteProbe t n true) s
      = .next { s with env := e, dev := s.dev.settleFabric e })

/-- What waits for an interval is issued as the limits allow: never more than 16,384 operations outstanding, and
never two with one tag (R358). -/
def Obligations.IssueKeepsItsLimits : Prop :=
  (∀ (t : Nat) (s : State) (e : Env), e = s.env.tick t →
    exec (.initiatorLimitRelease t) s = .next { s with env := e, dev := s.dev.settleFabric e }) ∧
  (∀ (e : Env) (d : Device), d.pem.ops.length ≤ 16384 → (d.pump e).pem.ops.length ≤ 16384) ∧
  (∀ (e : Env) (d : Device), (d.pem.ops.map (fun o => o.pkt.tag)).Nodup →
    ((d.pump e).pem.ops.map (fun o => o.pkt.tag)).Nodup)
end

