-- ==== Sys2Proof/Laws/Memory.lean ====
section
/-! SUPPORT. Laws of sparse tables and byte memories: read after write, and the canonical form is kept. -/

namespace Sys2Proof.Machine

/-! ## Tables -/

section Tables
variable {α : Type}

@[simp] theorem tget_nil (x : α) (k : Nat) : tget x [] k = x := rfl

@[simp] theorem tget_tset_same (x : α) (t : Tbl α) (k : Nat) (v : α) : tget x (tset t k v) k = v := by
  induction t with
  | nil => simp [tset, tget]
  | cons h r ih =>
    obtain ⟨k', w⟩ := h
    unfold tset
    split
    · simp [tget]
    · split
      · simp [tget]
      · have : ¬ k' = k := fun e => by simp_all
        simp [tget, this, ih]

theorem tget_tset_other (x : α) (t : Tbl α) {k j : Nat} (v : α) (h : j ≠ k) : tget x (tset t k v) j = tget x t j := by
  induction t with
  | nil => simp [tset, tget, Ne.symm h]
  | cons p r ih =>
    obtain ⟨k', w⟩ := p
    unfold tset
    split
    · simp [tget, Ne.symm h]
    · split
      · rename_i hk; subst hk; simp [tget, Ne.symm h]
      · simp [tget, ih]

theorem tget_tset (x : α) (t : Tbl α) (k j : Nat) (v : α) :
    tget x (tset t k v) j = if j = k then v else tget x t j := by
  by_cases h : j = k
  · subst h; simp
  · simp [h, tget_tset_other x t v h]

theorem tfind_tset (t : Tbl α) (k j : Nat) (v : α) :
    tfind (tset t k v) j = if j = k then some v else tfind t j := by
  induction t with
  | nil => by_cases h : j = k
           · subst h; simp [tset, tfind]
           · simp [tset, tfind, h, Ne.symm h]
  | cons p r ih =>
    obtain ⟨k', w⟩ := p
    unfold tset
    split
    · by_cases h : j = k
      · subst h; simp [tfind]
      · simp [tfind, h, Ne.symm h]
    · split
      · rename_i hk; subst hk
        by_cases h : j = k
        · subst h; simp [tfind]
        · simp [tfind, h, Ne.symm h]
      · rename_i h1 h2
        by_cases h : k' = j
        · subst h; simp [tfind, Ne.symm h2]
        · simp [tfind, h, ih]

@[simp] theorem tfind_tset_same (t : Tbl α) (k : Nat) (v : α) : tfind (tset t k v) k = some v := by
  simp [tfind_tset]

theorem tfind_tdel (t : Tbl α) (k j : Nat) : tfind (tdel t k) j = if j = k then none else tfind t j := by
  induction t with
  | nil => simp [tdel, tfind]
  | cons p r ih =>
    obtain ⟨k', w⟩ := p
    unfold tdel
    split
    · rename_i h; subst h
      by_cases h : j = k'
      · subst h; simp [ih]
      · simp [tfind, ih, h, Ne.symm h]
    · rename_i h1
      by_cases h : k' = j
      · subst h; simp [tfind, h1]
      · simp [tfind, h, ih]

@[simp] theorem tfind_tdel_same (t : Tbl α) (k : Nat) : tfind (tdel t k) k = none := by simp [tfind_tdel]

theorem tget_eq_tfind (x : α) (t : Tbl α) (k : Nat) : tget x t k = (tfind t k).getD x := by
  induction t with
  | nil => rfl
  | cons p r ih => obtain ⟨k', w⟩ := p; by_cases h : k' = k <;> simp [tget, tfind, h, ih]

end Tables

/-! ## Byte memories -/

theorem mdrop_eq_filter (m : Memory) (a : Nat) : mdrop m a = m.filter (fun c => c.1 ≠ a) := by
  induction m with
  | nil => rfl
  | cons p r ih => obtain ⟨k, v⟩ := p; by_cases h : k = a <;> simp [mdrop, h, ih]

theorem mread_mdrop (d : Byte) (m : Memory) (a b : Nat) :
    mread d (mdrop m a) b = if b = a then d else mread d m b := by
  induction m with
  | nil => simp [mdrop, mread]
  | cons p r ih =>
    obtain ⟨k, v⟩ := p
    unfold mdrop
    split
    · rename_i h; subst h
      by_cases h : b = k
      · subst h; simp [ih]
      · simp [mread, ih, h, Ne.symm h]
    · rename_i h1
      by_cases h : k = b
      · subst h; simp [mread, h1]
      · simp [mread, h, ih]

theorem mread_mput (d : Byte) (m : Memory) (a b : Nat) (v : Byte) :
    mread d (mput m a v) b = if b = a then v else mread d m b := by
  induction m with
  | nil => by_cases h : b = a
           · subst h; simp [mput, mread]
           · simp [mput, mread, h, Ne.symm h]
  | cons p r ih =>
    obtain ⟨k, w⟩ := p
    unfold mput
    split
    · by_cases h : b = a
      · subst h; simp [mread]
      · simp [mread, h, Ne.symm h]
    · split
      · rename_i hk; subst hk
        by_cases h : b = a
        · subst h; simp [mread]
        · simp [mread, h, Ne.symm h]
      · rename_i h1 h2
        by_cases h : k = b
        · subst h; simp [mread, Ne.symm h2]
        · simp [mread, h, ih]

/-- Read after write of one byte. -/
theorem mread_mwrite (d : Byte) (m : Memory) (a b : Nat) (v : Byte) :
    mread d (mwrite d m a v) b = if b = a then v else mread d m b := by
  unfold mwrite
  split
  · rename_i h; subst h; exact mread_mdrop v m a b
  · exact mread_mput d m a b v

/-- Read after a write of several bytes. -/
theorem mread_mwrites (d : Byte) (m : Memory) (a b : Nat) (bs : List Byte) :
    mread d (mwrites d m a bs) b = if a ≤ b ∧ b < a + bs.length then bs.getD (b - a) d else mread d m b := by
  induction bs generalizing m a with
  | nil =>
    have h : ¬ (a ≤ b ∧ b < a + ([] : List Byte).length) := by simp
    rw [if_neg h]; rfl
  | cons x r ih =>
    simp only [mwrites, ih, mread_mwrite, List.length_cons]
    by_cases h : b = a
    · subst h
      have h1 : ¬ (b + 1 ≤ b ∧ b < b + 1 + r.length) := by omega
      rw [if_neg h1]; simp
    · by_cases h1 : a + 1 ≤ b ∧ b < a + 1 + r.length
      · have h2 : a ≤ b ∧ b < a + (r.length + 1) := by omega
        have h3 : b - a = (b - (a + 1)) + 1 := by omega
        rw [if_pos h1, if_pos h2, h3, List.getD_cons_succ]
      · have h2 : ¬ (a ≤ b ∧ b < a + (r.length + 1)) := by omega
        rw [if_neg h1, if_neg h2, if_neg h]

theorem mread_mclear (m : Memory) (lo hi a : Nat) (d : Byte) :
    mread d (mclear m lo hi) a = if lo ≤ a ∧ a < hi then d else mread d m a := by
  induction m with
  | nil => simp [mclear, mread]
  | cons p r ih =>
    obtain ⟨k, v⟩ := p
    have step : mclear ((k, v) :: r) lo hi
        = if k < lo ∨ hi ≤ k then (k, v) :: mclear r lo hi else mclear r lo hi := by
      by_cases h : k < lo ∨ hi ≤ k <;> simp [mclear, h]
    rw [step]
    by_cases h : k < lo ∨ hi ≤ k
    · rw [if_pos h]
      by_cases e : k = a
      · subst e
        have : ¬ (lo ≤ k ∧ k < hi) := by omega
        simp [mread, this]
      · simp [mread, e, ih]
    · rw [if_neg h, ih]
      by_cases e : k = a
      · subst e
        have : lo ≤ k ∧ k < hi := by omega
        simp [this]
      · simp [mread, e]

@[simp] theorem length_mreads (d : Byte) (m : Memory) (a n : Nat) : (mreads d m a n).length = n := by
  induction n generalizing a with
  | zero => rfl
  | succ n ih => simp [mreads, ih]

theorem getD_mreads (d x : Byte) (m : Memory) (a n i : Nat) (h : i < n) :
    (mreads d m a n).getD i x = mread d m (a + i) := by
  induction n generalizing a i with
  | zero => omega
  | succ n ih =>
    cases i with
    | zero => simp [mreads]
    | succ i => simp only [mreads, List.getD_cons_succ]; rw [ih _ _ (by omega)]; congr 1; omega

/-! ## The canonical form is kept -/

theorem Memory.wf_iff (d : Byte) (m : Memory) :
    Memory.wf d m = true ↔ m.Pairwise (fun x y => x.1 < y.1) ∧ ∀ c ∈ m, c.2 ≠ d := by
  induction m with
  | nil => simp [Memory.wf]
  | cons c r ih =>
    cases r with
    | nil => simp [Memory.wf]
    | cons c' r =>
      simp only [Memory.wf, Bool.and_eq_true, bne_iff_ne, decide_eq_true_eq, ih, List.pairwise_cons, List.mem_cons,
        forall_eq_or_imp]
      constructor
      · rintro ⟨⟨h1, h2⟩, ⟨h3, h4⟩, h5⟩
        exact ⟨⟨⟨h2, fun x hx => Nat.lt_trans h2 (h3 x hx)⟩, h3, h4⟩, h1, h5⟩
      · rintro ⟨⟨⟨h2, _⟩, h3, h4⟩, h1, h5⟩
        exact ⟨⟨h1, h2⟩, ⟨h3, h4⟩, h5⟩

theorem wf_filter (d : Byte) (m : Memory) (p : Nat × Byte → Bool) (h : Memory.wf d m = true) :
    Memory.wf d (m.filter p) = true := by
  rw [Memory.wf_iff] at h ⊢
  exact ⟨h.1.filter _, fun c hc => h.2 c (List.mem_filter.mp hc).1⟩

theorem mem_mput (m : Memory) (a : Nat) (v : Byte) (c : Nat × Byte) (h : c ∈ mput m a v) : c = (a, v) ∨ c ∈ m := by
  induction m with
  | nil => simpa [mput] using h
  | cons p r ih =>
    obtain ⟨k, w⟩ := p
    unfold mput at h
    split at h
    · simpa using h
    · split at h
      · rcases List.mem_cons.mp h with h | h
        · exact .inl h
        · exact .inr (List.mem_cons_of_mem _ h)
      · rcases List.mem_cons.mp h with h | h
        · exact .inr (h ▸ List.mem_cons_self)
        · exact (ih h).imp id (List.mem_cons_of_mem _)

theorem wf_mput (d : Byte) (m : Memory) (a : Nat) (v : Byte) (hv : v ≠ d) (h : Memory.wf d m = true) :
    Memory.wf d (mput m a v) = true := by
  rw [Memory.wf_iff] at h ⊢
  refine ⟨?_, fun c hc => ?_⟩
  · induction m with
    | nil => simp [mput]
    | cons p r ih =>
      obtain ⟨k, w⟩ := p
      have hp := List.pairwise_cons.mp h.1
      have hr := ih ⟨hp.2, fun c hc => h.2 c (List.mem_cons_of_mem _ hc)⟩
      unfold mput
      split
      · rename_i hlt
        refine List.pairwise_cons.mpr ⟨fun c hc => ?_, h.1⟩
        rcases List.mem_cons.mp hc with rfl | hc
        · exact hlt
        · exact Nat.lt_trans hlt (hp.1 c hc)
      · split
        · rename_i hk; subst hk
          exact List.pairwise_cons.mpr ⟨hp.1, hp.2⟩
        · rename_i h1 h2
          refine List.pairwise_cons.mpr ⟨fun c hc => ?_, hr⟩
          rcases mem_mput r a v c hc with rfl | hc
          · show k < a; omega
          · exact hp.1 c hc
  · rcases mem_mput m a v c hc with rfl | hc
    · exact hv
    · exact h.2 c hc

/-- A byte write keeps the canonical form. -/
theorem wf_mwrite (d : Byte) (m : Memory) (a : Nat) (v : Byte) (h : Memory.wf d m = true) :
    Memory.wf d (mwrite d m a v) = true := by
  unfold mwrite
  split
  · rw [mdrop_eq_filter]; exact wf_filter d m _ h
  · rename_i hv; exact wf_mput d m a v hv h

/-- A write of several bytes keeps it. -/
theorem wf_mwrites (d : Byte) (m : Memory) (a : Nat) (bs : List Byte) (h : Memory.wf d m = true) :
    Memory.wf d (mwrites d m a bs) = true := by
  induction bs generalizing m a with
  | nil => exact h
  | cons x r ih => exact ih _ _ (wf_mwrite d m a x h)

/-- So does a zeroing. -/
theorem wf_mclear (d : Byte) (m : Memory) (lo hi : Nat) (h : Memory.wf d m = true) :
    Memory.wf d (mclear m lo hi) = true := wf_filter d m _ h

/-- So does a store of n bytes. -/
theorem wf_wr (m : Memory) (a n v : Nat) (h : Memory.wf 0 m = true) : Memory.wf 0 (wr m a n v) = true :=
  wf_mwrites 0 m a _ h

/-! ## Numbers as bytes -/

@[simp] theorem length_toBytes (n v : Nat) : (toBytes n v).length = n := by
  induction n generalizing v with
  | zero => rfl
  | succ n ih => simp [toBytes, ih]

theorem ofBytes_toBytes (n v : Nat) : ofBytes (toBytes n v) = v % 256 ^ n := by
  induction n generalizing v with
  | zero => simp [toBytes, ofBytes, Nat.mod_one]
  | succ n ih =>
    have h : (256 : Nat) ^ (n + 1) = 256 * 256 ^ n := by rw [Nat.pow_succ, Nat.mul_comm]
    have h8 : (2 : Nat) ^ 8 = 256 := by decide
    simp only [toBytes, ofBytes, ih, BitVec.toNat_ofNat, h8, h, Nat.mod_mul]
    omega

theorem mreads_mwrites_same (d : Byte) (m : Memory) (a : Nat) (bs : List Byte) :
    mreads d (mwrites d m a bs) a bs.length = bs := by
  apply List.ext_getElem
  · simp
  · intro i h1 h2
    have := getD_mreads d 0 (mwrites d m a bs) a bs.length i h2
    simp only [List.getD_eq_getElem?_getD, List.getElem?_eq_getElem h1, Option.getD_some] at this
    rw [this, mread_mwrites, if_pos (by omega), show a + i - a = i by omega]
    simp [h2]

/-- Load after store of a number. -/
theorem rd_wr_same (m : Memory) (a n v : Nat) : rd (wr m a n v) a n = v % 256 ^ n := by
  have := mreads_mwrites_same 0 m a (toBytes n v)
  rw [length_toBytes] at this
  simp only [rd, wr, mloadN, mstoreN, this, ofBytes_toBytes]

end Sys2Proof.Machine
end

