-- ==== Sys2Proof/Laws/State.lean ====
section
/-! SUPPORT. What each update of the device leaves as it was, one lemma per field and update, and what it puts in place.
No later proof need unfold a record update. -/

namespace Sys2Proof.Machine

/-! ## setSq -/

@[simp] theorem setSq_mode (d : Device) (n : Nat) (r : SubRing) : (d.setSq n r).mode = d.mode := rfl
@[simp] theorem setSq_host (d : Device) (n : Nat) (r : SubRing) : (d.setSq n r).host = d.host := rfl
@[simp] theorem setSq_lp (d : Device) (n : Nat) (r : SubRing) : (d.setSq n r).lp = d.lp := rfl
@[simp] theorem setSq_lpBad (d : Device) (n : Nat) (r : SubRing) : (d.setSq n r).lpBad = d.lpBad := rfl
@[simp] theorem setSq_loaf (d : Device) (n : Nat) (r : SubRing) : (d.setSq n r).loaf = d.loaf := rfl
@[simp] theorem setSq_jobMem (d : Device) (n : Nat) (r : SubRing) : (d.setSq n r).jobMem = d.jobMem := rfl
@[simp] theorem setSq_hif (d : Device) (n : Nat) (r : SubRing) : (d.setSq n r).hif = d.hif := rfl
@[simp] theorem setSq_cq (d : Device) (n : Nat) (r : SubRing) : (d.setSq n r).cq = d.cq := rfl
@[simp] theorem setSq_ts (d : Device) (n : Nat) (r : SubRing) : (d.setSq n r).ts = d.ts := rfl
@[simp] theorem setSq_eq (d : Device) (n : Nat) (r : SubRing) : (d.setSq n r).eq = d.eq := rfl
@[simp] theorem setSq_fetched (d : Device) (n : Nat) (r : SubRing) : (d.setSq n r).fetched = d.fetched := rfl
@[simp] theorem setSq_inflight (d : Device) (n : Nat) (r : SubRing) : (d.setSq n r).inflight = d.inflight := rfl
@[simp] theorem setSq_nextSeq (d : Device) (n : Nat) (r : SubRing) : (d.setSq n r).nextSeq = d.nextSeq := rfl
@[simp] theorem setSq_resync (d : Device) (n : Nat) (r : SubRing) : (d.setSq n r).resync = d.resync := rfl
@[simp] theorem setSq_resyncDb (d : Device) (n : Nat) (r : SubRing) : (d.setSq n r).resyncDb = d.resyncDb := rfl
@[simp] theorem setSq_reqs (d : Device) (n : Nat) (r : SubRing) : (d.setSq n r).reqs = d.reqs := rfl
@[simp] theorem setSq_fresh (d : Device) (n : Nat) (r : SubRing) : (d.setSq n r).fresh = d.fresh := rfl
@[simp] theorem setSq_freed (d : Device) (n : Nat) (r : SubRing) : (d.setSq n r).freed = d.freed := rfl
@[simp] theorem setSq_ctxs (d : Device) (n : Nat) (r : SubRing) : (d.setSq n r).ctxs = d.ctxs := rfl
@[simp] theorem setSq_blocks (d : Device) (n : Nat) (r : SubRing) : (d.setSq n r).blocks = d.blocks := rfl
@[simp] theorem setSq_kn (d : Device) (n : Nat) (r : SubRing) : (d.setSq n r).kn = d.kn := rfl
@[simp] theorem setSq_recipes (d : Device) (n : Nat) (r : SubRing) : (d.setSq n r).recipes = d.recipes := rfl
@[simp] theorem setSq_adapters (d : Device) (n : Nat) (r : SubRing) : (d.setSq n r).adapters = d.adapters := rfl
@[simp] theorem setSq_grammars (d : Device) (n : Nat) (r : SubRing) : (d.setSq n r).grammars = d.grammars := rfl
@[simp] theorem setSq_frames (d : Device) (n : Nat) (r : SubRing) : (d.setSq n r).frames = d.frames := rfl
@[simp] theorem setSq_lists (d : Device) (n : Nat) (r : SubRing) : (d.setSq n r).lists = d.lists := rfl
@[simp] theorem setSq_health (d : Device) (n : Nat) (r : SubRing) : (d.setSq n r).health = d.health := rfl
@[simp] theorem setSq_oven (d : Device) (n : Nat) (r : SubRing) : (d.setSq n r).oven = d.oven := rfl
@[simp] theorem setSq_eng (d : Device) (n : Nat) (r : SubRing) : (d.setSq n r).eng = d.eng := rfl
@[simp] theorem setSq_peel (d : Device) (n : Nat) (r : SubRing) : (d.setSq n r).peel = d.peel := rfl
@[simp] theorem setSq_mill (d : Device) (n : Nat) (r : SubRing) : (d.setSq n r).mill = d.mill := rfl
@[simp] theorem setSq_sift (d : Device) (n : Nat) (r : SubRing) : (d.setSq n r).sift = d.sift := rfl
@[simp] theorem setSq_pem (d : Device) (n : Nat) (r : SubRing) : (d.setSq n r).pem = d.pem := rfl
@[simp] theorem setSq_prf (d : Device) (n : Nat) (r : SubRing) : (d.setSq n r).prf = d.prf := rfl
@[simp] theorem setSq_dmp (d : Device) (n : Nat) (r : SubRing) : (d.setSq n r).dmp = d.dmp := rfl
@[simp] theorem setSq_hearth (d : Device) (n : Nat) (r : SubRing) : (d.setSq n r).hearth = d.hearth := rfl
@[simp] theorem setSq_free (d : Device) (n : Nat) (r : SubRing) : (d.setSq n r).free = d.free := rfl
@[simp] theorem setSq_ring (d : Device) (n : Nat) (r : SubRing) (q : RingKind) (j : Nat) : (d.setSq n r).ring q j = d.ring q j := rfl
@[simp] theorem setSq_req (d : Device) (n : Nat) (r : SubRing) (j : Nat) : (d.setSq n r).req j = d.req j := rfl
@[simp] theorem setSq_ctx (d : Device) (n : Nat) (r : SubRing) (j : Nat) : (d.setSq n r).ctx j = d.ctx j := rfl
@[simp] theorem setSq_tenant (d : Device) (n : Nat) (r : SubRing) (j : Nat) : (d.setSq n r).tenant j = d.tenant j := rfl
@[simp] theorem setSq_gate (d : Device) (n : Nat) (r : SubRing) (j : Nat) : (d.setSq n r).gate j = d.gate j := rfl
@[simp] theorem setSq_port (d : Device) (n : Nat) (r : SubRing) (j : Nat) : (d.setSq n r).port j = d.port j := rfl
@[simp] theorem setSq_frame (d : Device) (n : Nat) (r : SubRing) (a b j : Nat) : (d.setSq n r).frame a b j = d.frame a b j := rfl
@[simp] theorem setSq_residency (d : Device) (n : Nat) (r : SubRing) (a j : Nat) : (d.setSq n r).residency a j = d.residency a j := rfl
@[simp] theorem setSq_recipe (d : Device) (n : Nat) (r : SubRing) (j : Nat) : (d.setSq n r).recipe j = d.recipe j := rfl
@[simp] theorem setSq_info (d : Device) (n : Nat) (r : SubRing) (j : Nat) : (d.setSq n r).info j = d.info j := rfl
@[simp] theorem setSq_serving (d : Device) (n : Nat) (r : SubRing) (e : Env) : (d.setSq n r).serving e = d.serving e := rfl
@[simp] theorem setSq_logicFrozen (d : Device) (n : Nat) (r : SubRing) : (d.setSq n r).logicFrozen = d.logicFrozen := rfl

/-! ## setRing -/

@[simp] theorem setRing_mode (d : Device) (k : RingKind) (n : Nat) (r : DevRing) : (d.setRing k n r).mode = d.mode := by cases k <;> rfl
@[simp] theorem setRing_host (d : Device) (k : RingKind) (n : Nat) (r : DevRing) : (d.setRing k n r).host = d.host := by cases k <;> rfl
@[simp] theorem setRing_lp (d : Device) (k : RingKind) (n : Nat) (r : DevRing) : (d.setRing k n r).lp = d.lp := by cases k <;> rfl
@[simp] theorem setRing_lpBad (d : Device) (k : RingKind) (n : Nat) (r : DevRing) : (d.setRing k n r).lpBad = d.lpBad := by cases k <;> rfl
@[simp] theorem setRing_loaf (d : Device) (k : RingKind) (n : Nat) (r : DevRing) : (d.setRing k n r).loaf = d.loaf := by cases k <;> rfl
@[simp] theorem setRing_jobMem (d : Device) (k : RingKind) (n : Nat) (r : DevRing) : (d.setRing k n r).jobMem = d.jobMem := by cases k <;> rfl
@[simp] theorem setRing_hif (d : Device) (k : RingKind) (n : Nat) (r : DevRing) : (d.setRing k n r).hif = d.hif := by cases k <;> rfl
@[simp] theorem setRing_sq (d : Device) (k : RingKind) (n : Nat) (r : DevRing) : (d.setRing k n r).sq = d.sq := by cases k <;> rfl
@[simp] theorem setRing_fetched (d : Device) (k : RingKind) (n : Nat) (r : DevRing) : (d.setRing k n r).fetched = d.fetched := by cases k <;> rfl
@[simp] theorem setRing_inflight (d : Device) (k : RingKind) (n : Nat) (r : DevRing) : (d.setRing k n r).inflight = d.inflight := by cases k <;> rfl
@[simp] theorem setRing_nextSeq (d : Device) (k : RingKind) (n : Nat) (r : DevRing) : (d.setRing k n r).nextSeq = d.nextSeq := by cases k <;> rfl
@[simp] theorem setRing_resync (d : Device) (k : RingKind) (n : Nat) (r : DevRing) : (d.setRing k n r).resync = d.resync := by cases k <;> rfl
@[simp] theorem setRing_resyncDb (d : Device) (k : RingKind) (n : Nat) (r : DevRing) : (d.setRing k n r).resyncDb = d.resyncDb := by cases k <;> rfl
@[simp] theorem setRing_reqs (d : Device) (k : RingKind) (n : Nat) (r : DevRing) : (d.setRing k n r).reqs = d.reqs := by cases k <;> rfl
@[simp] theorem setRing_fresh (d : Device) (k : RingKind) (n : Nat) (r : DevRing) : (d.setRing k n r).fresh = d.fresh := by cases k <;> rfl
@[simp] theorem setRing_freed (d : Device) (k : RingKind) (n : Nat) (r : DevRing) : (d.setRing k n r).freed = d.freed := by cases k <;> rfl
@[simp] theorem setRing_ctxs (d : Device) (k : RingKind) (n : Nat) (r : DevRing) : (d.setRing k n r).ctxs = d.ctxs := by cases k <;> rfl
@[simp] theorem setRing_blocks (d : Device) (k : RingKind) (n : Nat) (r : DevRing) : (d.setRing k n r).blocks = d.blocks := by cases k <;> rfl
@[simp] theorem setRing_kn (d : Device) (k : RingKind) (n : Nat) (r : DevRing) : (d.setRing k n r).kn = d.kn := by cases k <;> rfl
@[simp] theorem setRing_recipes (d : Device) (k : RingKind) (n : Nat) (r : DevRing) : (d.setRing k n r).recipes = d.recipes := by cases k <;> rfl
@[simp] theorem setRing_adapters (d : Device) (k : RingKind) (n : Nat) (r : DevRing) : (d.setRing k n r).adapters = d.adapters := by cases k <;> rfl
@[simp] theorem setRing_grammars (d : Device) (k : RingKind) (n : Nat) (r : DevRing) : (d.setRing k n r).grammars = d.grammars := by cases k <;> rfl
@[simp] theorem setRing_frames (d : Device) (k : RingKind) (n : Nat) (r : DevRing) : (d.setRing k n r).frames = d.frames := by cases k <;> rfl
@[simp] theorem setRing_lists (d : Device) (k : RingKind) (n : Nat) (r : DevRing) : (d.setRing k n r).lists = d.lists := by cases k <;> rfl
@[simp] theorem setRing_health (d : Device) (k : RingKind) (n : Nat) (r : DevRing) : (d.setRing k n r).health = d.health := by cases k <;> rfl
@[simp] theorem setRing_oven (d : Device) (k : RingKind) (n : Nat) (r : DevRing) : (d.setRing k n r).oven = d.oven := by cases k <;> rfl
@[simp] theorem setRing_eng (d : Device) (k : RingKind) (n : Nat) (r : DevRing) : (d.setRing k n r).eng = d.eng := by cases k <;> rfl
@[simp] theorem setRing_peel (d : Device) (k : RingKind) (n : Nat) (r : DevRing) : (d.setRing k n r).peel = d.peel := by cases k <;> rfl
@[simp] theorem setRing_mill (d : Device) (k : RingKind) (n : Nat) (r : DevRing) : (d.setRing k n r).mill = d.mill := by cases k <;> rfl
@[simp] theorem setRing_sift (d : Device) (k : RingKind) (n : Nat) (r : DevRing) : (d.setRing k n r).sift = d.sift := by cases k <;> rfl
@[simp] theorem setRing_pem (d : Device) (k : RingKind) (n : Nat) (r : DevRing) : (d.setRing k n r).pem = d.pem := by cases k <;> rfl
@[simp] theorem setRing_prf (d : Device) (k : RingKind) (n : Nat) (r : DevRing) : (d.setRing k n r).prf = d.prf := by cases k <;> rfl
@[simp] theorem setRing_dmp (d : Device) (k : RingKind) (n : Nat) (r : DevRing) : (d.setRing k n r).dmp = d.dmp := by cases k <;> rfl
@[simp] theorem setRing_hearth (d : Device) (k : RingKind) (n : Nat) (r : DevRing) : (d.setRing k n r).hearth = d.hearth := by cases k <;> rfl
@[simp] theorem setRing_free (d : Device) (k : RingKind) (n : Nat) (r : DevRing) : (d.setRing k n r).free = d.free := by cases k <;> rfl
@[simp] theorem setRing_sqr (d : Device) (k : RingKind) (n : Nat) (r : DevRing) (j : Nat) : (d.setRing k n r).sqr j = d.sqr j := by cases k <;> rfl
@[simp] theorem setRing_req (d : Device) (k : RingKind) (n : Nat) (r : DevRing) (j : Nat) : (d.setRing k n r).req j = d.req j := by cases k <;> rfl
@[simp] theorem setRing_ctx (d : Device) (k : RingKind) (n : Nat) (r : DevRing) (j : Nat) : (d.setRing k n r).ctx j = d.ctx j := by cases k <;> rfl
@[simp] theorem setRing_tenant (d : Device) (k : RingKind) (n : Nat) (r : DevRing) (j : Nat) : (d.setRing k n r).tenant j = d.tenant j := by cases k <;> rfl
@[simp] theorem setRing_gate (d : Device) (k : RingKind) (n : Nat) (r : DevRing) (j : Nat) : (d.setRing k n r).gate j = d.gate j := by cases k <;> rfl
@[simp] theorem setRing_port (d : Device) (k : RingKind) (n : Nat) (r : DevRing) (j : Nat) : (d.setRing k n r).port j = d.port j := by cases k <;> rfl
@[simp] theorem setRing_frame (d : Device) (k : RingKind) (n : Nat) (r : DevRing) (a b j : Nat) : (d.setRing k n r).frame a b j = d.frame a b j := by cases k <;> rfl
@[simp] theorem setRing_residency (d : Device) (k : RingKind) (n : Nat) (r : DevRing) (a j : Nat) : (d.setRing k n r).residency a j = d.residency a j := by cases k <;> rfl
@[simp] theorem setRing_recipe (d : Device) (k : RingKind) (n : Nat) (r : DevRing) (j : Nat) : (d.setRing k n r).recipe j = d.recipe j := by cases k <;> rfl
@[simp] theorem setRing_info (d : Device) (k : RingKind) (n : Nat) (r : DevRing) (j : Nat) : (d.setRing k n r).info j = d.info j := by cases k <;> rfl
@[simp] theorem setRing_serving (d : Device) (k : RingKind) (n : Nat) (r : DevRing) (e : Env) : (d.setRing k n r).serving e = d.serving e := by cases k <;> rfl
@[simp] theorem setRing_logicFrozen (d : Device) (k : RingKind) (n : Nat) (r : DevRing) : (d.setRing k n r).logicFrozen = d.logicFrozen := by cases k <;> rfl

/-! ## setReq -/

@[simp] theorem setReq_mode (d : Device) (i : Nat) (r : Request) : (d.setReq i r).mode = d.mode := rfl
@[simp] theorem setReq_host (d : Device) (i : Nat) (r : Request) : (d.setReq i r).host = d.host := rfl
@[simp] theorem setReq_lp (d : Device) (i : Nat) (r : Request) : (d.setReq i r).lp = d.lp := rfl
@[simp] theorem setReq_lpBad (d : Device) (i : Nat) (r : Request) : (d.setReq i r).lpBad = d.lpBad := rfl
@[simp] theorem setReq_loaf (d : Device) (i : Nat) (r : Request) : (d.setReq i r).loaf = d.loaf := rfl
@[simp] theorem setReq_jobMem (d : Device) (i : Nat) (r : Request) : (d.setReq i r).jobMem = d.jobMem := rfl
@[simp] theorem setReq_hif (d : Device) (i : Nat) (r : Request) : (d.setReq i r).hif = d.hif := rfl
@[simp] theorem setReq_sq (d : Device) (i : Nat) (r : Request) : (d.setReq i r).sq = d.sq := rfl
@[simp] theorem setReq_cq (d : Device) (i : Nat) (r : Request) : (d.setReq i r).cq = d.cq := rfl
@[simp] theorem setReq_ts (d : Device) (i : Nat) (r : Request) : (d.setReq i r).ts = d.ts := rfl
@[simp] theorem setReq_eq (d : Device) (i : Nat) (r : Request) : (d.setReq i r).eq = d.eq := rfl
@[simp] theorem setReq_fetched (d : Device) (i : Nat) (r : Request) : (d.setReq i r).fetched = d.fetched := rfl
@[simp] theorem setReq_inflight (d : Device) (i : Nat) (r : Request) : (d.setReq i r).inflight = d.inflight := rfl
@[simp] theorem setReq_nextSeq (d : Device) (i : Nat) (r : Request) : (d.setReq i r).nextSeq = d.nextSeq := rfl
@[simp] theorem setReq_resync (d : Device) (i : Nat) (r : Request) : (d.setReq i r).resync = d.resync := rfl
@[simp] theorem setReq_resyncDb (d : Device) (i : Nat) (r : Request) : (d.setReq i r).resyncDb = d.resyncDb := rfl
@[simp] theorem setReq_fresh (d : Device) (i : Nat) (r : Request) : (d.setReq i r).fresh = d.fresh := rfl
@[simp] theorem setReq_freed (d : Device) (i : Nat) (r : Request) : (d.setReq i r).freed = d.freed := rfl
@[simp] theorem setReq_ctxs (d : Device) (i : Nat) (r : Request) : (d.setReq i r).ctxs = d.ctxs := rfl
@[simp] theorem setReq_blocks (d : Device) (i : Nat) (r : Request) : (d.setReq i r).blocks = d.blocks := rfl
@[simp] theorem setReq_kn (d : Device) (i : Nat) (r : Request) : (d.setReq i r).kn = d.kn := rfl
@[simp] theorem setReq_recipes (d : Device) (i : Nat) (r : Request) : (d.setReq i r).recipes = d.recipes := rfl
@[simp] theorem setReq_adapters (d : Device) (i : Nat) (r : Request) : (d.setReq i r).adapters = d.adapters := rfl
@[simp] theorem setReq_grammars (d : Device) (i : Nat) (r : Request) : (d.setReq i r).grammars = d.grammars := rfl
@[simp] theorem setReq_frames (d : Device) (i : Nat) (r : Request) : (d.setReq i r).frames = d.frames := rfl
@[simp] theorem setReq_lists (d : Device) (i : Nat) (r : Request) : (d.setReq i r).lists = d.lists := rfl
@[simp] theorem setReq_health (d : Device) (i : Nat) (r : Request) : (d.setReq i r).health = d.health := rfl
@[simp] theorem setReq_oven (d : Device) (i : Nat) (r : Request) : (d.setReq i r).oven = d.oven := rfl
@[simp] theorem setReq_eng (d : Device) (i : Nat) (r : Request) : (d.setReq i r).eng = d.eng := rfl
@[simp] theorem setReq_peel (d : Device) (i : Nat) (r : Request) : (d.setReq i r).peel = d.peel := rfl
@[simp] theorem setReq_mill (d : Device) (i : Nat) (r : Request) : (d.setReq i r).mill = d.mill := rfl
@[simp] theorem setReq_sift (d : Device) (i : Nat) (r : Request) : (d.setReq i r).sift = d.sift := rfl
@[simp] theorem setReq_pem (d : Device) (i : Nat) (r : Request) : (d.setReq i r).pem = d.pem := rfl
@[simp] theorem setReq_prf (d : Device) (i : Nat) (r : Request) : (d.setReq i r).prf = d.prf := rfl
@[simp] theorem setReq_dmp (d : Device) (i : Nat) (r : Request) : (d.setReq i r).dmp = d.dmp := rfl
@[simp] theorem setReq_hearth (d : Device) (i : Nat) (r : Request) : (d.setReq i r).hearth = d.hearth := rfl
@[simp] theorem setReq_free (d : Device) (i : Nat) (r : Request) : (d.setReq i r).free = d.free := rfl
@[simp] theorem setReq_sqr (d : Device) (i : Nat) (r : Request) (j : Nat) : (d.setReq i r).sqr j = d.sqr j := rfl
@[simp] theorem setReq_ring (d : Device) (i : Nat) (r : Request) (q : RingKind) (j : Nat) : (d.setReq i r).ring q j = d.ring q j := rfl
@[simp] theorem setReq_ctx (d : Device) (i : Nat) (r : Request) (j : Nat) : (d.setReq i r).ctx j = d.ctx j := rfl
@[simp] theorem setReq_tenant (d : Device) (i : Nat) (r : Request) (j : Nat) : (d.setReq i r).tenant j = d.tenant j := rfl
@[simp] theorem setReq_gate (d : Device) (i : Nat) (r : Request) (j : Nat) : (d.setReq i r).gate j = d.gate j := rfl
@[simp] theorem setReq_port (d : Device) (i : Nat) (r : Request) (j : Nat) : (d.setReq i r).port j = d.port j := rfl
@[simp] theorem setReq_frame (d : Device) (i : Nat) (r : Request) (a b j : Nat) : (d.setReq i r).frame a b j = d.frame a b j := rfl
@[simp] theorem setReq_residency (d : Device) (i : Nat) (r : Request) (a j : Nat) : (d.setReq i r).residency a j = d.residency a j := rfl
@[simp] theorem setReq_recipe (d : Device) (i : Nat) (r : Request) (j : Nat) : (d.setReq i r).recipe j = d.recipe j := rfl
@[simp] theorem setReq_info (d : Device) (i : Nat) (r : Request) (j : Nat) : (d.setReq i r).info j = d.info j := rfl
@[simp] theorem setReq_serving (d : Device) (i : Nat) (r : Request) (e : Env) : (d.setReq i r).serving e = d.serving e := rfl
@[simp] theorem setReq_logicFrozen (d : Device) (i : Nat) (r : Request) : (d.setReq i r).logicFrozen = d.logicFrozen := rfl

/-! ## setCtx -/

@[simp] theorem setCtx_mode (d : Device) (c : Nat) (x : Context) : (d.setCtx c x).mode = d.mode := rfl
@[simp] theorem setCtx_host (d : Device) (c : Nat) (x : Context) : (d.setCtx c x).host = d.host := rfl
@[simp] theorem setCtx_lp (d : Device) (c : Nat) (x : Context) : (d.setCtx c x).lp = d.lp := rfl
@[simp] theorem setCtx_lpBad (d : Device) (c : Nat) (x : Context) : (d.setCtx c x).lpBad = d.lpBad := rfl
@[simp] theorem setCtx_loaf (d : Device) (c : Nat) (x : Context) : (d.setCtx c x).loaf = d.loaf := rfl
@[simp] theorem setCtx_jobMem (d : Device) (c : Nat) (x : Context) : (d.setCtx c x).jobMem = d.jobMem := rfl
@[simp] theorem setCtx_hif (d : Device) (c : Nat) (x : Context) : (d.setCtx c x).hif = d.hif := rfl
@[simp] theorem setCtx_sq (d : Device) (c : Nat) (x : Context) : (d.setCtx c x).sq = d.sq := rfl
@[simp] theorem setCtx_cq (d : Device) (c : Nat) (x : Context) : (d.setCtx c x).cq = d.cq := rfl
@[simp] theorem setCtx_ts (d : Device) (c : Nat) (x : Context) : (d.setCtx c x).ts = d.ts := rfl
@[simp] theorem setCtx_eq (d : Device) (c : Nat) (x : Context) : (d.setCtx c x).eq = d.eq := rfl
@[simp] theorem setCtx_fetched (d : Device) (c : Nat) (x : Context) : (d.setCtx c x).fetched = d.fetched := rfl
@[simp] theorem setCtx_inflight (d : Device) (c : Nat) (x : Context) : (d.setCtx c x).inflight = d.inflight := rfl
@[simp] theorem setCtx_nextSeq (d : Device) (c : Nat) (x : Context) : (d.setCtx c x).nextSeq = d.nextSeq := rfl
@[simp] theorem setCtx_resync (d : Device) (c : Nat) (x : Context) : (d.setCtx c x).resync = d.resync := rfl
@[simp] theorem setCtx_resyncDb (d : Device) (c : Nat) (x : Context) : (d.setCtx c x).resyncDb = d.resyncDb := rfl
@[simp] theorem setCtx_reqs (d : Device) (c : Nat) (x : Context) : (d.setCtx c x).reqs = d.reqs := rfl
@[simp] theorem setCtx_fresh (d : Device) (c : Nat) (x : Context) : (d.setCtx c x).fresh = d.fresh := rfl
@[simp] theorem setCtx_freed (d : Device) (c : Nat) (x : Context) : (d.setCtx c x).freed = d.freed := rfl
@[simp] theorem setCtx_blocks (d : Device) (c : Nat) (x : Context) : (d.setCtx c x).blocks = d.blocks := rfl
@[simp] theorem setCtx_kn (d : Device) (c : Nat) (x : Context) : (d.setCtx c x).kn = d.kn := rfl
@[simp] theorem setCtx_recipes (d : Device) (c : Nat) (x : Context) : (d.setCtx c x).recipes = d.recipes := rfl
@[simp] theorem setCtx_adapters (d : Device) (c : Nat) (x : Context) : (d.setCtx c x).adapters = d.adapters := rfl
@[simp] theorem setCtx_grammars (d : Device) (c : Nat) (x : Context) : (d.setCtx c x).grammars = d.grammars := rfl
@[simp] theorem setCtx_frames (d : Device) (c : Nat) (x : Context) : (d.setCtx c x).frames = d.frames := rfl
@[simp] theorem setCtx_lists (d : Device) (c : Nat) (x : Context) : (d.setCtx c x).lists = d.lists := rfl
@[simp] theorem setCtx_health (d : Device) (c : Nat) (x : Context) : (d.setCtx c x).health = d.health := rfl
@[simp] theorem setCtx_oven (d : Device) (c : Nat) (x : Context) : (d.setCtx c x).oven = d.oven := rfl
@[simp] theorem setCtx_eng (d : Device) (c : Nat) (x : Context) : (d.setCtx c x).eng = d.eng := rfl
@[simp] theorem setCtx_peel (d : Device) (c : Nat) (x : Context) : (d.setCtx c x).peel = d.peel := rfl
@[simp] theorem setCtx_mill (d : Device) (c : Nat) (x : Context) : (d.setCtx c x).mill = d.mill := rfl
@[simp] theorem setCtx_sift (d : Device) (c : Nat) (x : Context) : (d.setCtx c x).sift = d.sift := rfl
@[simp] theorem setCtx_pem (d : Device) (c : Nat) (x : Context) : (d.setCtx c x).pem = d.pem := rfl
@[simp] theorem setCtx_prf (d : Device) (c : Nat) (x : Context) : (d.setCtx c x).prf = d.prf := rfl
@[simp] theorem setCtx_dmp (d : Device) (c : Nat) (x : Context) : (d.setCtx c x).dmp = d.dmp := rfl
@[simp] theorem setCtx_hearth (d : Device) (c : Nat) (x : Context) : (d.setCtx c x).hearth = d.hearth := rfl
@[simp] theorem setCtx_free (d : Device) (c : Nat) (x : Context) : (d.setCtx c x).free = d.free := rfl
@[simp] theorem setCtx_sqr (d : Device) (c : Nat) (x : Context) (j : Nat) : (d.setCtx c x).sqr j = d.sqr j := rfl
@[simp] theorem setCtx_ring (d : Device) (c : Nat) (x : Context) (q : RingKind) (j : Nat) : (d.setCtx c x).ring q j = d.ring q j := rfl
@[simp] theorem setCtx_req (d : Device) (c : Nat) (x : Context) (j : Nat) : (d.setCtx c x).req j = d.req j := rfl
@[simp] theorem setCtx_tenant (d : Device) (c : Nat) (x : Context) (j : Nat) : (d.setCtx c x).tenant j = d.tenant j := rfl
@[simp] theorem setCtx_gate (d : Device) (c : Nat) (x : Context) (j : Nat) : (d.setCtx c x).gate j = d.gate j := rfl
@[simp] theorem setCtx_port (d : Device) (c : Nat) (x : Context) (j : Nat) : (d.setCtx c x).port j = d.port j := rfl
@[simp] theorem setCtx_frame (d : Device) (c : Nat) (x : Context) (a b j : Nat) : (d.setCtx c x).frame a b j = d.frame a b j := rfl
@[simp] theorem setCtx_residency (d : Device) (c : Nat) (x : Context) (a j : Nat) : (d.setCtx c x).residency a j = d.residency a j := rfl
@[simp] theorem setCtx_recipe (d : Device) (c : Nat) (x : Context) (j : Nat) : (d.setCtx c x).recipe j = d.recipe j := rfl
@[simp] theorem setCtx_info (d : Device) (c : Nat) (x : Context) (j : Nat) : (d.setCtx c x).info j = d.info j := rfl
@[simp] theorem setCtx_serving (d : Device) (c : Nat) (x : Context) (e : Env) : (d.setCtx c x).serving e = d.serving e := rfl
@[simp] theorem setCtx_logicFrozen (d : Device) (c : Nat) (x : Context) : (d.setCtx c x).logicFrozen = d.logicFrozen := rfl

/-! ## modTenant -/

@[simp] theorem modTenant_mode (d : Device) (n : Nat) (f : Tenant → Tenant) : (d.modTenant n f).mode = d.mode := rfl
@[simp] theorem modTenant_host (d : Device) (n : Nat) (f : Tenant → Tenant) : (d.modTenant n f).host = d.host := rfl
@[simp] theorem modTenant_lp (d : Device) (n : Nat) (f : Tenant → Tenant) : (d.modTenant n f).lp = d.lp := rfl
@[simp] theorem modTenant_lpBad (d : Device) (n : Nat) (f : Tenant → Tenant) : (d.modTenant n f).lpBad = d.lpBad := rfl
@[simp] theorem modTenant_loaf (d : Device) (n : Nat) (f : Tenant → Tenant) : (d.modTenant n f).loaf = d.loaf := rfl
@[simp] theorem modTenant_jobMem (d : Device) (n : Nat) (f : Tenant → Tenant) : (d.modTenant n f).jobMem = d.jobMem := rfl
@[simp] theorem modTenant_hif (d : Device) (n : Nat) (f : Tenant → Tenant) : (d.modTenant n f).hif = d.hif := rfl
@[simp] theorem modTenant_sq (d : Device) (n : Nat) (f : Tenant → Tenant) : (d.modTenant n f).sq = d.sq := rfl
@[simp] theorem modTenant_cq (d : Device) (n : Nat) (f : Tenant → Tenant) : (d.modTenant n f).cq = d.cq := rfl
@[simp] theorem modTenant_ts (d : Device) (n : Nat) (f : Tenant → Tenant) : (d.modTenant n f).ts = d.ts := rfl
@[simp] theorem modTenant_eq (d : Device) (n : Nat) (f : Tenant → Tenant) : (d.modTenant n f).eq = d.eq := rfl
@[simp] theorem modTenant_fetched (d : Device) (n : Nat) (f : Tenant → Tenant) : (d.modTenant n f).fetched = d.fetched := rfl
@[simp] theorem modTenant_inflight (d : Device) (n : Nat) (f : Tenant → Tenant) : (d.modTenant n f).inflight = d.inflight := rfl
@[simp] theorem modTenant_nextSeq (d : Device) (n : Nat) (f : Tenant → Tenant) : (d.modTenant n f).nextSeq = d.nextSeq := rfl
@[simp] theorem modTenant_resync (d : Device) (n : Nat) (f : Tenant → Tenant) : (d.modTenant n f).resync = d.resync := rfl
@[simp] theorem modTenant_resyncDb (d : Device) (n : Nat) (f : Tenant → Tenant) : (d.modTenant n f).resyncDb = d.resyncDb := rfl
@[simp] theorem modTenant_reqs (d : Device) (n : Nat) (f : Tenant → Tenant) : (d.modTenant n f).reqs = d.reqs := rfl
@[simp] theorem modTenant_fresh (d : Device) (n : Nat) (f : Tenant → Tenant) : (d.modTenant n f).fresh = d.fresh := rfl
@[simp] theorem modTenant_freed (d : Device) (n : Nat) (f : Tenant → Tenant) : (d.modTenant n f).freed = d.freed := rfl
@[simp] theorem modTenant_ctxs (d : Device) (n : Nat) (f : Tenant → Tenant) : (d.modTenant n f).ctxs = d.ctxs := rfl
@[simp] theorem modTenant_blocks (d : Device) (n : Nat) (f : Tenant → Tenant) : (d.modTenant n f).blocks = d.blocks := rfl
@[simp] theorem modTenant_recipes (d : Device) (n : Nat) (f : Tenant → Tenant) : (d.modTenant n f).recipes = d.recipes := rfl
@[simp] theorem modTenant_adapters (d : Device) (n : Nat) (f : Tenant → Tenant) : (d.modTenant n f).adapters = d.adapters := rfl
@[simp] theorem modTenant_grammars (d : Device) (n : Nat) (f : Tenant → Tenant) : (d.modTenant n f).grammars = d.grammars := rfl
@[simp] theorem modTenant_frames (d : Device) (n : Nat) (f : Tenant → Tenant) : (d.modTenant n f).frames = d.frames := rfl
@[simp] theorem modTenant_lists (d : Device) (n : Nat) (f : Tenant → Tenant) : (d.modTenant n f).lists = d.lists := rfl
@[simp] theorem modTenant_health (d : Device) (n : Nat) (f : Tenant → Tenant) : (d.modTenant n f).health = d.health := rfl
@[simp] theorem modTenant_oven (d : Device) (n : Nat) (f : Tenant → Tenant) : (d.modTenant n f).oven = d.oven := rfl
@[simp] theorem modTenant_eng (d : Device) (n : Nat) (f : Tenant → Tenant) : (d.modTenant n f).eng = d.eng := rfl
@[simp] theorem modTenant_peel (d : Device) (n : Nat) (f : Tenant → Tenant) : (d.modTenant n f).peel = d.peel := rfl
@[simp] theorem modTenant_mill (d : Device) (n : Nat) (f : Tenant → Tenant) : (d.modTenant n f).mill = d.mill := rfl
@[simp] theorem modTenant_sift (d : Device) (n : Nat) (f : Tenant → Tenant) : (d.modTenant n f).sift = d.sift := rfl
@[simp] theorem modTenant_pem (d : Device) (n : Nat) (f : Tenant → Tenant) : (d.modTenant n f).pem = d.pem := rfl
@[simp] theorem modTenant_prf (d : Device) (n : Nat) (f : Tenant → Tenant) : (d.modTenant n f).prf = d.prf := rfl
@[simp] theorem modTenant_dmp (d : Device) (n : Nat) (f : Tenant → Tenant) : (d.modTenant n f).dmp = d.dmp := rfl
@[simp] theorem modTenant_hearth (d : Device) (n : Nat) (f : Tenant → Tenant) : (d.modTenant n f).hearth = d.hearth := rfl
@[simp] theorem modTenant_free (d : Device) (n : Nat) (f : Tenant → Tenant) : (d.modTenant n f).free = d.free := rfl
@[simp] theorem modTenant_sqr (d : Device) (n : Nat) (f : Tenant → Tenant) (j : Nat) : (d.modTenant n f).sqr j = d.sqr j := rfl
@[simp] theorem modTenant_ring (d : Device) (n : Nat) (f : Tenant → Tenant) (q : RingKind) (j : Nat) : (d.modTenant n f).ring q j = d.ring q j := rfl
@[simp] theorem modTenant_req (d : Device) (n : Nat) (f : Tenant → Tenant) (j : Nat) : (d.modTenant n f).req j = d.req j := rfl
@[simp] theorem modTenant_ctx (d : Device) (n : Nat) (f : Tenant → Tenant) (j : Nat) : (d.modTenant n f).ctx j = d.ctx j := rfl
@[simp] theorem modTenant_gate (d : Device) (n : Nat) (f : Tenant → Tenant) (j : Nat) : (d.modTenant n f).gate j = d.gate j := rfl
@[simp] theorem modTenant_port (d : Device) (n : Nat) (f : Tenant → Tenant) (j : Nat) : (d.modTenant n f).port j = d.port j := rfl
@[simp] theorem modTenant_frame (d : Device) (n : Nat) (f : Tenant → Tenant) (a b j : Nat) : (d.modTenant n f).frame a b j = d.frame a b j := rfl
@[simp] theorem modTenant_residency (d : Device) (n : Nat) (f : Tenant → Tenant) (a j : Nat) : (d.modTenant n f).residency a j = d.residency a j := rfl
@[simp] theorem modTenant_recipe (d : Device) (n : Nat) (f : Tenant → Tenant) (j : Nat) : (d.modTenant n f).recipe j = d.recipe j := rfl
@[simp] theorem modTenant_info (d : Device) (n : Nat) (f : Tenant → Tenant) (j : Nat) : (d.modTenant n f).info j = d.info j := rfl
@[simp] theorem modTenant_serving (d : Device) (n : Nat) (f : Tenant → Tenant) (e : Env) : (d.modTenant n f).serving e = d.serving e := rfl
@[simp] theorem modTenant_logicFrozen (d : Device) (n : Nat) (f : Tenant → Tenant) : (d.modTenant n f).logicFrozen = d.logicFrozen := rfl

/-! ## hostWrite -/

@[simp] theorem hostWrite_mode (d : Device) (a : Nat) (bs : List Byte) : (d.hostWrite a bs).mode = d.mode := rfl
@[simp] theorem hostWrite_lp (d : Device) (a : Nat) (bs : List Byte) : (d.hostWrite a bs).lp = d.lp := rfl
@[simp] theorem hostWrite_lpBad (d : Device) (a : Nat) (bs : List Byte) : (d.hostWrite a bs).lpBad = d.lpBad := rfl
@[simp] theorem hostWrite_loaf (d : Device) (a : Nat) (bs : List Byte) : (d.hostWrite a bs).loaf = d.loaf := rfl
@[simp] theorem hostWrite_jobMem (d : Device) (a : Nat) (bs : List Byte) : (d.hostWrite a bs).jobMem = d.jobMem := rfl
@[simp] theorem hostWrite_hif (d : Device) (a : Nat) (bs : List Byte) : (d.hostWrite a bs).hif = d.hif := rfl
@[simp] theorem hostWrite_sq (d : Device) (a : Nat) (bs : List Byte) : (d.hostWrite a bs).sq = d.sq := rfl
@[simp] theorem hostWrite_cq (d : Device) (a : Nat) (bs : List Byte) : (d.hostWrite a bs).cq = d.cq := rfl
@[simp] theorem hostWrite_ts (d : Device) (a : Nat) (bs : List Byte) : (d.hostWrite a bs).ts = d.ts := rfl
@[simp] theorem hostWrite_eq (d : Device) (a : Nat) (bs : List Byte) : (d.hostWrite a bs).eq = d.eq := rfl
@[simp] theorem hostWrite_fetched (d : Device) (a : Nat) (bs : List Byte) : (d.hostWrite a bs).fetched = d.fetched := rfl
@[simp] theorem hostWrite_inflight (d : Device) (a : Nat) (bs : List Byte) : (d.hostWrite a bs).inflight = d.inflight := rfl
@[simp] theorem hostWrite_nextSeq (d : Device) (a : Nat) (bs : List Byte) : (d.hostWrite a bs).nextSeq = d.nextSeq := rfl
@[simp] theorem hostWrite_resync (d : Device) (a : Nat) (bs : List Byte) : (d.hostWrite a bs).resync = d.resync := rfl
@[simp] theorem hostWrite_resyncDb (d : Device) (a : Nat) (bs : List Byte) : (d.hostWrite a bs).resyncDb = d.resyncDb := rfl
@[simp] theorem hostWrite_reqs (d : Device) (a : Nat) (bs : List Byte) : (d.hostWrite a bs).reqs = d.reqs := rfl
@[simp] theorem hostWrite_fresh (d : Device) (a : Nat) (bs : List Byte) : (d.hostWrite a bs).fresh = d.fresh := rfl
@[simp] theorem hostWrite_freed (d : Device) (a : Nat) (bs : List Byte) : (d.hostWrite a bs).freed = d.freed := rfl
@[simp] theorem hostWrite_ctxs (d : Device) (a : Nat) (bs : List Byte) : (d.hostWrite a bs).ctxs = d.ctxs := rfl
@[simp] theorem hostWrite_blocks (d : Device) (a : Nat) (bs : List Byte) : (d.hostWrite a bs).blocks = d.blocks := rfl
@[simp] theorem hostWrite_kn (d : Device) (a : Nat) (bs : List Byte) : (d.hostWrite a bs).kn = d.kn := rfl
@[simp] theorem hostWrite_recipes (d : Device) (a : Nat) (bs : List Byte) : (d.hostWrite a bs).recipes = d.recipes := rfl
@[simp] theorem hostWrite_adapters (d : Device) (a : Nat) (bs : List Byte) : (d.hostWrite a bs).adapters = d.adapters := rfl
@[simp] theorem hostWrite_grammars (d : Device) (a : Nat) (bs : List Byte) : (d.hostWrite a bs).grammars = d.grammars := rfl
@[simp] theorem hostWrite_frames (d : Device) (a : Nat) (bs : List Byte) : (d.hostWrite a bs).frames = d.frames := rfl
@[simp] theorem hostWrite_lists (d : Device) (a : Nat) (bs : List Byte) : (d.hostWrite a bs).lists = d.lists := rfl
@[simp] theorem hostWrite_health (d : Device) (a : Nat) (bs : List Byte) : (d.hostWrite a bs).health = d.health := rfl
@[simp] theorem hostWrite_oven (d : Device) (a : Nat) (bs : List Byte) : (d.hostWrite a bs).oven = d.oven := rfl
@[simp] theorem hostWrite_eng (d : Device) (a : Nat) (bs : List Byte) : (d.hostWrite a bs).eng = d.eng := rfl
@[simp] theorem hostWrite_peel (d : Device) (a : Nat) (bs : List Byte) : (d.hostWrite a bs).peel = d.peel := rfl
@[simp] theorem hostWrite_mill (d : Device) (a : Nat) (bs : List Byte) : (d.hostWrite a bs).mill = d.mill := rfl
@[simp] theorem hostWrite_sift (d : Device) (a : Nat) (bs : List Byte) : (d.hostWrite a bs).sift = d.sift := rfl
@[simp] theorem hostWrite_pem (d : Device) (a : Nat) (bs : List Byte) : (d.hostWrite a bs).pem = d.pem := rfl
@[simp] theorem hostWrite_prf (d : Device) (a : Nat) (bs : List Byte) : (d.hostWrite a bs).prf = d.prf := rfl
@[simp] theorem hostWrite_dmp (d : Device) (a : Nat) (bs : List Byte) : (d.hostWrite a bs).dmp = d.dmp := rfl
@[simp] theorem hostWrite_hearth (d : Device) (a : Nat) (bs : List Byte) : (d.hostWrite a bs).hearth = d.hearth := rfl
@[simp] theorem hostWrite_free (d : Device) (a : Nat) (bs : List Byte) : (d.hostWrite a bs).free = d.free := rfl
@[simp] theorem hostWrite_sqr (d : Device) (a : Nat) (bs : List Byte) (j : Nat) : (d.hostWrite a bs).sqr j = d.sqr j := rfl
@[simp] theorem hostWrite_ring (d : Device) (a : Nat) (bs : List Byte) (q : RingKind) (j : Nat) : (d.hostWrite a bs).ring q j = d.ring q j := rfl
@[simp] theorem hostWrite_req (d : Device) (a : Nat) (bs : List Byte) (j : Nat) : (d.hostWrite a bs).req j = d.req j := rfl
@[simp] theorem hostWrite_ctx (d : Device) (a : Nat) (bs : List Byte) (j : Nat) : (d.hostWrite a bs).ctx j = d.ctx j := rfl
@[simp] theorem hostWrite_tenant (d : Device) (a : Nat) (bs : List Byte) (j : Nat) : (d.hostWrite a bs).tenant j = d.tenant j := rfl
@[simp] theorem hostWrite_gate (d : Device) (a : Nat) (bs : List Byte) (j : Nat) : (d.hostWrite a bs).gate j = d.gate j := rfl
@[simp] theorem hostWrite_port (d : Device) (a : Nat) (bs : List Byte) (j : Nat) : (d.hostWrite a bs).port j = d.port j := rfl
@[simp] theorem hostWrite_frame (d : Device) (a : Nat) (bs : List Byte) (y b j : Nat) : (d.hostWrite a bs).frame y b j = d.frame y b j := rfl
@[simp] theorem hostWrite_residency (d : Device) (a : Nat) (bs : List Byte) (y j : Nat) : (d.hostWrite a bs).residency y j = d.residency y j := rfl
@[simp] theorem hostWrite_recipe (d : Device) (a : Nat) (bs : List Byte) (j : Nat) : (d.hostWrite a bs).recipe j = d.recipe j := rfl
@[simp] theorem hostWrite_info (d : Device) (a : Nat) (bs : List Byte) (j : Nat) : (d.hostWrite a bs).info j = d.info j := rfl
@[simp] theorem hostWrite_serving (d : Device) (a : Nat) (bs : List Byte) (e : Env) : (d.hostWrite a bs).serving e = d.serving e := rfl
@[simp] theorem hostWrite_logicFrozen (d : Device) (a : Nat) (bs : List Byte) : (d.hostWrite a bs).logicFrozen = d.logicFrozen := rfl

/-! ## visible -/

@[simp] theorem visible_mode (d : Device) (v : List (Nat × Byte)) : (d.visible v).mode = d.mode := rfl
@[simp] theorem visible_lp (d : Device) (v : List (Nat × Byte)) : (d.visible v).lp = d.lp := rfl
@[simp] theorem visible_lpBad (d : Device) (v : List (Nat × Byte)) : (d.visible v).lpBad = d.lpBad := rfl
@[simp] theorem visible_loaf (d : Device) (v : List (Nat × Byte)) : (d.visible v).loaf = d.loaf := rfl
@[simp] theorem visible_jobMem (d : Device) (v : List (Nat × Byte)) : (d.visible v).jobMem = d.jobMem := rfl
@[simp] theorem visible_hif (d : Device) (v : List (Nat × Byte)) : (d.visible v).hif = d.hif := rfl
@[simp] theorem visible_sq (d : Device) (v : List (Nat × Byte)) : (d.visible v).sq = d.sq := rfl
@[simp] theorem visible_cq (d : Device) (v : List (Nat × Byte)) : (d.visible v).cq = d.cq := rfl
@[simp] theorem visible_ts (d : Device) (v : List (Nat × Byte)) : (d.visible v).ts = d.ts := rfl
@[simp] theorem visible_eq (d : Device) (v : List (Nat × Byte)) : (d.visible v).eq = d.eq := rfl
@[simp] theorem visible_fetched (d : Device) (v : List (Nat × Byte)) : (d.visible v).fetched = d.fetched := rfl
@[simp] theorem visible_inflight (d : Device) (v : List (Nat × Byte)) : (d.visible v).inflight = d.inflight := rfl
@[simp] theorem visible_nextSeq (d : Device) (v : List (Nat × Byte)) : (d.visible v).nextSeq = d.nextSeq := rfl
@[simp] theorem visible_resync (d : Device) (v : List (Nat × Byte)) : (d.visible v).resync = d.resync := rfl
@[simp] theorem visible_resyncDb (d : Device) (v : List (Nat × Byte)) : (d.visible v).resyncDb = d.resyncDb := rfl
@[simp] theorem visible_reqs (d : Device) (v : List (Nat × Byte)) : (d.visible v).reqs = d.reqs := rfl
@[simp] theorem visible_fresh (d : Device) (v : List (Nat × Byte)) : (d.visible v).fresh = d.fresh := rfl
@[simp] theorem visible_freed (d : Device) (v : List (Nat × Byte)) : (d.visible v).freed = d.freed := rfl
@[simp] theorem visible_ctxs (d : Device) (v : List (Nat × Byte)) : (d.visible v).ctxs = d.ctxs := rfl
@[simp] theorem visible_blocks (d : Device) (v : List (Nat × Byte)) : (d.visible v).blocks = d.blocks := rfl
@[simp] theorem visible_kn (d : Device) (v : List (Nat × Byte)) : (d.visible v).kn = d.kn := rfl
@[simp] theorem visible_recipes (d : Device) (v : List (Nat × Byte)) : (d.visible v).recipes = d.recipes := rfl
@[simp] theorem visible_adapters (d : Device) (v : List (Nat × Byte)) : (d.visible v).adapters = d.adapters := rfl
@[simp] theorem visible_grammars (d : Device) (v : List (Nat × Byte)) : (d.visible v).grammars = d.grammars := rfl
@[simp] theorem visible_frames (d : Device) (v : List (Nat × Byte)) : (d.visible v).frames = d.frames := rfl
@[simp] theorem visible_lists (d : Device) (v : List (Nat × Byte)) : (d.visible v).lists = d.lists := rfl
@[simp] theorem visible_health (d : Device) (v : List (Nat × Byte)) : (d.visible v).health = d.health := rfl
@[simp] theorem visible_oven (d : Device) (v : List (Nat × Byte)) : (d.visible v).oven = d.oven := rfl
@[simp] theorem visible_eng (d : Device) (v : List (Nat × Byte)) : (d.visible v).eng = d.eng := rfl
@[simp] theorem visible_peel (d : Device) (v : List (Nat × Byte)) : (d.visible v).peel = d.peel := rfl
@[simp] theorem visible_mill (d : Device) (v : List (Nat × Byte)) : (d.visible v).mill = d.mill := rfl
@[simp] theorem visible_sift (d : Device) (v : List (Nat × Byte)) : (d.visible v).sift = d.sift := rfl
@[simp] theorem visible_pem (d : Device) (v : List (Nat × Byte)) : (d.visible v).pem = d.pem := rfl
@[simp] theorem visible_prf (d : Device) (v : List (Nat × Byte)) : (d.visible v).prf = d.prf := rfl
@[simp] theorem visible_dmp (d : Device) (v : List (Nat × Byte)) : (d.visible v).dmp = d.dmp := rfl
@[simp] theorem visible_hearth (d : Device) (v : List (Nat × Byte)) : (d.visible v).hearth = d.hearth := rfl
@[simp] theorem visible_free (d : Device) (v : List (Nat × Byte)) : (d.visible v).free = d.free := rfl
@[simp] theorem visible_sqr (d : Device) (v : List (Nat × Byte)) (j : Nat) : (d.visible v).sqr j = d.sqr j := rfl
@[simp] theorem visible_ring (d : Device) (v : List (Nat × Byte)) (q : RingKind) (j : Nat) : (d.visible v).ring q j = d.ring q j := rfl
@[simp] theorem visible_req (d : Device) (v : List (Nat × Byte)) (j : Nat) : (d.visible v).req j = d.req j := rfl
@[simp] theorem visible_ctx (d : Device) (v : List (Nat × Byte)) (j : Nat) : (d.visible v).ctx j = d.ctx j := rfl
@[simp] theorem visible_tenant (d : Device) (v : List (Nat × Byte)) (j : Nat) : (d.visible v).tenant j = d.tenant j := rfl
@[simp] theorem visible_gate (d : Device) (v : List (Nat × Byte)) (j : Nat) : (d.visible v).gate j = d.gate j := rfl
@[simp] theorem visible_port (d : Device) (v : List (Nat × Byte)) (j : Nat) : (d.visible v).port j = d.port j := rfl
@[simp] theorem visible_frame (d : Device) (v : List (Nat × Byte)) (a b j : Nat) : (d.visible v).frame a b j = d.frame a b j := rfl
@[simp] theorem visible_residency (d : Device) (v : List (Nat × Byte)) (a j : Nat) : (d.visible v).residency a j = d.residency a j := rfl
@[simp] theorem visible_recipe (d : Device) (v : List (Nat × Byte)) (j : Nat) : (d.visible v).recipe j = d.recipe j := rfl
@[simp] theorem visible_info (d : Device) (v : List (Nat × Byte)) (j : Nat) : (d.visible v).info j = d.info j := rfl
@[simp] theorem visible_serving (d : Device) (v : List (Nat × Byte)) (e : Env) : (d.visible v).serving e = d.serving e := rfl
@[simp] theorem visible_logicFrozen (d : Device) (v : List (Nat × Byte)) : (d.visible v).logicFrozen = d.logicFrozen := rfl

/-! ## lpStore -/

@[simp] theorem lpStore_mode (d : Device) (a n v : Nat) : (d.lpStore a n v).mode = d.mode := rfl
@[simp] theorem lpStore_host (d : Device) (a n v : Nat) : (d.lpStore a n v).host = d.host := rfl
@[simp] theorem lpStore_lpBad (d : Device) (a n v : Nat) : (d.lpStore a n v).lpBad = d.lpBad := rfl
@[simp] theorem lpStore_loaf (d : Device) (a n v : Nat) : (d.lpStore a n v).loaf = d.loaf := rfl
@[simp] theorem lpStore_jobMem (d : Device) (a n v : Nat) : (d.lpStore a n v).jobMem = d.jobMem := rfl
@[simp] theorem lpStore_hif (d : Device) (a n v : Nat) : (d.lpStore a n v).hif = d.hif := rfl
@[simp] theorem lpStore_sq (d : Device) (a n v : Nat) : (d.lpStore a n v).sq = d.sq := rfl
@[simp] theorem lpStore_cq (d : Device) (a n v : Nat) : (d.lpStore a n v).cq = d.cq := rfl
@[simp] theorem lpStore_ts (d : Device) (a n v : Nat) : (d.lpStore a n v).ts = d.ts := rfl
@[simp] theorem lpStore_eq (d : Device) (a n v : Nat) : (d.lpStore a n v).eq = d.eq := rfl
@[simp] theorem lpStore_fetched (d : Device) (a n v : Nat) : (d.lpStore a n v).fetched = d.fetched := rfl
@[simp] theorem lpStore_inflight (d : Device) (a n v : Nat) : (d.lpStore a n v).inflight = d.inflight := rfl
@[simp] theorem lpStore_nextSeq (d : Device) (a n v : Nat) : (d.lpStore a n v).nextSeq = d.nextSeq := rfl
@[simp] theorem lpStore_resync (d : Device) (a n v : Nat) : (d.lpStore a n v).resync = d.resync := rfl
@[simp] theorem lpStore_resyncDb (d : Device) (a n v : Nat) : (d.lpStore a n v).resyncDb = d.resyncDb := rfl
@[simp] theorem lpStore_reqs (d : Device) (a n v : Nat) : (d.lpStore a n v).reqs = d.reqs := rfl
@[simp] theorem lpStore_fresh (d : Device) (a n v : Nat) : (d.lpStore a n v).fresh = d.fresh := rfl
@[simp] theorem lpStore_freed (d : Device) (a n v : Nat) : (d.lpStore a n v).freed = d.freed := rfl
@[simp] theorem lpStore_ctxs (d : Device) (a n v : Nat) : (d.lpStore a n v).ctxs = d.ctxs := rfl
@[simp] theorem lpStore_blocks (d : Device) (a n v : Nat) : (d.lpStore a n v).blocks = d.blocks := rfl
@[simp] theorem lpStore_kn (d : Device) (a n v : Nat) : (d.lpStore a n v).kn = d.kn := rfl
@[simp] theorem lpStore_recipes (d : Device) (a n v : Nat) : (d.lpStore a n v).recipes = d.recipes := rfl
@[simp] theorem lpStore_adapters (d : Device) (a n v : Nat) : (d.lpStore a n v).adapters = d.adapters := rfl
@[simp] theorem lpStore_grammars (d : Device) (a n v : Nat) : (d.lpStore a n v).grammars = d.grammars := rfl
@[simp] theorem lpStore_frames (d : Device) (a n v : Nat) : (d.lpStore a n v).frames = d.frames := rfl
@[simp] theorem lpStore_lists (d : Device) (a n v : Nat) : (d.lpStore a n v).lists = d.lists := rfl
@[simp] theorem lpStore_health (d : Device) (a n v : Nat) : (d.lpStore a n v).health = d.health := rfl
@[simp] theorem lpStore_oven (d : Device) (a n v : Nat) : (d.lpStore a n v).oven = d.oven := rfl
@[simp] theorem lpStore_eng (d : Device) (a n v : Nat) : (d.lpStore a n v).eng = d.eng := rfl
@[simp] theorem lpStore_peel (d : Device) (a n v : Nat) : (d.lpStore a n v).peel = d.peel := rfl
@[simp] theorem lpStore_mill (d : Device) (a n v : Nat) : (d.lpStore a n v).mill = d.mill := rfl
@[simp] theorem lpStore_sift (d : Device) (a n v : Nat) : (d.lpStore a n v).sift = d.sift := rfl
@[simp] theorem lpStore_pem (d : Device) (a n v : Nat) : (d.lpStore a n v).pem = d.pem := rfl
@[simp] theorem lpStore_prf (d : Device) (a n v : Nat) : (d.lpStore a n v).prf = d.prf := rfl
@[simp] theorem lpStore_dmp (d : Device) (a n v : Nat) : (d.lpStore a n v).dmp = d.dmp := rfl
@[simp] theorem lpStore_hearth (d : Device) (a n v : Nat) : (d.lpStore a n v).hearth = d.hearth := rfl
@[simp] theorem lpStore_free (d : Device) (a n v : Nat) : (d.lpStore a n v).free = d.free := rfl
@[simp] theorem lpStore_sqr (d : Device) (a n v : Nat) (j : Nat) : (d.lpStore a n v).sqr j = d.sqr j := rfl
@[simp] theorem lpStore_ring (d : Device) (a n v : Nat) (q : RingKind) (j : Nat) : (d.lpStore a n v).ring q j = d.ring q j := rfl
@[simp] theorem lpStore_req (d : Device) (a n v : Nat) (j : Nat) : (d.lpStore a n v).req j = d.req j := rfl
@[simp] theorem lpStore_ctx (d : Device) (a n v : Nat) (j : Nat) : (d.lpStore a n v).ctx j = d.ctx j := rfl
@[simp] theorem lpStore_tenant (d : Device) (a n v : Nat) (j : Nat) : (d.lpStore a n v).tenant j = d.tenant j := rfl
@[simp] theorem lpStore_gate (d : Device) (a n v : Nat) (j : Nat) : (d.lpStore a n v).gate j = d.gate j := rfl
@[simp] theorem lpStore_port (d : Device) (a n v : Nat) (j : Nat) : (d.lpStore a n v).port j = d.port j := rfl
@[simp] theorem lpStore_frame (d : Device) (a n v : Nat) (y b j : Nat) : (d.lpStore a n v).frame y b j = d.frame y b j := rfl
@[simp] theorem lpStore_residency (d : Device) (a n v : Nat) (y j : Nat) : (d.lpStore a n v).residency y j = d.residency y j := rfl
@[simp] theorem lpStore_recipe (d : Device) (a n v : Nat) (j : Nat) : (d.lpStore a n v).recipe j = d.recipe j := rfl
@[simp] theorem lpStore_info (d : Device) (a n v : Nat) (j : Nat) : (d.lpStore a n v).info j = d.info j := rfl
@[simp] theorem lpStore_serving (d : Device) (a n v : Nat) (e : Env) : (d.lpStore a n v).serving e = d.serving e := rfl
@[simp] theorem lpStore_logicFrozen (d : Device) (a n v : Nat) : (d.lpStore a n v).logicFrozen = d.logicFrozen := rfl

/-! ## lpWrites -/

@[simp] theorem lpWrites_mode (d : Device) (a : Nat) (bs : List Byte) : (d.lpWrites a bs).mode = d.mode := rfl
@[simp] theorem lpWrites_host (d : Device) (a : Nat) (bs : List Byte) : (d.lpWrites a bs).host = d.host := rfl
@[simp] theorem lpWrites_lpBad (d : Device) (a : Nat) (bs : List Byte) :
    (d.lpWrites a bs).lpBad = d.lpBad.filter (fun u => u * 32 < a || a + bs.length < u * 32 + 32) := rfl
@[simp] theorem lpWrites_loaf (d : Device) (a : Nat) (bs : List Byte) : (d.lpWrites a bs).loaf = d.loaf := rfl
@[simp] theorem lpWrites_jobMem (d : Device) (a : Nat) (bs : List Byte) : (d.lpWrites a bs).jobMem = d.jobMem := rfl
@[simp] theorem lpWrites_hif (d : Device) (a : Nat) (bs : List Byte) : (d.lpWrites a bs).hif = d.hif := rfl
@[simp] theorem lpWrites_sq (d : Device) (a : Nat) (bs : List Byte) : (d.lpWrites a bs).sq = d.sq := rfl
@[simp] theorem lpWrites_cq (d : Device) (a : Nat) (bs : List Byte) : (d.lpWrites a bs).cq = d.cq := rfl
@[simp] theorem lpWrites_ts (d : Device) (a : Nat) (bs : List Byte) : (d.lpWrites a bs).ts = d.ts := rfl
@[simp] theorem lpWrites_eq (d : Device) (a : Nat) (bs : List Byte) : (d.lpWrites a bs).eq = d.eq := rfl
@[simp] theorem lpWrites_fetched (d : Device) (a : Nat) (bs : List Byte) : (d.lpWrites a bs).fetched = d.fetched := rfl
@[simp] theorem lpWrites_inflight (d : Device) (a : Nat) (bs : List Byte) : (d.lpWrites a bs).inflight = d.inflight := rfl
@[simp] theorem lpWrites_nextSeq (d : Device) (a : Nat) (bs : List Byte) : (d.lpWrites a bs).nextSeq = d.nextSeq := rfl
@[simp] theorem lpWrites_resync (d : Device) (a : Nat) (bs : List Byte) : (d.lpWrites a bs).resync = d.resync := rfl
@[simp] theorem lpWrites_resyncDb (d : Device) (a : Nat) (bs : List Byte) : (d.lpWrites a bs).resyncDb = d.resyncDb := rfl
@[simp] theorem lpWrites_reqs (d : Device) (a : Nat) (bs : List Byte) : (d.lpWrites a bs).reqs = d.reqs := rfl
@[simp] theorem lpWrites_fresh (d : Device) (a : Nat) (bs : List Byte) : (d.lpWrites a bs).fresh = d.fresh := rfl
@[simp] theorem lpWrites_freed (d : Device) (a : Nat) (bs : List Byte) : (d.lpWrites a bs).freed = d.freed := rfl
@[simp] theorem lpWrites_ctxs (d : Device) (a : Nat) (bs : List Byte) : (d.lpWrites a bs).ctxs = d.ctxs := rfl
@[simp] theorem lpWrites_blocks (d : Device) (a : Nat) (bs : List Byte) : (d.lpWrites a bs).blocks = d.blocks := rfl
@[simp] theorem lpWrites_kn (d : Device) (a : Nat) (bs : List Byte) : (d.lpWrites a bs).kn = d.kn := rfl
@[simp] theorem lpWrites_recipes (d : Device) (a : Nat) (bs : List Byte) : (d.lpWrites a bs).recipes = d.recipes := rfl
@[simp] theorem lpWrites_adapters (d : Device) (a : Nat) (bs : List Byte) : (d.lpWrites a bs).adapters = d.adapters := rfl
@[simp] theorem lpWrites_grammars (d : Device) (a : Nat) (bs : List Byte) : (d.lpWrites a bs).grammars = d.grammars := rfl
@[simp] theorem lpWrites_frames (d : Device) (a : Nat) (bs : List Byte) : (d.lpWrites a bs).frames = d.frames := rfl
@[simp] theorem lpWrites_lists (d : Device) (a : Nat) (bs : List Byte) : (d.lpWrites a bs).lists = d.lists := rfl
@[simp] theorem lpWrites_health (d : Device) (a : Nat) (bs : List Byte) : (d.lpWrites a bs).health = d.health := rfl
@[simp] theorem lpWrites_oven (d : Device) (a : Nat) (bs : List Byte) : (d.lpWrites a bs).oven = d.oven := rfl
@[simp] theorem lpWrites_eng (d : Device) (a : Nat) (bs : List Byte) : (d.lpWrites a bs).eng = d.eng := rfl
@[simp] theorem lpWrites_peel (d : Device) (a : Nat) (bs : List Byte) : (d.lpWrites a bs).peel = d.peel := rfl
@[simp] theorem lpWrites_mill (d : Device) (a : Nat) (bs : List Byte) : (d.lpWrites a bs).mill = d.mill := rfl
@[simp] theorem lpWrites_sift (d : Device) (a : Nat) (bs : List Byte) : (d.lpWrites a bs).sift = d.sift := rfl
@[simp] theorem lpWrites_pem (d : Device) (a : Nat) (bs : List Byte) : (d.lpWrites a bs).pem = d.pem := rfl
@[simp] theorem lpWrites_prf (d : Device) (a : Nat) (bs : List Byte) : (d.lpWrites a bs).prf = d.prf := rfl
@[simp] theorem lpWrites_dmp (d : Device) (a : Nat) (bs : List Byte) : (d.lpWrites a bs).dmp = d.dmp := rfl
@[simp] theorem lpWrites_hearth (d : Device) (a : Nat) (bs : List Byte) : (d.lpWrites a bs).hearth = d.hearth := rfl
@[simp] theorem lpWrites_free (d : Device) (a : Nat) (bs : List Byte) : (d.lpWrites a bs).free = d.free := rfl
@[simp] theorem lpWrites_sqr (d : Device) (a : Nat) (bs : List Byte) (j : Nat) : (d.lpWrites a bs).sqr j = d.sqr j := rfl
@[simp] theorem lpWrites_ring (d : Device) (a : Nat) (bs : List Byte) (q : RingKind) (j : Nat) : (d.lpWrites a bs).ring q j = d.ring q j := rfl
@[simp] theorem lpWrites_req (d : Device) (a : Nat) (bs : List Byte) (j : Nat) : (d.lpWrites a bs).req j = d.req j := rfl
@[simp] theorem lpWrites_ctx (d : Device) (a : Nat) (bs : List Byte) (j : Nat) : (d.lpWrites a bs).ctx j = d.ctx j := rfl
@[simp] theorem lpWrites_tenant (d : Device) (a : Nat) (bs : List Byte) (j : Nat) : (d.lpWrites a bs).tenant j = d.tenant j := rfl
@[simp] theorem lpWrites_gate (d : Device) (a : Nat) (bs : List Byte) (j : Nat) : (d.lpWrites a bs).gate j = d.gate j := rfl
@[simp] theorem lpWrites_port (d : Device) (a : Nat) (bs : List Byte) (j : Nat) : (d.lpWrites a bs).port j = d.port j := rfl
@[simp] theorem lpWrites_frame (d : Device) (a : Nat) (bs : List Byte) (y b j : Nat) : (d.lpWrites a bs).frame y b j = d.frame y b j := rfl
@[simp] theorem lpWrites_residency (d : Device) (a : Nat) (bs : List Byte) (y j : Nat) : (d.lpWrites a bs).residency y j = d.residency y j := rfl
@[simp] theorem lpWrites_recipe (d : Device) (a : Nat) (bs : List Byte) (j : Nat) : (d.lpWrites a bs).recipe j = d.recipe j := rfl
@[simp] theorem lpWrites_info (d : Device) (a : Nat) (bs : List Byte) (j : Nat) : (d.lpWrites a bs).info j = d.info j := rfl
@[simp] theorem lpWrites_serving (d : Device) (a : Nat) (bs : List Byte) (e : Env) : (d.lpWrites a bs).serving e = d.serving e := rfl
@[simp] theorem lpWrites_logicFrozen (d : Device) (a : Nat) (bs : List Byte) : (d.lpWrites a bs).logicFrozen = d.logicFrozen := rfl

/-! ## setGate -/

@[simp] theorem setGate_mode (d : Device) (p : Nat) (g : Gate) : (d.setGate p g).mode = d.mode := rfl
@[simp] theorem setGate_host (d : Device) (p : Nat) (g : Gate) : (d.setGate p g).host = d.host := rfl
@[simp] theorem setGate_lp (d : Device) (p : Nat) (g : Gate) : (d.setGate p g).lp = d.lp := rfl
@[simp] theorem setGate_lpBad (d : Device) (p : Nat) (g : Gate) : (d.setGate p g).lpBad = d.lpBad := rfl
@[simp] theorem setGate_loaf (d : Device) (p : Nat) (g : Gate) : (d.setGate p g).loaf = d.loaf := rfl
@[simp] theorem setGate_jobMem (d : Device) (p : Nat) (g : Gate) : (d.setGate p g).jobMem = d.jobMem := rfl
@[simp] theorem setGate_hif (d : Device) (p : Nat) (g : Gate) : (d.setGate p g).hif = d.hif := rfl
@[simp] theorem setGate_sq (d : Device) (p : Nat) (g : Gate) : (d.setGate p g).sq = d.sq := rfl
@[simp] theorem setGate_cq (d : Device) (p : Nat) (g : Gate) : (d.setGate p g).cq = d.cq := rfl
@[simp] theorem setGate_ts (d : Device) (p : Nat) (g : Gate) : (d.setGate p g).ts = d.ts := rfl
@[simp] theorem setGate_eq (d : Device) (p : Nat) (g : Gate) : (d.setGate p g).eq = d.eq := rfl
@[simp] theorem setGate_fetched (d : Device) (p : Nat) (g : Gate) : (d.setGate p g).fetched = d.fetched := rfl
@[simp] theorem setGate_inflight (d : Device) (p : Nat) (g : Gate) : (d.setGate p g).inflight = d.inflight := rfl
@[simp] theorem setGate_nextSeq (d : Device) (p : Nat) (g : Gate) : (d.setGate p g).nextSeq = d.nextSeq := rfl
@[simp] theorem setGate_resync (d : Device) (p : Nat) (g : Gate) : (d.setGate p g).resync = d.resync := rfl
@[simp] theorem setGate_resyncDb (d : Device) (p : Nat) (g : Gate) : (d.setGate p g).resyncDb = d.resyncDb := rfl
@[simp] theorem setGate_reqs (d : Device) (p : Nat) (g : Gate) : (d.setGate p g).reqs = d.reqs := rfl
@[simp] theorem setGate_fresh (d : Device) (p : Nat) (g : Gate) : (d.setGate p g).fresh = d.fresh := rfl
@[simp] theorem setGate_freed (d : Device) (p : Nat) (g : Gate) : (d.setGate p g).freed = d.freed := rfl
@[simp] theorem setGate_ctxs (d : Device) (p : Nat) (g : Gate) : (d.setGate p g).ctxs = d.ctxs := rfl
@[simp] theorem setGate_blocks (d : Device) (p : Nat) (g : Gate) : (d.setGate p g).blocks = d.blocks := rfl
@[simp] theorem setGate_kn (d : Device) (p : Nat) (g : Gate) : (d.setGate p g).kn = d.kn := rfl
@[simp] theorem setGate_recipes (d : Device) (p : Nat) (g : Gate) : (d.setGate p g).recipes = d.recipes := rfl
@[simp] theorem setGate_adapters (d : Device) (p : Nat) (g : Gate) : (d.setGate p g).adapters = d.adapters := rfl
@[simp] theorem setGate_grammars (d : Device) (p : Nat) (g : Gate) : (d.setGate p g).grammars = d.grammars := rfl
@[simp] theorem setGate_frames (d : Device) (p : Nat) (g : Gate) : (d.setGate p g).frames = d.frames := rfl
@[simp] theorem setGate_lists (d : Device) (p : Nat) (g : Gate) : (d.setGate p g).lists = d.lists := rfl
@[simp] theorem setGate_health (d : Device) (p : Nat) (g : Gate) : (d.setGate p g).health = d.health := rfl
@[simp] theorem setGate_oven (d : Device) (p : Nat) (g : Gate) : (d.setGate p g).oven = d.oven := rfl
@[simp] theorem setGate_eng (d : Device) (p : Nat) (g : Gate) : (d.setGate p g).eng = d.eng := rfl
@[simp] theorem setGate_peel (d : Device) (p : Nat) (g : Gate) : (d.setGate p g).peel = d.peel := rfl
@[simp] theorem setGate_mill (d : Device) (p : Nat) (g : Gate) : (d.setGate p g).mill = d.mill := rfl
@[simp] theorem setGate_sift (d : Device) (p : Nat) (g : Gate) : (d.setGate p g).sift = d.sift := rfl
@[simp] theorem setGate_pem (d : Device) (p : Nat) (g : Gate) : (d.setGate p g).pem = d.pem := rfl
@[simp] theorem setGate_dmp (d : Device) (p : Nat) (g : Gate) : (d.setGate p g).dmp = d.dmp := rfl
@[simp] theorem setGate_hearth (d : Device) (p : Nat) (g : Gate) : (d.setGate p g).hearth = d.hearth := rfl
@[simp] theorem setGate_free (d : Device) (p : Nat) (g : Gate) : (d.setGate p g).free = d.free := rfl
@[simp] theorem setGate_sqr (d : Device) (p : Nat) (g : Gate) (j : Nat) : (d.setGate p g).sqr j = d.sqr j := rfl
@[simp] theorem setGate_ring (d : Device) (p : Nat) (g : Gate) (q : RingKind) (j : Nat) : (d.setGate p g).ring q j = d.ring q j := rfl
@[simp] theorem setGate_req (d : Device) (p : Nat) (g : Gate) (j : Nat) : (d.setGate p g).req j = d.req j := rfl
@[simp] theorem setGate_ctx (d : Device) (p : Nat) (g : Gate) (j : Nat) : (d.setGate p g).ctx j = d.ctx j := rfl
@[simp] theorem setGate_tenant (d : Device) (p : Nat) (g : Gate) (j : Nat) : (d.setGate p g).tenant j = d.tenant j := rfl
@[simp] theorem setGate_port (d : Device) (p : Nat) (g : Gate) (j : Nat) : (d.setGate p g).port j = d.port j := rfl
@[simp] theorem setGate_frame (d : Device) (p : Nat) (g : Gate) (a b j : Nat) : (d.setGate p g).frame a b j = d.frame a b j := rfl
@[simp] theorem setGate_residency (d : Device) (p : Nat) (g : Gate) (a j : Nat) : (d.setGate p g).residency a j = d.residency a j := rfl
@[simp] theorem setGate_recipe (d : Device) (p : Nat) (g : Gate) (j : Nat) : (d.setGate p g).recipe j = d.recipe j := rfl
@[simp] theorem setGate_info (d : Device) (p : Nat) (g : Gate) (j : Nat) : (d.setGate p g).info j = d.info j := rfl
@[simp] theorem setGate_serving (d : Device) (p : Nat) (g : Gate) (e : Env) : (d.setGate p g).serving e = d.serving e := rfl
@[simp] theorem setGate_logicFrozen (d : Device) (p : Nat) (g : Gate) : (d.setGate p g).logicFrozen = d.logicFrozen := rfl

/-! ## setPort -/

@[simp] theorem setPort_mode (d : Device) (p : Nat) (x : Port) : (d.setPort p x).mode = d.mode := rfl
@[simp] theorem setPort_host (d : Device) (p : Nat) (x : Port) : (d.setPort p x).host = d.host := rfl
@[simp] theorem setPort_lp (d : Device) (p : Nat) (x : Port) : (d.setPort p x).lp = d.lp := rfl
@[simp] theorem setPort_lpBad (d : Device) (p : Nat) (x : Port) : (d.setPort p x).lpBad = d.lpBad := rfl
@[simp] theorem setPort_loaf (d : Device) (p : Nat) (x : Port) : (d.setPort p x).loaf = d.loaf := rfl
@[simp] theorem setPort_jobMem (d : Device) (p : Nat) (x : Port) : (d.setPort p x).jobMem = d.jobMem := rfl
@[simp] theorem setPort_hif (d : Device) (p : Nat) (x : Port) : (d.setPort p x).hif = d.hif := rfl
@[simp] theorem setPort_sq (d : Device) (p : Nat) (x : Port) : (d.setPort p x).sq = d.sq := rfl
@[simp] theorem setPort_cq (d : Device) (p : Nat) (x : Port) : (d.setPort p x).cq = d.cq := rfl
@[simp] theorem setPort_ts (d : Device) (p : Nat) (x : Port) : (d.setPort p x).ts = d.ts := rfl
@[simp] theorem setPort_eq (d : Device) (p : Nat) (x : Port) : (d.setPort p x).eq = d.eq := rfl
@[simp] theorem setPort_fetched (d : Device) (p : Nat) (x : Port) : (d.setPort p x).fetched = d.fetched := rfl
@[simp] theorem setPort_inflight (d : Device) (p : Nat) (x : Port) : (d.setPort p x).inflight = d.inflight := rfl
@[simp] theorem setPort_nextSeq (d : Device) (p : Nat) (x : Port) : (d.setPort p x).nextSeq = d.nextSeq := rfl
@[simp] theorem setPort_resync (d : Device) (p : Nat) (x : Port) : (d.setPort p x).resync = d.resync := rfl
@[simp] theorem setPort_resyncDb (d : Device) (p : Nat) (x : Port) : (d.setPort p x).resyncDb = d.resyncDb := rfl
@[simp] theorem setPort_reqs (d : Device) (p : Nat) (x : Port) : (d.setPort p x).reqs = d.reqs := rfl
@[simp] theorem setPort_fresh (d : Device) (p : Nat) (x : Port) : (d.setPort p x).fresh = d.fresh := rfl
@[simp] theorem setPort_freed (d : Device) (p : Nat) (x : Port) : (d.setPort p x).freed = d.freed := rfl
@[simp] theorem setPort_ctxs (d : Device) (p : Nat) (x : Port) : (d.setPort p x).ctxs = d.ctxs := rfl
@[simp] theorem setPort_blocks (d : Device) (p : Nat) (x : Port) : (d.setPort p x).blocks = d.blocks := rfl
@[simp] theorem setPort_kn (d : Device) (p : Nat) (x : Port) : (d.setPort p x).kn = d.kn := rfl
@[simp] theorem setPort_recipes (d : Device) (p : Nat) (x : Port) : (d.setPort p x).recipes = d.recipes := rfl
@[simp] theorem setPort_adapters (d : Device) (p : Nat) (x : Port) : (d.setPort p x).adapters = d.adapters := rfl
@[simp] theorem setPort_grammars (d : Device) (p : Nat) (x : Port) : (d.setPort p x).grammars = d.grammars := rfl
@[simp] theorem setPort_frames (d : Device) (p : Nat) (x : Port) : (d.setPort p x).frames = d.frames := rfl
@[simp] theorem setPort_lists (d : Device) (p : Nat) (x : Port) : (d.setPort p x).lists = d.lists := rfl
@[simp] theorem setPort_health (d : Device) (p : Nat) (x : Port) : (d.setPort p x).health = d.health := rfl
@[simp] theorem setPort_oven (d : Device) (p : Nat) (x : Port) : (d.setPort p x).oven = d.oven := rfl
@[simp] theorem setPort_eng (d : Device) (p : Nat) (x : Port) : (d.setPort p x).eng = d.eng := rfl
@[simp] theorem setPort_peel (d : Device) (p : Nat) (x : Port) : (d.setPort p x).peel = d.peel := rfl
@[simp] theorem setPort_mill (d : Device) (p : Nat) (x : Port) : (d.setPort p x).mill = d.mill := rfl
@[simp] theorem setPort_sift (d : Device) (p : Nat) (x : Port) : (d.setPort p x).sift = d.sift := rfl
@[simp] theorem setPort_prf (d : Device) (p : Nat) (x : Port) : (d.setPort p x).prf = d.prf := rfl
@[simp] theorem setPort_dmp (d : Device) (p : Nat) (x : Port) : (d.setPort p x).dmp = d.dmp := rfl
@[simp] theorem setPort_hearth (d : Device) (p : Nat) (x : Port) : (d.setPort p x).hearth = d.hearth := rfl
@[simp] theorem setPort_free (d : Device) (p : Nat) (x : Port) : (d.setPort p x).free = d.free := rfl
@[simp] theorem setPort_sqr (d : Device) (p : Nat) (x : Port) (j : Nat) : (d.setPort p x).sqr j = d.sqr j := rfl
@[simp] theorem setPort_ring (d : Device) (p : Nat) (x : Port) (q : RingKind) (j : Nat) : (d.setPort p x).ring q j = d.ring q j := rfl
@[simp] theorem setPort_req (d : Device) (p : Nat) (x : Port) (j : Nat) : (d.setPort p x).req j = d.req j := rfl
@[simp] theorem setPort_ctx (d : Device) (p : Nat) (x : Port) (j : Nat) : (d.setPort p x).ctx j = d.ctx j := rfl
@[simp] theorem setPort_tenant (d : Device) (p : Nat) (x : Port) (j : Nat) : (d.setPort p x).tenant j = d.tenant j := rfl
@[simp] theorem setPort_gate (d : Device) (p : Nat) (x : Port) (j : Nat) : (d.setPort p x).gate j = d.gate j := rfl
@[simp] theorem setPort_frame (d : Device) (p : Nat) (x : Port) (a b j : Nat) : (d.setPort p x).frame a b j = d.frame a b j := rfl
@[simp] theorem setPort_residency (d : Device) (p : Nat) (x : Port) (a j : Nat) : (d.setPort p x).residency a j = d.residency a j := rfl
@[simp] theorem setPort_recipe (d : Device) (p : Nat) (x : Port) (j : Nat) : (d.setPort p x).recipe j = d.recipe j := rfl
@[simp] theorem setPort_info (d : Device) (p : Nat) (x : Port) (j : Nat) : (d.setPort p x).info j = d.info j := rfl
@[simp] theorem setPort_serving (d : Device) (p : Nat) (x : Port) (e : Env) : (d.setPort p x).serving e = d.serving e := rfl
@[simp] theorem setPort_logicFrozen (d : Device) (p : Nat) (x : Port) : (d.setPort p x).logicFrozen = d.logicFrozen := rfl

/-! ## setFrame -/

@[simp] theorem setFrame_mode (d : Device) (r p n : Nat) (f : Frame) : (d.setFrame r p n f).mode = d.mode := rfl
@[simp] theorem setFrame_host (d : Device) (r p n : Nat) (f : Frame) : (d.setFrame r p n f).host = d.host := rfl
@[simp] theorem setFrame_lp (d : Device) (r p n : Nat) (f : Frame) : (d.setFrame r p n f).lp = d.lp := rfl
@[simp] theorem setFrame_lpBad (d : Device) (r p n : Nat) (f : Frame) : (d.setFrame r p n f).lpBad = d.lpBad := rfl
@[simp] theorem setFrame_loaf (d : Device) (r p n : Nat) (f : Frame) : (d.setFrame r p n f).loaf = d.loaf := rfl
@[simp] theorem setFrame_jobMem (d : Device) (r p n : Nat) (f : Frame) : (d.setFrame r p n f).jobMem = d.jobMem := rfl
@[simp] theorem setFrame_hif (d : Device) (r p n : Nat) (f : Frame) : (d.setFrame r p n f).hif = d.hif := rfl
@[simp] theorem setFrame_sq (d : Device) (r p n : Nat) (f : Frame) : (d.setFrame r p n f).sq = d.sq := rfl
@[simp] theorem setFrame_cq (d : Device) (r p n : Nat) (f : Frame) : (d.setFrame r p n f).cq = d.cq := rfl
@[simp] theorem setFrame_ts (d : Device) (r p n : Nat) (f : Frame) : (d.setFrame r p n f).ts = d.ts := rfl
@[simp] theorem setFrame_eq (d : Device) (r p n : Nat) (f : Frame) : (d.setFrame r p n f).eq = d.eq := rfl
@[simp] theorem setFrame_fetched (d : Device) (r p n : Nat) (f : Frame) : (d.setFrame r p n f).fetched = d.fetched := rfl
@[simp] theorem setFrame_inflight (d : Device) (r p n : Nat) (f : Frame) : (d.setFrame r p n f).inflight = d.inflight := rfl
@[simp] theorem setFrame_nextSeq (d : Device) (r p n : Nat) (f : Frame) : (d.setFrame r p n f).nextSeq = d.nextSeq := rfl
@[simp] theorem setFrame_resync (d : Device) (r p n : Nat) (f : Frame) : (d.setFrame r p n f).resync = d.resync := rfl
@[simp] theorem setFrame_resyncDb (d : Device) (r p n : Nat) (f : Frame) : (d.setFrame r p n f).resyncDb = d.resyncDb := rfl
@[simp] theorem setFrame_reqs (d : Device) (r p n : Nat) (f : Frame) : (d.setFrame r p n f).reqs = d.reqs := rfl
@[simp] theorem setFrame_fresh (d : Device) (r p n : Nat) (f : Frame) : (d.setFrame r p n f).fresh = d.fresh := rfl
@[simp] theorem setFrame_freed (d : Device) (r p n : Nat) (f : Frame) : (d.setFrame r p n f).freed = d.freed := rfl
@[simp] theorem setFrame_ctxs (d : Device) (r p n : Nat) (f : Frame) : (d.setFrame r p n f).ctxs = d.ctxs := rfl
@[simp] theorem setFrame_blocks (d : Device) (r p n : Nat) (f : Frame) : (d.setFrame r p n f).blocks = d.blocks := rfl
@[simp] theorem setFrame_kn (d : Device) (r p n : Nat) (f : Frame) : (d.setFrame r p n f).kn = d.kn := rfl
@[simp] theorem setFrame_recipes (d : Device) (r p n : Nat) (f : Frame) : (d.setFrame r p n f).recipes = d.recipes := rfl
@[simp] theorem setFrame_adapters (d : Device) (r p n : Nat) (f : Frame) : (d.setFrame r p n f).adapters = d.adapters := rfl
@[simp] theorem setFrame_grammars (d : Device) (r p n : Nat) (f : Frame) : (d.setFrame r p n f).grammars = d.grammars := rfl
@[simp] theorem setFrame_lists (d : Device) (r p n : Nat) (f : Frame) : (d.setFrame r p n f).lists = d.lists := rfl
@[simp] theorem setFrame_health (d : Device) (r p n : Nat) (f : Frame) : (d.setFrame r p n f).health = d.health := rfl
@[simp] theorem setFrame_oven (d : Device) (r p n : Nat) (f : Frame) : (d.setFrame r p n f).oven = d.oven := rfl
@[simp] theorem setFrame_eng (d : Device) (r p n : Nat) (f : Frame) : (d.setFrame r p n f).eng = d.eng := rfl
@[simp] theorem setFrame_peel (d : Device) (r p n : Nat) (f : Frame) : (d.setFrame r p n f).peel = d.peel := rfl
@[simp] theorem setFrame_mill (d : Device) (r p n : Nat) (f : Frame) : (d.setFrame r p n f).mill = d.mill := rfl
@[simp] theorem setFrame_sift (d : Device) (r p n : Nat) (f : Frame) : (d.setFrame r p n f).sift = d.sift := rfl
@[simp] theorem setFrame_pem (d : Device) (r p n : Nat) (f : Frame) : (d.setFrame r p n f).pem = d.pem := rfl
@[simp] theorem setFrame_prf (d : Device) (r p n : Nat) (f : Frame) : (d.setFrame r p n f).prf = d.prf := rfl
@[simp] theorem setFrame_dmp (d : Device) (r p n : Nat) (f : Frame) : (d.setFrame r p n f).dmp = d.dmp := rfl
@[simp] theorem setFrame_hearth (d : Device) (r p n : Nat) (f : Frame) : (d.setFrame r p n f).hearth = d.hearth := rfl
@[simp] theorem setFrame_free (d : Device) (r p n : Nat) (f : Frame) : (d.setFrame r p n f).free = d.free := rfl
@[simp] theorem setFrame_sqr (d : Device) (r p n : Nat) (f : Frame) (j : Nat) : (d.setFrame r p n f).sqr j = d.sqr j := rfl
@[simp] theorem setFrame_ring (d : Device) (r p n : Nat) (f : Frame) (q : RingKind) (j : Nat) : (d.setFrame r p n f).ring q j = d.ring q j := rfl
@[simp] theorem setFrame_req (d : Device) (r p n : Nat) (f : Frame) (j : Nat) : (d.setFrame r p n f).req j = d.req j := rfl
@[simp] theorem setFrame_ctx (d : Device) (r p n : Nat) (f : Frame) (j : Nat) : (d.setFrame r p n f).ctx j = d.ctx j := rfl
@[simp] theorem setFrame_tenant (d : Device) (r p n : Nat) (f : Frame) (j : Nat) : (d.setFrame r p n f).tenant j = d.tenant j := rfl
@[simp] theorem setFrame_gate (d : Device) (r p n : Nat) (f : Frame) (j : Nat) : (d.setFrame r p n f).gate j = d.gate j := rfl
@[simp] theorem setFrame_port (d : Device) (r p n : Nat) (f : Frame) (j : Nat) : (d.setFrame r p n f).port j = d.port j := rfl
@[simp] theorem setFrame_residency (d : Device) (r p n : Nat) (f : Frame) (a j : Nat) : (d.setFrame r p n f).residency a j = d.residency a j := rfl
@[simp] theorem setFrame_recipe (d : Device) (r p n : Nat) (f : Frame) (j : Nat) : (d.setFrame r p n f).recipe j = d.recipe j := rfl
@[simp] theorem setFrame_info (d : Device) (r p n : Nat) (f : Frame) (j : Nat) : (d.setFrame r p n f).info j = d.info j := rfl
@[simp] theorem setFrame_serving (d : Device) (r p n : Nat) (f : Frame) (e : Env) : (d.setFrame r p n f).serving e = d.serving e := rfl
@[simp] theorem setFrame_logicFrozen (d : Device) (r p n : Nat) (f : Frame) : (d.setFrame r p n f).logicFrozen = d.logicFrozen := rfl

/-! ## setResidency -/

@[simp] theorem setResidency_mode (d : Device) (r i : Nat) (x : Residency) : (d.setResidency r i x).mode = d.mode := rfl
@[simp] theorem setResidency_host (d : Device) (r i : Nat) (x : Residency) : (d.setResidency r i x).host = d.host := rfl
@[simp] theorem setResidency_lp (d : Device) (r i : Nat) (x : Residency) : (d.setResidency r i x).lp = d.lp := rfl
@[simp] theorem setResidency_lpBad (d : Device) (r i : Nat) (x : Residency) : (d.setResidency r i x).lpBad = d.lpBad := rfl
@[simp] theorem setResidency_loaf (d : Device) (r i : Nat) (x : Residency) : (d.setResidency r i x).loaf = d.loaf := rfl
@[simp] theorem setResidency_jobMem (d : Device) (r i : Nat) (x : Residency) : (d.setResidency r i x).jobMem = d.jobMem := rfl
@[simp] theorem setResidency_hif (d : Device) (r i : Nat) (x : Residency) : (d.setResidency r i x).hif = d.hif := rfl
@[simp] theorem setResidency_sq (d : Device) (r i : Nat) (x : Residency) : (d.setResidency r i x).sq = d.sq := rfl
@[simp] theorem setResidency_cq (d : Device) (r i : Nat) (x : Residency) : (d.setResidency r i x).cq = d.cq := rfl
@[simp] theorem setResidency_ts (d : Device) (r i : Nat) (x : Residency) : (d.setResidency r i x).ts = d.ts := rfl
@[simp] theorem setResidency_eq (d : Device) (r i : Nat) (x : Residency) : (d.setResidency r i x).eq = d.eq := rfl
@[simp] theorem setResidency_fetched (d : Device) (r i : Nat) (x : Residency) : (d.setResidency r i x).fetched = d.fetched := rfl
@[simp] theorem setResidency_inflight (d : Device) (r i : Nat) (x : Residency) : (d.setResidency r i x).inflight = d.inflight := rfl
@[simp] theorem setResidency_nextSeq (d : Device) (r i : Nat) (x : Residency) : (d.setResidency r i x).nextSeq = d.nextSeq := rfl
@[simp] theorem setResidency_resync (d : Device) (r i : Nat) (x : Residency) : (d.setResidency r i x).resync = d.resync := rfl
@[simp] theorem setResidency_resyncDb (d : Device) (r i : Nat) (x : Residency) : (d.setResidency r i x).resyncDb = d.resyncDb := rfl
@[simp] theorem setResidency_reqs (d : Device) (r i : Nat) (x : Residency) : (d.setResidency r i x).reqs = d.reqs := rfl
@[simp] theorem setResidency_fresh (d : Device) (r i : Nat) (x : Residency) : (d.setResidency r i x).fresh = d.fresh := rfl
@[simp] theorem setResidency_freed (d : Device) (r i : Nat) (x : Residency) : (d.setResidency r i x).freed = d.freed := rfl
@[simp] theorem setResidency_ctxs (d : Device) (r i : Nat) (x : Residency) : (d.setResidency r i x).ctxs = d.ctxs := rfl
@[simp] theorem setResidency_blocks (d : Device) (r i : Nat) (x : Residency) : (d.setResidency r i x).blocks = d.blocks := rfl
@[simp] theorem setResidency_kn (d : Device) (r i : Nat) (x : Residency) : (d.setResidency r i x).kn = d.kn := rfl
@[simp] theorem setResidency_recipes (d : Device) (r i : Nat) (x : Residency) : (d.setResidency r i x).recipes = d.recipes := rfl
@[simp] theorem setResidency_adapters (d : Device) (r i : Nat) (x : Residency) : (d.setResidency r i x).adapters = d.adapters := rfl
@[simp] theorem setResidency_grammars (d : Device) (r i : Nat) (x : Residency) : (d.setResidency r i x).grammars = d.grammars := rfl
@[simp] theorem setResidency_frames (d : Device) (r i : Nat) (x : Residency) : (d.setResidency r i x).frames = d.frames := rfl
@[simp] theorem setResidency_lists (d : Device) (r i : Nat) (x : Residency) : (d.setResidency r i x).lists = d.lists := rfl
@[simp] theorem setResidency_health (d : Device) (r i : Nat) (x : Residency) : (d.setResidency r i x).health = d.health := rfl
@[simp] theorem setResidency_oven (d : Device) (r i : Nat) (x : Residency) : (d.setResidency r i x).oven = d.oven := rfl
@[simp] theorem setResidency_eng (d : Device) (r i : Nat) (x : Residency) : (d.setResidency r i x).eng = d.eng := rfl
@[simp] theorem setResidency_mill (d : Device) (r i : Nat) (x : Residency) : (d.setResidency r i x).mill = d.mill := rfl
@[simp] theorem setResidency_sift (d : Device) (r i : Nat) (x : Residency) : (d.setResidency r i x).sift = d.sift := rfl
@[simp] theorem setResidency_pem (d : Device) (r i : Nat) (x : Residency) : (d.setResidency r i x).pem = d.pem := rfl
@[simp] theorem setResidency_prf (d : Device) (r i : Nat) (x : Residency) : (d.setResidency r i x).prf = d.prf := rfl
@[simp] theorem setResidency_dmp (d : Device) (r i : Nat) (x : Residency) : (d.setResidency r i x).dmp = d.dmp := rfl
@[simp] theorem setResidency_hearth (d : Device) (r i : Nat) (x : Residency) : (d.setResidency r i x).hearth = d.hearth := rfl
@[simp] theorem setResidency_free (d : Device) (r i : Nat) (x : Residency) : (d.setResidency r i x).free = d.free := rfl
@[simp] theorem setResidency_sqr (d : Device) (r i : Nat) (x : Residency) (j : Nat) : (d.setResidency r i x).sqr j = d.sqr j := rfl
@[simp] theorem setResidency_ring (d : Device) (r i : Nat) (x : Residency) (q : RingKind) (j : Nat) : (d.setResidency r i x).ring q j = d.ring q j := rfl
@[simp] theorem setResidency_req (d : Device) (r i : Nat) (x : Residency) (j : Nat) : (d.setResidency r i x).req j = d.req j := rfl
@[simp] theorem setResidency_ctx (d : Device) (r i : Nat) (x : Residency) (j : Nat) : (d.setResidency r i x).ctx j = d.ctx j := rfl
@[simp] theorem setResidency_tenant (d : Device) (r i : Nat) (x : Residency) (j : Nat) : (d.setResidency r i x).tenant j = d.tenant j := rfl
@[simp] theorem setResidency_gate (d : Device) (r i : Nat) (x : Residency) (j : Nat) : (d.setResidency r i x).gate j = d.gate j := rfl
@[simp] theorem setResidency_port (d : Device) (r i : Nat) (x : Residency) (j : Nat) : (d.setResidency r i x).port j = d.port j := rfl
@[simp] theorem setResidency_frame (d : Device) (r i : Nat) (x : Residency) (a b j : Nat) : (d.setResidency r i x).frame a b j = d.frame a b j := rfl
@[simp] theorem setResidency_recipe (d : Device) (r i : Nat) (x : Residency) (j : Nat) : (d.setResidency r i x).recipe j = d.recipe j := rfl
@[simp] theorem setResidency_info (d : Device) (r i : Nat) (x : Residency) (j : Nat) : (d.setResidency r i x).info j = d.info j := rfl
@[simp] theorem setResidency_serving (d : Device) (r i : Nat) (x : Residency) (e : Env) : (d.setResidency r i x).serving e = d.serving e := rfl
@[simp] theorem setResidency_logicFrozen (d : Device) (r i : Nat) (x : Residency) : (d.setResidency r i x).logicFrozen = d.logicFrozen := rfl

/-! ## ask -/

@[simp] theorem ask_mode (d : Device) (o : FabOp) : (d.ask o).mode = d.mode := rfl
@[simp] theorem ask_host (d : Device) (o : FabOp) : (d.ask o).host = d.host := rfl
@[simp] theorem ask_lp (d : Device) (o : FabOp) : (d.ask o).lp = d.lp := rfl
@[simp] theorem ask_lpBad (d : Device) (o : FabOp) : (d.ask o).lpBad = d.lpBad := rfl
@[simp] theorem ask_loaf (d : Device) (o : FabOp) : (d.ask o).loaf = d.loaf := rfl
@[simp] theorem ask_jobMem (d : Device) (o : FabOp) : (d.ask o).jobMem = d.jobMem := rfl
@[simp] theorem ask_hif (d : Device) (o : FabOp) : (d.ask o).hif = d.hif := rfl
@[simp] theorem ask_sq (d : Device) (o : FabOp) : (d.ask o).sq = d.sq := rfl
@[simp] theorem ask_cq (d : Device) (o : FabOp) : (d.ask o).cq = d.cq := rfl
@[simp] theorem ask_ts (d : Device) (o : FabOp) : (d.ask o).ts = d.ts := rfl
@[simp] theorem ask_eq (d : Device) (o : FabOp) : (d.ask o).eq = d.eq := rfl
@[simp] theorem ask_fetched (d : Device) (o : FabOp) : (d.ask o).fetched = d.fetched := rfl
@[simp] theorem ask_inflight (d : Device) (o : FabOp) : (d.ask o).inflight = d.inflight := rfl
@[simp] theorem ask_nextSeq (d : Device) (o : FabOp) : (d.ask o).nextSeq = d.nextSeq := rfl
@[simp] theorem ask_resync (d : Device) (o : FabOp) : (d.ask o).resync = d.resync := rfl
@[simp] theorem ask_resyncDb (d : Device) (o : FabOp) : (d.ask o).resyncDb = d.resyncDb := rfl
@[simp] theorem ask_reqs (d : Device) (o : FabOp) : (d.ask o).reqs = d.reqs := rfl
@[simp] theorem ask_fresh (d : Device) (o : FabOp) : (d.ask o).fresh = d.fresh := rfl
@[simp] theorem ask_freed (d : Device) (o : FabOp) : (d.ask o).freed = d.freed := rfl
@[simp] theorem ask_ctxs (d : Device) (o : FabOp) : (d.ask o).ctxs = d.ctxs := rfl
@[simp] theorem ask_blocks (d : Device) (o : FabOp) : (d.ask o).blocks = d.blocks := rfl
@[simp] theorem ask_kn (d : Device) (o : FabOp) : (d.ask o).kn = d.kn := rfl
@[simp] theorem ask_recipes (d : Device) (o : FabOp) : (d.ask o).recipes = d.recipes := rfl
@[simp] theorem ask_adapters (d : Device) (o : FabOp) : (d.ask o).adapters = d.adapters := rfl
@[simp] theorem ask_grammars (d : Device) (o : FabOp) : (d.ask o).grammars = d.grammars := rfl
@[simp] theorem ask_frames (d : Device) (o : FabOp) : (d.ask o).frames = d.frames := rfl
@[simp] theorem ask_lists (d : Device) (o : FabOp) : (d.ask o).lists = d.lists := rfl
@[simp] theorem ask_health (d : Device) (o : FabOp) : (d.ask o).health = d.health := rfl
@[simp] theorem ask_oven (d : Device) (o : FabOp) : (d.ask o).oven = d.oven := rfl
@[simp] theorem ask_eng (d : Device) (o : FabOp) : (d.ask o).eng = d.eng := rfl
@[simp] theorem ask_peel (d : Device) (o : FabOp) : (d.ask o).peel = d.peel := rfl
@[simp] theorem ask_mill (d : Device) (o : FabOp) : (d.ask o).mill = d.mill := rfl
@[simp] theorem ask_sift (d : Device) (o : FabOp) : (d.ask o).sift = d.sift := rfl
@[simp] theorem ask_prf (d : Device) (o : FabOp) : (d.ask o).prf = d.prf := rfl
@[simp] theorem ask_dmp (d : Device) (o : FabOp) : (d.ask o).dmp = d.dmp := rfl
@[simp] theorem ask_hearth (d : Device) (o : FabOp) : (d.ask o).hearth = d.hearth := rfl
@[simp] theorem ask_free (d : Device) (o : FabOp) : (d.ask o).free = d.free := rfl
@[simp] theorem ask_sqr (d : Device) (o : FabOp) (j : Nat) : (d.ask o).sqr j = d.sqr j := rfl
@[simp] theorem ask_ring (d : Device) (o : FabOp) (q : RingKind) (j : Nat) : (d.ask o).ring q j = d.ring q j := rfl
@[simp] theorem ask_req (d : Device) (o : FabOp) (j : Nat) : (d.ask o).req j = d.req j := rfl
@[simp] theorem ask_ctx (d : Device) (o : FabOp) (j : Nat) : (d.ask o).ctx j = d.ctx j := rfl
@[simp] theorem ask_tenant (d : Device) (o : FabOp) (j : Nat) : (d.ask o).tenant j = d.tenant j := rfl
@[simp] theorem ask_gate (d : Device) (o : FabOp) (j : Nat) : (d.ask o).gate j = d.gate j := rfl
@[simp] theorem ask_frame (d : Device) (o : FabOp) (a b j : Nat) : (d.ask o).frame a b j = d.frame a b j := rfl
@[simp] theorem ask_residency (d : Device) (o : FabOp) (a j : Nat) : (d.ask o).residency a j = d.residency a j := rfl
@[simp] theorem ask_recipe (d : Device) (o : FabOp) (j : Nat) : (d.ask o).recipe j = d.recipe j := rfl
@[simp] theorem ask_info (d : Device) (o : FabOp) (j : Nat) : (d.ask o).info j = d.info j := rfl
@[simp] theorem ask_serving (d : Device) (o : FabOp) (e : Env) : (d.ask o).serving e = d.serving e := rfl
@[simp] theorem ask_logicFrozen (d : Device) (o : FabOp) : (d.ask o).logicFrozen = d.logicFrozen := rfl

/-! ## addMove -/

@[simp] theorem addMove_mode (d : Device) (m : Nat) (x : Move) : (d.addMove m x).mode = d.mode := rfl
@[simp] theorem addMove_host (d : Device) (m : Nat) (x : Move) : (d.addMove m x).host = d.host := rfl
@[simp] theorem addMove_lp (d : Device) (m : Nat) (x : Move) : (d.addMove m x).lp = d.lp := rfl
@[simp] theorem addMove_lpBad (d : Device) (m : Nat) (x : Move) : (d.addMove m x).lpBad = d.lpBad := rfl
@[simp] theorem addMove_loaf (d : Device) (m : Nat) (x : Move) : (d.addMove m x).loaf = d.loaf := rfl
@[simp] theorem addMove_jobMem (d : Device) (m : Nat) (x : Move) : (d.addMove m x).jobMem = d.jobMem := rfl
@[simp] theorem addMove_hif (d : Device) (m : Nat) (x : Move) : (d.addMove m x).hif = d.hif := rfl
@[simp] theorem addMove_sq (d : Device) (m : Nat) (x : Move) : (d.addMove m x).sq = d.sq := rfl
@[simp] theorem addMove_cq (d : Device) (m : Nat) (x : Move) : (d.addMove m x).cq = d.cq := rfl
@[simp] theorem addMove_ts (d : Device) (m : Nat) (x : Move) : (d.addMove m x).ts = d.ts := rfl
@[simp] theorem addMove_eq (d : Device) (m : Nat) (x : Move) : (d.addMove m x).eq = d.eq := rfl
@[simp] theorem addMove_fetched (d : Device) (m : Nat) (x : Move) : (d.addMove m x).fetched = d.fetched := rfl
@[simp] theorem addMove_inflight (d : Device) (m : Nat) (x : Move) : (d.addMove m x).inflight = d.inflight := rfl
@[simp] theorem addMove_nextSeq (d : Device) (m : Nat) (x : Move) : (d.addMove m x).nextSeq = d.nextSeq := rfl
@[simp] theorem addMove_resync (d : Device) (m : Nat) (x : Move) : (d.addMove m x).resync = d.resync := rfl
@[simp] theorem addMove_resyncDb (d : Device) (m : Nat) (x : Move) : (d.addMove m x).resyncDb = d.resyncDb := rfl
@[simp] theorem addMove_reqs (d : Device) (m : Nat) (x : Move) : (d.addMove m x).reqs = d.reqs := rfl
@[simp] theorem addMove_fresh (d : Device) (m : Nat) (x : Move) : (d.addMove m x).fresh = d.fresh := rfl
@[simp] theorem addMove_freed (d : Device) (m : Nat) (x : Move) : (d.addMove m x).freed = d.freed := rfl
@[simp] theorem addMove_ctxs (d : Device) (m : Nat) (x : Move) : (d.addMove m x).ctxs = d.ctxs := rfl
@[simp] theorem addMove_blocks (d : Device) (m : Nat) (x : Move) : (d.addMove m x).blocks = d.blocks := rfl
@[simp] theorem addMove_kn (d : Device) (m : Nat) (x : Move) : (d.addMove m x).kn = d.kn := rfl
@[simp] theorem addMove_recipes (d : Device) (m : Nat) (x : Move) : (d.addMove m x).recipes = d.recipes := rfl
@[simp] theorem addMove_adapters (d : Device) (m : Nat) (x : Move) : (d.addMove m x).adapters = d.adapters := rfl
@[simp] theorem addMove_grammars (d : Device) (m : Nat) (x : Move) : (d.addMove m x).grammars = d.grammars := rfl
@[simp] theorem addMove_frames (d : Device) (m : Nat) (x : Move) : (d.addMove m x).frames = d.frames := rfl
@[simp] theorem addMove_lists (d : Device) (m : Nat) (x : Move) : (d.addMove m x).lists = d.lists := rfl
@[simp] theorem addMove_health (d : Device) (m : Nat) (x : Move) : (d.addMove m x).health = d.health := rfl
@[simp] theorem addMove_oven (d : Device) (m : Nat) (x : Move) : (d.addMove m x).oven = d.oven := rfl
@[simp] theorem addMove_eng (d : Device) (m : Nat) (x : Move) : (d.addMove m x).eng = d.eng := rfl
@[simp] theorem addMove_mill (d : Device) (m : Nat) (x : Move) : (d.addMove m x).mill = d.mill := rfl
@[simp] theorem addMove_sift (d : Device) (m : Nat) (x : Move) : (d.addMove m x).sift = d.sift := rfl
@[simp] theorem addMove_pem (d : Device) (m : Nat) (x : Move) : (d.addMove m x).pem = d.pem := rfl
@[simp] theorem addMove_prf (d : Device) (m : Nat) (x : Move) : (d.addMove m x).prf = d.prf := rfl
@[simp] theorem addMove_dmp (d : Device) (m : Nat) (x : Move) : (d.addMove m x).dmp = d.dmp := rfl
@[simp] theorem addMove_hearth (d : Device) (m : Nat) (x : Move) : (d.addMove m x).hearth = d.hearth := rfl
@[simp] theorem addMove_free (d : Device) (m : Nat) (x : Move) : (d.addMove m x).free = d.free := rfl
@[simp] theorem addMove_sqr (d : Device) (m : Nat) (x : Move) (j : Nat) : (d.addMove m x).sqr j = d.sqr j := rfl
@[simp] theorem addMove_ring (d : Device) (m : Nat) (x : Move) (q : RingKind) (j : Nat) : (d.addMove m x).ring q j = d.ring q j := rfl
@[simp] theorem addMove_req (d : Device) (m : Nat) (x : Move) (j : Nat) : (d.addMove m x).req j = d.req j := rfl
@[simp] theorem addMove_ctx (d : Device) (m : Nat) (x : Move) (j : Nat) : (d.addMove m x).ctx j = d.ctx j := rfl
@[simp] theorem addMove_tenant (d : Device) (m : Nat) (x : Move) (j : Nat) : (d.addMove m x).tenant j = d.tenant j := rfl
@[simp] theorem addMove_gate (d : Device) (m : Nat) (x : Move) (j : Nat) : (d.addMove m x).gate j = d.gate j := rfl
@[simp] theorem addMove_port (d : Device) (m : Nat) (x : Move) (j : Nat) : (d.addMove m x).port j = d.port j := rfl
@[simp] theorem addMove_frame (d : Device) (m : Nat) (x : Move) (a b j : Nat) : (d.addMove m x).frame a b j = d.frame a b j := rfl
@[simp] theorem addMove_recipe (d : Device) (m : Nat) (x : Move) (j : Nat) : (d.addMove m x).recipe j = d.recipe j := rfl
@[simp] theorem addMove_info (d : Device) (m : Nat) (x : Move) (j : Nat) : (d.addMove m x).info j = d.info j := rfl
@[simp] theorem addMove_serving (d : Device) (m : Nat) (x : Move) (e : Env) : (d.addMove m x).serving e = d.serving e := rfl
@[simp] theorem addMove_logicFrozen (d : Device) (m : Nat) (x : Move) : (d.addMove m x).logicFrozen = d.logicFrozen := rfl

/-! ## delMove -/

@[simp] theorem delMove_mode (d : Device) (m : Nat) : (d.delMove m).mode = d.mode := rfl
@[simp] theorem delMove_host (d : Device) (m : Nat) : (d.delMove m).host = d.host := rfl
@[simp] theorem delMove_lp (d : Device) (m : Nat) : (d.delMove m).lp = d.lp := rfl
@[simp] theorem delMove_lpBad (d : Device) (m : Nat) : (d.delMove m).lpBad = d.lpBad := rfl
@[simp] theorem delMove_loaf (d : Device) (m : Nat) : (d.delMove m).loaf = d.loaf := rfl
@[simp] theorem delMove_jobMem (d : Device) (m : Nat) : (d.delMove m).jobMem = d.jobMem := rfl
@[simp] theorem delMove_hif (d : Device) (m : Nat) : (d.delMove m).hif = d.hif := rfl
@[simp] theorem delMove_sq (d : Device) (m : Nat) : (d.delMove m).sq = d.sq := rfl
@[simp] theorem delMove_cq (d : Device) (m : Nat) : (d.delMove m).cq = d.cq := rfl
@[simp] theorem delMove_ts (d : Device) (m : Nat) : (d.delMove m).ts = d.ts := rfl
@[simp] theorem delMove_eq (d : Device) (m : Nat) : (d.delMove m).eq = d.eq := rfl
@[simp] theorem delMove_fetched (d : Device) (m : Nat) : (d.delMove m).fetched = d.fetched := rfl
@[simp] theorem delMove_inflight (d : Device) (m : Nat) : (d.delMove m).inflight = d.inflight := rfl
@[simp] theorem delMove_nextSeq (d : Device) (m : Nat) : (d.delMove m).nextSeq = d.nextSeq := rfl
@[simp] theorem delMove_resync (d : Device) (m : Nat) : (d.delMove m).resync = d.resync := rfl
@[simp] theorem delMove_resyncDb (d : Device) (m : Nat) : (d.delMove m).resyncDb = d.resyncDb := rfl
@[simp] theorem delMove_reqs (d : Device) (m : Nat) : (d.delMove m).reqs = d.reqs := rfl
@[simp] theorem delMove_fresh (d : Device) (m : Nat) : (d.delMove m).fresh = d.fresh := rfl
@[simp] theorem delMove_freed (d : Device) (m : Nat) : (d.delMove m).freed = d.freed := rfl
@[simp] theorem delMove_ctxs (d : Device) (m : Nat) : (d.delMove m).ctxs = d.ctxs := rfl
@[simp] theorem delMove_blocks (d : Device) (m : Nat) : (d.delMove m).blocks = d.blocks := rfl
@[simp] theorem delMove_kn (d : Device) (m : Nat) : (d.delMove m).kn = d.kn := rfl
@[simp] theorem delMove_recipes (d : Device) (m : Nat) : (d.delMove m).recipes = d.recipes := rfl
@[simp] theorem delMove_adapters (d : Device) (m : Nat) : (d.delMove m).adapters = d.adapters := rfl
@[simp] theorem delMove_grammars (d : Device) (m : Nat) : (d.delMove m).grammars = d.grammars := rfl
@[simp] theorem delMove_frames (d : Device) (m : Nat) : (d.delMove m).frames = d.frames := rfl
@[simp] theorem delMove_lists (d : Device) (m : Nat) : (d.delMove m).lists = d.lists := rfl
@[simp] theorem delMove_health (d : Device) (m : Nat) : (d.delMove m).health = d.health := rfl
@[simp] theorem delMove_oven (d : Device) (m : Nat) : (d.delMove m).oven = d.oven := rfl
@[simp] theorem delMove_eng (d : Device) (m : Nat) : (d.delMove m).eng = d.eng := rfl
@[simp] theorem delMove_mill (d : Device) (m : Nat) : (d.delMove m).mill = d.mill := rfl
@[simp] theorem delMove_sift (d : Device) (m : Nat) : (d.delMove m).sift = d.sift := rfl
@[simp] theorem delMove_pem (d : Device) (m : Nat) : (d.delMove m).pem = d.pem := rfl
@[simp] theorem delMove_prf (d : Device) (m : Nat) : (d.delMove m).prf = d.prf := rfl
@[simp] theorem delMove_dmp (d : Device) (m : Nat) : (d.delMove m).dmp = d.dmp := rfl
@[simp] theorem delMove_hearth (d : Device) (m : Nat) : (d.delMove m).hearth = d.hearth := rfl
@[simp] theorem delMove_free (d : Device) (m : Nat) : (d.delMove m).free = d.free := rfl
@[simp] theorem delMove_sqr (d : Device) (m : Nat) (j : Nat) : (d.delMove m).sqr j = d.sqr j := rfl
@[simp] theorem delMove_ring (d : Device) (m : Nat) (q : RingKind) (j : Nat) : (d.delMove m).ring q j = d.ring q j := rfl
@[simp] theorem delMove_req (d : Device) (m : Nat) (j : Nat) : (d.delMove m).req j = d.req j := rfl
@[simp] theorem delMove_ctx (d : Device) (m : Nat) (j : Nat) : (d.delMove m).ctx j = d.ctx j := rfl
@[simp] theorem delMove_tenant (d : Device) (m : Nat) (j : Nat) : (d.delMove m).tenant j = d.tenant j := rfl
@[simp] theorem delMove_gate (d : Device) (m : Nat) (j : Nat) : (d.delMove m).gate j = d.gate j := rfl
@[simp] theorem delMove_port (d : Device) (m : Nat) (j : Nat) : (d.delMove m).port j = d.port j := rfl
@[simp] theorem delMove_frame (d : Device) (m : Nat) (a b j : Nat) : (d.delMove m).frame a b j = d.frame a b j := rfl
@[simp] theorem delMove_recipe (d : Device) (m : Nat) (j : Nat) : (d.delMove m).recipe j = d.recipe j := rfl
@[simp] theorem delMove_info (d : Device) (m : Nat) (j : Nat) : (d.delMove m).info j = d.info j := rfl
@[simp] theorem delMove_serving (d : Device) (m : Nat) (e : Env) : (d.delMove m).serving e = d.serving e := rfl
@[simp] theorem delMove_logicFrozen (d : Device) (m : Nat) : (d.delMove m).logicFrozen = d.logicFrozen := rfl

/-! ## pushFlash -/

@[simp] theorem pushFlash_mode (d : Device) (o : FlashOp) : (d.pushFlash o).mode = d.mode := rfl
@[simp] theorem pushFlash_host (d : Device) (o : FlashOp) : (d.pushFlash o).host = d.host := rfl
@[simp] theorem pushFlash_lp (d : Device) (o : FlashOp) : (d.pushFlash o).lp = d.lp := rfl
@[simp] theorem pushFlash_lpBad (d : Device) (o : FlashOp) : (d.pushFlash o).lpBad = d.lpBad := rfl
@[simp] theorem pushFlash_loaf (d : Device) (o : FlashOp) : (d.pushFlash o).loaf = d.loaf := rfl
@[simp] theorem pushFlash_jobMem (d : Device) (o : FlashOp) : (d.pushFlash o).jobMem = d.jobMem := rfl
@[simp] theorem pushFlash_hif (d : Device) (o : FlashOp) : (d.pushFlash o).hif = d.hif := rfl
@[simp] theorem pushFlash_sq (d : Device) (o : FlashOp) : (d.pushFlash o).sq = d.sq := rfl
@[simp] theorem pushFlash_cq (d : Device) (o : FlashOp) : (d.pushFlash o).cq = d.cq := rfl
@[simp] theorem pushFlash_ts (d : Device) (o : FlashOp) : (d.pushFlash o).ts = d.ts := rfl
@[simp] theorem pushFlash_eq (d : Device) (o : FlashOp) : (d.pushFlash o).eq = d.eq := rfl
@[simp] theorem pushFlash_fetched (d : Device) (o : FlashOp) : (d.pushFlash o).fetched = d.fetched := rfl
@[simp] theorem pushFlash_inflight (d : Device) (o : FlashOp) : (d.pushFlash o).inflight = d.inflight := rfl
@[simp] theorem pushFlash_nextSeq (d : Device) (o : FlashOp) : (d.pushFlash o).nextSeq = d.nextSeq := rfl
@[simp] theorem pushFlash_resync (d : Device) (o : FlashOp) : (d.pushFlash o).resync = d.resync := rfl
@[simp] theorem pushFlash_resyncDb (d : Device) (o : FlashOp) : (d.pushFlash o).resyncDb = d.resyncDb := rfl
@[simp] theorem pushFlash_reqs (d : Device) (o : FlashOp) : (d.pushFlash o).reqs = d.reqs := rfl
@[simp] theorem pushFlash_fresh (d : Device) (o : FlashOp) : (d.pushFlash o).fresh = d.fresh := rfl
@[simp] theorem pushFlash_freed (d : Device) (o : FlashOp) : (d.pushFlash o).freed = d.freed := rfl
@[simp] theorem pushFlash_ctxs (d : Device) (o : FlashOp) : (d.pushFlash o).ctxs = d.ctxs := rfl
@[simp] theorem pushFlash_blocks (d : Device) (o : FlashOp) : (d.pushFlash o).blocks = d.blocks := rfl
@[simp] theorem pushFlash_kn (d : Device) (o : FlashOp) : (d.pushFlash o).kn = d.kn := rfl
@[simp] theorem pushFlash_recipes (d : Device) (o : FlashOp) : (d.pushFlash o).recipes = d.recipes := rfl
@[simp] theorem pushFlash_adapters (d : Device) (o : FlashOp) : (d.pushFlash o).adapters = d.adapters := rfl
@[simp] theorem pushFlash_grammars (d : Device) (o : FlashOp) : (d.pushFlash o).grammars = d.grammars := rfl
@[simp] theorem pushFlash_frames (d : Device) (o : FlashOp) : (d.pushFlash o).frames = d.frames := rfl
@[simp] theorem pushFlash_lists (d : Device) (o : FlashOp) : (d.pushFlash o).lists = d.lists := rfl
@[simp] theorem pushFlash_health (d : Device) (o : FlashOp) : (d.pushFlash o).health = d.health := rfl
@[simp] theorem pushFlash_oven (d : Device) (o : FlashOp) : (d.pushFlash o).oven = d.oven := rfl
@[simp] theorem pushFlash_eng (d : Device) (o : FlashOp) : (d.pushFlash o).eng = d.eng := rfl
@[simp] theorem pushFlash_peel (d : Device) (o : FlashOp) : (d.pushFlash o).peel = d.peel := rfl
@[simp] theorem pushFlash_mill (d : Device) (o : FlashOp) : (d.pushFlash o).mill = d.mill := rfl
@[simp] theorem pushFlash_sift (d : Device) (o : FlashOp) : (d.pushFlash o).sift = d.sift := rfl
@[simp] theorem pushFlash_pem (d : Device) (o : FlashOp) : (d.pushFlash o).pem = d.pem := rfl
@[simp] theorem pushFlash_prf (d : Device) (o : FlashOp) : (d.pushFlash o).prf = d.prf := rfl
@[simp] theorem pushFlash_dmp (d : Device) (o : FlashOp) : (d.pushFlash o).dmp = d.dmp := rfl
@[simp] theorem pushFlash_free (d : Device) (o : FlashOp) : (d.pushFlash o).free = d.free := rfl
@[simp] theorem pushFlash_sqr (d : Device) (o : FlashOp) (j : Nat) : (d.pushFlash o).sqr j = d.sqr j := rfl
@[simp] theorem pushFlash_ring (d : Device) (o : FlashOp) (q : RingKind) (j : Nat) : (d.pushFlash o).ring q j = d.ring q j := rfl
@[simp] theorem pushFlash_req (d : Device) (o : FlashOp) (j : Nat) : (d.pushFlash o).req j = d.req j := rfl
@[simp] theorem pushFlash_ctx (d : Device) (o : FlashOp) (j : Nat) : (d.pushFlash o).ctx j = d.ctx j := rfl
@[simp] theorem pushFlash_tenant (d : Device) (o : FlashOp) (j : Nat) : (d.pushFlash o).tenant j = d.tenant j := rfl
@[simp] theorem pushFlash_gate (d : Device) (o : FlashOp) (j : Nat) : (d.pushFlash o).gate j = d.gate j := rfl
@[simp] theorem pushFlash_port (d : Device) (o : FlashOp) (j : Nat) : (d.pushFlash o).port j = d.port j := rfl
@[simp] theorem pushFlash_frame (d : Device) (o : FlashOp) (a b j : Nat) : (d.pushFlash o).frame a b j = d.frame a b j := rfl
@[simp] theorem pushFlash_residency (d : Device) (o : FlashOp) (a j : Nat) : (d.pushFlash o).residency a j = d.residency a j := rfl
@[simp] theorem pushFlash_recipe (d : Device) (o : FlashOp) (j : Nat) : (d.pushFlash o).recipe j = d.recipe j := rfl
@[simp] theorem pushFlash_info (d : Device) (o : FlashOp) (j : Nat) : (d.pushFlash o).info j = d.info j := rfl
@[simp] theorem pushFlash_serving (d : Device) (o : FlashOp) (e : Env) : (d.pushFlash o).serving e = d.serving e := rfl
@[simp] theorem pushFlash_logicFrozen (d : Device) (o : FlashOp) : (d.pushFlash o).logicFrozen = d.logicFrozen := rfl

/-! ## What an update puts in place -/

@[simp] theorem modReq_eq (d : Device) (i : Nat) (f : Request → Request) : d.modReq i f = d.setReq i (f (d.req i)) := rfl
@[simp] theorem modCtx_eq (d : Device) (c : Nat) (f : Context → Context) : d.modCtx c f = d.setCtx c (f (d.ctx c)) := rfl
@[simp] theorem modPort_eq (d : Device) (p : Nat) (f : Port → Port) : d.modPort p f = d.setPort p (f (d.port p)) := rfl

theorem sqr_setSq (d : Device) (n j : Nat) (r : SubRing) : (d.setSq n r).sqr j = if j = n then r else d.sqr j :=
  tget_tset _ _ _ _ _
theorem req_setReq (d : Device) (i j : Nat) (r : Request) : (d.setReq i r).req j = if j = i then r else d.req j :=
  tget_tset _ _ _ _ _
theorem ctx_setCtx (d : Device) (c j : Nat) (x : Context) : (d.setCtx c x).ctx j = if j = c then x else d.ctx j :=
  tget_tset _ _ _ _ _
theorem tenant_modTenant (d : Device) (n j : Nat) (f : Tenant → Tenant) :
    (d.modTenant n f).tenant j = if j = n then f (d.tenant n) else d.tenant j := tget_tset _ _ _ _ _
theorem gate_setGate (d : Device) (p j : Nat) (g : Gate) : (d.setGate p g).gate j = if j = p then g else d.gate j :=
  tget_tset _ _ _ _ _
theorem port_setPort (d : Device) (p j : Nat) (x : Port) : (d.setPort p x).port j = if j = p then x else d.port j :=
  tget_tset _ _ _ _ _
theorem residency_setResidency (d : Device) (r i a j : Nat) (x : Residency) :
    (d.setResidency r i x).residency a j = if streamKey a j = streamKey r i then x else d.residency a j :=
  tget_tset _ _ _ _ _
theorem frame_setFrame (d : Device) (r p n a b j : Nat) (f : Frame) :
    (d.setFrame r p n f).frame a b j = if frameKey a b j = frameKey r p n then f else d.frame a b j :=
  tget_tset _ _ _ _ _

@[simp] theorem sqr_setSq_same (d : Device) (n : Nat) (r : SubRing) : (d.setSq n r).sqr n = r := by simp [sqr_setSq]
@[simp] theorem req_setReq_same (d : Device) (i : Nat) (r : Request) : (d.setReq i r).req i = r := by simp [req_setReq]
@[simp] theorem ctx_setCtx_same (d : Device) (c : Nat) (x : Context) : (d.setCtx c x).ctx c = x := by simp [ctx_setCtx]
@[simp] theorem gate_setGate_same (d : Device) (p : Nat) (g : Gate) : (d.setGate p g).gate p = g := by simp [gate_setGate]
@[simp] theorem port_setPort_same (d : Device) (p : Nat) (x : Port) : (d.setPort p x).port p = x := by simp [port_setPort]
@[simp] theorem ring_setRing_same (d : Device) (k : RingKind) (n : Nat) (r : DevRing) : (d.setRing k n r).ring k n = r := by
  cases k <;> simp [Device.setRing, Device.ring]

theorem ring_setRing_other (d : Device) (k : RingKind) {n j : Nat} (r : DevRing) (h : j ≠ n) (hk : k ≠ .eq) :
    (d.setRing k n r).ring k j = d.ring k j := by
  cases k <;> simp_all [Device.setRing, Device.ring, tget_tset]

theorem ring_setRing_kind (d : Device) {k q : RingKind} (n j : Nat) (r : DevRing) (h : q ≠ k) :
    (d.setRing k n r).ring q j = d.ring q j := by
  cases k <;> cases q <;> simp_all [Device.setRing, Device.ring]

/-- What modTenant leaves of the Kneader. -/
theorem modTenant_kn (d : Device) (n : Nat) (f : Tenant → Tenant) :
    (d.modTenant n f).kn = { d.kn with tenants := tset d.kn.tenants n (f (d.tenant n)) } := rfl

end Sys2Proof.Machine
end

