-- ==== Sys2Proof/Laws/Ops.lean ====
section
/-! SUPPORT. What each shared operation can change: an operation answers the device with the fields named changed and
every other field as it was; then one lemma per field. -/

namespace Sys2Proof.Machine

/-- A command that acts on the device answers a next state with the queue as it was. -/
@[simp] theorem act_eq (s : State) (t : Nat) (f : Env → Device → Device) :
    s.act t f = .next { s with env := s.env.tick t, dev := f (s.env.tick t) s.dev } := rfl

/-- A command that acts on the registers too. -/
@[simp] theorem actEnv_eq (s : State) (t : Nat) (f : Env → Device → Env × Device) :
    s.actEnv t f = .next { s with env := (f (s.env.tick t) s.dev).1, dev := (f (s.env.tick t) s.dev).2 } := rfl

@[simp] theorem tick_regs (e : Env) (t : Nat) : (e.tick t).regs = e.regs := rfl
@[simp] theorem tick_closed (e : Env) (t : Nat) : (e.tick t).closed = e.closed := rfl

/-- LTIME does not move backwards (R400). -/
theorem now_le_tick (e : Env) (t : Nat) (h : e.now ≤ lim64) : e.now ≤ (e.tick t).now ∧ (e.tick t).now ≤ lim64 := by
  simp only [Env.tick, sat]
  by_cases h1 : e.now ≤ t
  · rw [if_pos h1]; split <;> omega
  · rw [if_neg h1, if_pos h]; omega

/-- An effect on a descriptor runs on the one taken, or nothing happens. -/
theorem onDesc_some {e : Env} {d d' : Device} {ring op : Nat} {x : Fetched} (f : Env → Device → Fetched → Device)
    (h : d.take e ring op = some (x, d')) : onDesc ring op f e d = f e d' x := by simp [onDesc, h]

theorem onDesc_none {e : Env} {d : Device} {ring op : Nat} (f : Env → Device → Fetched → Device)
    (h : d.take e ring op = none) : onDesc ring op f e d = d := by simp [onDesc, h]

/-- What taking a descriptor changes: the queue of fetched ones and the started marks. -/
theorem take_frame {e : Env} {d d' : Device} {ring op : Nat} {x : Fetched} (h : d.take e ring op = some (x, d')) :
    ∃ g i, d' = { d with fetched := g, inflight := i } := by
  simp only [Device.take] at h
  split at h
  · cases h
  · split at h
    · cases h
    · split at h
      · simp only [Option.some.injEq, Prod.mk.injEq] at h
        exact ⟨_, _, h.2.symm⟩
      · cases h

/-- A descriptor taken has the command's opcode (R30). -/
theorem take_op {e : Env} {d d' : Device} {ring op : Nat} {x : Fetched} (h : d.take e ring op = some (x, d')) :
    x.op = op := by
  simp only [Device.take] at h
  split at h
  · cases h
  · split at h
    · cases h
    · split at h
      · rename_i hc
        simp only [Option.some.injEq, Prod.mk.injEq] at h
        obtain ⟨h1, _⟩ := h
        subst h1
        simp_all
      · cases h

/-- A message is sent or pends: only the host interface changes (R44). -/
theorem message_frame (d : Device) (v : Nat) :
    ∃ x_hif, d.message v = { d with hif := x_hif } := by
  unfold Device.message
  split
  · split <;> exact ⟨_, rfl⟩
  · exact ⟨_, rfl⟩


/-- A ring's message changes the host interface and the ring's pending entries (R44). -/
theorem interrupt_frame (d : Device) (e : Env) (k : RingKind) (n : Nat) :
    ∃ x_hif x_cq x_ts x_eq, d.interrupt e k n = { d with hif := x_hif, cq := x_cq, ts := x_ts, eq := x_eq } := by
  obtain ⟨h, hm⟩ := message_frame d (devVector e k n)
  simp only [Device.interrupt, hm]
  split
  · exact ⟨h, d.cq, d.ts, d.eq, rfl⟩
  · cases k <;> exact ⟨_, _, _, _, rfl⟩


/-- An entry written to a ring changes host memory, the ring and what its interrupt sends (R24, R44). -/
theorem putEntry_frame (d : Device) (e : Env) (k : RingKind) (n : Nat) (bs : List Byte) (u v : Bool) :
    ∃ x_host x_hif x_cq x_ts x_eq, d.putEntry e k n bs u v = { d with host := x_host, hif := x_hif, cq := x_cq, ts := x_ts, eq := x_eq } := by
  have key : ∀ (c : Bool) (d1 : Device), (∃ a h x t q, d1 = { d with host := a, hif := h, cq := x, ts := t, eq := q }) →
      ∃ a h x t q, (if c = true then d1.interrupt e k n else d1)
        = { d with host := a, hif := h, cq := x, ts := t, eq := q } := by
    rintro c d1 ⟨a, h, x, t, q, rfl⟩
    obtain ⟨h2, x2, t2, q2, h3⟩ := interrupt_frame { d with host := a, hif := h, cq := x, ts := t, eq := q } e k n
    cases c
    · exact ⟨a, h, x, t, q, rfl⟩
    · exact ⟨a, h2, x2, t2, q2, h3⟩
  cases k <;> exact key _ _ ⟨_, _, _, _, _, rfl⟩


/-- An event entry changes host memory, the event ring and the host interface. -/
theorem putEq_frame (d : Device) (e : Env) (bs : List Byte) (u v : Bool) :
    ∃ x_host x_hif x_eq, d.putEntry e .eq 0 bs u v = { d with host := x_host, hif := x_hif, eq := x_eq } := by
  have hi : ∀ d : Device, ∃ h q, d.interrupt e .eq 0 = { d with hif := h, eq := q } := by
    intro d
    obtain ⟨h, hm⟩ := message_frame d (devVector e .eq 0)
    simp only [Device.interrupt, hm]
    split
    · exact ⟨h, d.eq, rfl⟩
    · exact ⟨_, _, rfl⟩
  have key : ∀ (c : Bool) (d1 : Device), (∃ a h q, d1 = { d with host := a, hif := h, eq := q }) →
      ∃ a h q, (if c = true then d1.interrupt e .eq 0 else d1) = { d with host := a, hif := h, eq := q } := by
    rintro c d1 ⟨a, h, q, rfl⟩
    obtain ⟨h2, q2, h3⟩ := hi { d with host := a, hif := h, eq := q }
    cases c
    · exact ⟨a, h, q, rfl⟩
    · exact ⟨a, h2, q2, h3⟩
  exact key _ _ ⟨_, _, _, rfl⟩


/-- A completion entry changes host memory, its ring and the host interface. -/
theorem putCq_frame (d : Device) (e : Env) (n : Nat) (bs : List Byte) (u v : Bool) :
    ∃ x_host x_hif x_cq, d.putEntry e .cq n bs u v = { d with host := x_host, hif := x_hif, cq := x_cq } := by
  have hi : ∀ d : Device, ∃ h q, d.interrupt e .cq n = { d with hif := h, cq := q } := by
    intro d
    obtain ⟨h, hm⟩ := message_frame d (devVector e .cq n)
    simp only [Device.interrupt, hm]
    split
    · exact ⟨h, d.cq, rfl⟩
    · exact ⟨_, _, rfl⟩
  have key : ∀ (c : Bool) (d1 : Device), (∃ a h q, d1 = { d with host := a, hif := h, cq := q }) →
      ∃ a h q, (if c = true then d1.interrupt e .cq n else d1) = { d with host := a, hif := h, cq := q } := by
    rintro c d1 ⟨a, h, q, rfl⟩
    obtain ⟨h2, q2, h3⟩ := hi { d with host := a, hif := h, cq := q }
    cases c
    · exact ⟨a, h, q, rfl⟩
    · exact ⟨a, h2, q2, h3⟩
  exact key _ _ ⟨_, _, _, rfl⟩


/-- An event is written, or dropped and counted (R28, R41). -/
theorem writeEvent_frame (d : Device) (e : Env) (ev : Event) :
    ∃ x_host x_hif x_eq, d.writeEvent e ev = { d with host := x_host, hif := x_hif, eq := x_eq } := by
  simp only [Device.writeEvent]
  split
  · obtain ⟨a, h, q, hp⟩ := putEq_frame d e (ev.bytes d.hif.dropped) true false
    rw [hp]
    exact ⟨_, _, _, rfl⟩
  · exact ⟨d.host, _, d.eq, rfl⟩


/-- An event raised is written, held before its ring is enabled, or dropped (R41, R422). -/
theorem raise_frame (d : Device) (e : Env) (c a b : Nat) :
    ∃ x_host x_hif x_eq, d.raise e c a b = { d with host := x_host, hif := x_hif, eq := x_eq } := by
  simp only [Device.raise]
  split
  · exact ⟨d.host, d.hif, d.eq, rfl⟩
  · split
    · exact writeEvent_frame _ _ _
    · split
      · exact ⟨d.host, _, d.eq, rfl⟩
      · exact ⟨d.host, _, d.eq, rfl⟩

@[simp] theorem raise_mode (d : Device) (e : Env) (c a b : Nat) : (d.raise e c a b).mode = d.mode := by
  obtain ⟨_, _, _, h⟩ := raise_frame d e c a b; rw [h]
@[simp] theorem raise_lp (d : Device) (e : Env) (c a b : Nat) : (d.raise e c a b).lp = d.lp := by
  obtain ⟨_, _, _, h⟩ := raise_frame d e c a b; rw [h]
@[simp] theorem raise_lpBad (d : Device) (e : Env) (c a b : Nat) : (d.raise e c a b).lpBad = d.lpBad := by
  obtain ⟨_, _, _, h⟩ := raise_frame d e c a b; rw [h]
@[simp] theorem raise_loaf (d : Device) (e : Env) (c a b : Nat) : (d.raise e c a b).loaf = d.loaf := by
  obtain ⟨_, _, _, h⟩ := raise_frame d e c a b; rw [h]
@[simp] theorem raise_jobMem (d : Device) (e : Env) (c a b : Nat) : (d.raise e c a b).jobMem = d.jobMem := by
  obtain ⟨_, _, _, h⟩ := raise_frame d e c a b; rw [h]
@[simp] theorem raise_sq (d : Device) (e : Env) (c a b : Nat) : (d.raise e c a b).sq = d.sq := by
  obtain ⟨_, _, _, h⟩ := raise_frame d e c a b; rw [h]
@[simp] theorem raise_cq (d : Device) (e : Env) (c a b : Nat) : (d.raise e c a b).cq = d.cq := by
  obtain ⟨_, _, _, h⟩ := raise_frame d e c a b; rw [h]
@[simp] theorem raise_ts (d : Device) (e : Env) (c a b : Nat) : (d.raise e c a b).ts = d.ts := by
  obtain ⟨_, _, _, h⟩ := raise_frame d e c a b; rw [h]
@[simp] theorem raise_fetched (d : Device) (e : Env) (c a b : Nat) : (d.raise e c a b).fetched = d.fetched := by
  obtain ⟨_, _, _, h⟩ := raise_frame d e c a b; rw [h]
@[simp] theorem raise_inflight (d : Device) (e : Env) (c a b : Nat) : (d.raise e c a b).inflight = d.inflight := by
  obtain ⟨_, _, _, h⟩ := raise_frame d e c a b; rw [h]
@[simp] theorem raise_nextSeq (d : Device) (e : Env) (c a b : Nat) : (d.raise e c a b).nextSeq = d.nextSeq := by
  obtain ⟨_, _, _, h⟩ := raise_frame d e c a b; rw [h]
@[simp] theorem raise_resync (d : Device) (e : Env) (c a b : Nat) : (d.raise e c a b).resync = d.resync := by
  obtain ⟨_, _, _, h⟩ := raise_frame d e c a b; rw [h]
@[simp] theorem raise_resyncDb (d : Device) (e : Env) (c a b : Nat) : (d.raise e c a b).resyncDb = d.resyncDb := by
  obtain ⟨_, _, _, h⟩ := raise_frame d e c a b; rw [h]
@[simp] theorem raise_reqs (d : Device) (e : Env) (c a b : Nat) : (d.raise e c a b).reqs = d.reqs := by
  obtain ⟨_, _, _, h⟩ := raise_frame d e c a b; rw [h]
@[simp] theorem raise_fresh (d : Device) (e : Env) (c a b : Nat) : (d.raise e c a b).fresh = d.fresh := by
  obtain ⟨_, _, _, h⟩ := raise_frame d e c a b; rw [h]
@[simp] theorem raise_freed (d : Device) (e : Env) (c a b : Nat) : (d.raise e c a b).freed = d.freed := by
  obtain ⟨_, _, _, h⟩ := raise_frame d e c a b; rw [h]
@[simp] theorem raise_ctxs (d : Device) (e : Env) (c a b : Nat) : (d.raise e c a b).ctxs = d.ctxs := by
  obtain ⟨_, _, _, h⟩ := raise_frame d e c a b; rw [h]
@[simp] theorem raise_blocks (d : Device) (e : Env) (c a b : Nat) : (d.raise e c a b).blocks = d.blocks := by
  obtain ⟨_, _, _, h⟩ := raise_frame d e c a b; rw [h]
@[simp] theorem raise_kn (d : Device) (e : Env) (c a b : Nat) : (d.raise e c a b).kn = d.kn := by
  obtain ⟨_, _, _, h⟩ := raise_frame d e c a b; rw [h]
@[simp] theorem raise_recipes (d : Device) (e : Env) (c a b : Nat) : (d.raise e c a b).recipes = d.recipes := by
  obtain ⟨_, _, _, h⟩ := raise_frame d e c a b; rw [h]
@[simp] theorem raise_adapters (d : Device) (e : Env) (c a b : Nat) : (d.raise e c a b).adapters = d.adapters := by
  obtain ⟨_, _, _, h⟩ := raise_frame d e c a b; rw [h]
@[simp] theorem raise_grammars (d : Device) (e : Env) (c a b : Nat) : (d.raise e c a b).grammars = d.grammars := by
  obtain ⟨_, _, _, h⟩ := raise_frame d e c a b; rw [h]
@[simp] theorem raise_frames (d : Device) (e : Env) (c a b : Nat) : (d.raise e c a b).frames = d.frames := by
  obtain ⟨_, _, _, h⟩ := raise_frame d e c a b; rw [h]
@[simp] theorem raise_health (d : Device) (e : Env) (c a b : Nat) : (d.raise e c a b).health = d.health := by
  obtain ⟨_, _, _, h⟩ := raise_frame d e c a b; rw [h]
@[simp] theorem raise_oven (d : Device) (e : Env) (c a b : Nat) : (d.raise e c a b).oven = d.oven := by
  obtain ⟨_, _, _, h⟩ := raise_frame d e c a b; rw [h]
@[simp] theorem raise_peel (d : Device) (e : Env) (c a b : Nat) : (d.raise e c a b).peel = d.peel := by
  obtain ⟨_, _, _, h⟩ := raise_frame d e c a b; rw [h]
@[simp] theorem raise_mill (d : Device) (e : Env) (c a b : Nat) : (d.raise e c a b).mill = d.mill := by
  obtain ⟨_, _, _, h⟩ := raise_frame d e c a b; rw [h]
@[simp] theorem raise_sift (d : Device) (e : Env) (c a b : Nat) : (d.raise e c a b).sift = d.sift := by
  obtain ⟨_, _, _, h⟩ := raise_frame d e c a b; rw [h]
@[simp] theorem raise_pem (d : Device) (e : Env) (c a b : Nat) : (d.raise e c a b).pem = d.pem := by
  obtain ⟨_, _, _, h⟩ := raise_frame d e c a b; rw [h]
@[simp] theorem raise_prf (d : Device) (e : Env) (c a b : Nat) : (d.raise e c a b).prf = d.prf := by
  obtain ⟨_, _, _, h⟩ := raise_frame d e c a b; rw [h]
@[simp] theorem raise_dmp (d : Device) (e : Env) (c a b : Nat) : (d.raise e c a b).dmp = d.dmp := by
  obtain ⟨_, _, _, h⟩ := raise_frame d e c a b; rw [h]
@[simp] theorem raise_hearth (d : Device) (e : Env) (c a b : Nat) : (d.raise e c a b).hearth = d.hearth := by
  obtain ⟨_, _, _, h⟩ := raise_frame d e c a b; rw [h]
@[simp] theorem raise_free (d : Device) (e : Env) (c a b : Nat) : (d.raise e c a b).free = d.free := by
  obtain ⟨_, _, _, h⟩ := raise_frame d e c a b; rw [h]

/-- A head doorbell changes its ring (R25). -/
theorem moveHead_frame (d : Device) (e : Env) (k : RingKind) (n v : Nat) :
    ∃ x_cq x_ts x_eq, d.moveHead e k n v = { d with cq := x_cq, ts := x_ts, eq := x_eq } := by
  simp only [Device.moveHead]
  split <;> (cases k <;> exact ⟨_, _, _, rfl⟩)

@[simp] theorem moveHead_mode (d : Device) (e : Env) (k : RingKind) (n v : Nat) : (d.moveHead e k n v).mode = d.mode := by
  obtain ⟨_, _, _, h⟩ := moveHead_frame d e k n v; rw [h]
@[simp] theorem moveHead_host (d : Device) (e : Env) (k : RingKind) (n v : Nat) : (d.moveHead e k n v).host = d.host := by
  obtain ⟨_, _, _, h⟩ := moveHead_frame d e k n v; rw [h]
@[simp] theorem moveHead_lp (d : Device) (e : Env) (k : RingKind) (n v : Nat) : (d.moveHead e k n v).lp = d.lp := by
  obtain ⟨_, _, _, h⟩ := moveHead_frame d e k n v; rw [h]
@[simp] theorem moveHead_lpBad (d : Device) (e : Env) (k : RingKind) (n v : Nat) : (d.moveHead e k n v).lpBad = d.lpBad := by
  obtain ⟨_, _, _, h⟩ := moveHead_frame d e k n v; rw [h]
@[simp] theorem moveHead_loaf (d : Device) (e : Env) (k : RingKind) (n v : Nat) : (d.moveHead e k n v).loaf = d.loaf := by
  obtain ⟨_, _, _, h⟩ := moveHead_frame d e k n v; rw [h]
@[simp] theorem moveHead_jobMem (d : Device) (e : Env) (k : RingKind) (n v : Nat) : (d.moveHead e k n v).jobMem = d.jobMem := by
  obtain ⟨_, _, _, h⟩ := moveHead_frame d e k n v; rw [h]
@[simp] theorem moveHead_hif (d : Device) (e : Env) (k : RingKind) (n v : Nat) : (d.moveHead e k n v).hif = d.hif := by
  obtain ⟨_, _, _, h⟩ := moveHead_frame d e k n v; rw [h]
@[simp] theorem moveHead_sq (d : Device) (e : Env) (k : RingKind) (n v : Nat) : (d.moveHead e k n v).sq = d.sq := by
  obtain ⟨_, _, _, h⟩ := moveHead_frame d e k n v; rw [h]
@[simp] theorem moveHead_fetched (d : Device) (e : Env) (k : RingKind) (n v : Nat) : (d.moveHead e k n v).fetched = d.fetched := by
  obtain ⟨_, _, _, h⟩ := moveHead_frame d e k n v; rw [h]
@[simp] theorem moveHead_inflight (d : Device) (e : Env) (k : RingKind) (n v : Nat) : (d.moveHead e k n v).inflight = d.inflight := by
  obtain ⟨_, _, _, h⟩ := moveHead_frame d e k n v; rw [h]
@[simp] theorem moveHead_nextSeq (d : Device) (e : Env) (k : RingKind) (n v : Nat) : (d.moveHead e k n v).nextSeq = d.nextSeq := by
  obtain ⟨_, _, _, h⟩ := moveHead_frame d e k n v; rw [h]
@[simp] theorem moveHead_resync (d : Device) (e : Env) (k : RingKind) (n v : Nat) : (d.moveHead e k n v).resync = d.resync := by
  obtain ⟨_, _, _, h⟩ := moveHead_frame d e k n v; rw [h]
@[simp] theorem moveHead_resyncDb (d : Device) (e : Env) (k : RingKind) (n v : Nat) : (d.moveHead e k n v).resyncDb = d.resyncDb := by
  obtain ⟨_, _, _, h⟩ := moveHead_frame d e k n v; rw [h]
@[simp] theorem moveHead_reqs (d : Device) (e : Env) (k : RingKind) (n v : Nat) : (d.moveHead e k n v).reqs = d.reqs := by
  obtain ⟨_, _, _, h⟩ := moveHead_frame d e k n v; rw [h]
@[simp] theorem moveHead_fresh (d : Device) (e : Env) (k : RingKind) (n v : Nat) : (d.moveHead e k n v).fresh = d.fresh := by
  obtain ⟨_, _, _, h⟩ := moveHead_frame d e k n v; rw [h]
@[simp] theorem moveHead_freed (d : Device) (e : Env) (k : RingKind) (n v : Nat) : (d.moveHead e k n v).freed = d.freed := by
  obtain ⟨_, _, _, h⟩ := moveHead_frame d e k n v; rw [h]
@[simp] theorem moveHead_ctxs (d : Device) (e : Env) (k : RingKind) (n v : Nat) : (d.moveHead e k n v).ctxs = d.ctxs := by
  obtain ⟨_, _, _, h⟩ := moveHead_frame d e k n v; rw [h]
@[simp] theorem moveHead_blocks (d : Device) (e : Env) (k : RingKind) (n v : Nat) : (d.moveHead e k n v).blocks = d.blocks := by
  obtain ⟨_, _, _, h⟩ := moveHead_frame d e k n v; rw [h]
@[simp] theorem moveHead_kn (d : Device) (e : Env) (k : RingKind) (n v : Nat) : (d.moveHead e k n v).kn = d.kn := by
  obtain ⟨_, _, _, h⟩ := moveHead_frame d e k n v; rw [h]
@[simp] theorem moveHead_recipes (d : Device) (e : Env) (k : RingKind) (n v : Nat) : (d.moveHead e k n v).recipes = d.recipes := by
  obtain ⟨_, _, _, h⟩ := moveHead_frame d e k n v; rw [h]
@[simp] theorem moveHead_adapters (d : Device) (e : Env) (k : RingKind) (n v : Nat) : (d.moveHead e k n v).adapters = d.adapters := by
  obtain ⟨_, _, _, h⟩ := moveHead_frame d e k n v; rw [h]
@[simp] theorem moveHead_grammars (d : Device) (e : Env) (k : RingKind) (n v : Nat) : (d.moveHead e k n v).grammars = d.grammars := by
  obtain ⟨_, _, _, h⟩ := moveHead_frame d e k n v; rw [h]
@[simp] theorem moveHead_frames (d : Device) (e : Env) (k : RingKind) (n v : Nat) : (d.moveHead e k n v).frames = d.frames := by
  obtain ⟨_, _, _, h⟩ := moveHead_frame d e k n v; rw [h]
@[simp] theorem moveHead_health (d : Device) (e : Env) (k : RingKind) (n v : Nat) : (d.moveHead e k n v).health = d.health := by
  obtain ⟨_, _, _, h⟩ := moveHead_frame d e k n v; rw [h]
@[simp] theorem moveHead_oven (d : Device) (e : Env) (k : RingKind) (n v : Nat) : (d.moveHead e k n v).oven = d.oven := by
  obtain ⟨_, _, _, h⟩ := moveHead_frame d e k n v; rw [h]
@[simp] theorem moveHead_peel (d : Device) (e : Env) (k : RingKind) (n v : Nat) : (d.moveHead e k n v).peel = d.peel := by
  obtain ⟨_, _, _, h⟩ := moveHead_frame d e k n v; rw [h]
@[simp] theorem moveHead_mill (d : Device) (e : Env) (k : RingKind) (n v : Nat) : (d.moveHead e k n v).mill = d.mill := by
  obtain ⟨_, _, _, h⟩ := moveHead_frame d e k n v; rw [h]
@[simp] theorem moveHead_sift (d : Device) (e : Env) (k : RingKind) (n v : Nat) : (d.moveHead e k n v).sift = d.sift := by
  obtain ⟨_, _, _, h⟩ := moveHead_frame d e k n v; rw [h]
@[simp] theorem moveHead_pem (d : Device) (e : Env) (k : RingKind) (n v : Nat) : (d.moveHead e k n v).pem = d.pem := by
  obtain ⟨_, _, _, h⟩ := moveHead_frame d e k n v; rw [h]
@[simp] theorem moveHead_prf (d : Device) (e : Env) (k : RingKind) (n v : Nat) : (d.moveHead e k n v).prf = d.prf := by
  obtain ⟨_, _, _, h⟩ := moveHead_frame d e k n v; rw [h]
@[simp] theorem moveHead_dmp (d : Device) (e : Env) (k : RingKind) (n v : Nat) : (d.moveHead e k n v).dmp = d.dmp := by
  obtain ⟨_, _, _, h⟩ := moveHead_frame d e k n v; rw [h]
@[simp] theorem moveHead_hearth (d : Device) (e : Env) (k : RingKind) (n v : Nat) : (d.moveHead e k n v).hearth = d.hearth := by
  obtain ⟨_, _, _, h⟩ := moveHead_frame d e k n v; rw [h]
@[simp] theorem moveHead_free (d : Device) (e : Env) (k : RingKind) (n v : Nat) : (d.moveHead e k n v).free = d.free := by
  obtain ⟨_, _, _, h⟩ := moveHead_frame d e k n v; rw [h]

/-- Credits brought up to now: only an outlet's credits change (R372). -/
theorem settleOutlet_frame (d : Device) (e : Env) (p : Nat) :
    ∃ x_pem x_prf, d.settleOutlet e p = { d with pem := x_pem, prf := x_prf } := by
  simp only [Device.settleOutlet]
  split
  · exact ⟨d.pem, _, rfl⟩
  · exact ⟨_, d.prf, rfl⟩

@[simp] theorem settleOutlet_mode (d : Device) (e : Env) (p : Nat) : (d.settleOutlet e p).mode = d.mode := by
  obtain ⟨_, _, h⟩ := settleOutlet_frame d e p; rw [h]
@[simp] theorem settleOutlet_host (d : Device) (e : Env) (p : Nat) : (d.settleOutlet e p).host = d.host := by
  obtain ⟨_, _, h⟩ := settleOutlet_frame d e p; rw [h]
@[simp] theorem settleOutlet_lp (d : Device) (e : Env) (p : Nat) : (d.settleOutlet e p).lp = d.lp := by
  obtain ⟨_, _, h⟩ := settleOutlet_frame d e p; rw [h]
@[simp] theorem settleOutlet_lpBad (d : Device) (e : Env) (p : Nat) : (d.settleOutlet e p).lpBad = d.lpBad := by
  obtain ⟨_, _, h⟩ := settleOutlet_frame d e p; rw [h]
@[simp] theorem settleOutlet_loaf (d : Device) (e : Env) (p : Nat) : (d.settleOutlet e p).loaf = d.loaf := by
  obtain ⟨_, _, h⟩ := settleOutlet_frame d e p; rw [h]
@[simp] theorem settleOutlet_jobMem (d : Device) (e : Env) (p : Nat) : (d.settleOutlet e p).jobMem = d.jobMem := by
  obtain ⟨_, _, h⟩ := settleOutlet_frame d e p; rw [h]
@[simp] theorem settleOutlet_hif (d : Device) (e : Env) (p : Nat) : (d.settleOutlet e p).hif = d.hif := by
  obtain ⟨_, _, h⟩ := settleOutlet_frame d e p; rw [h]
@[simp] theorem settleOutlet_sq (d : Device) (e : Env) (p : Nat) : (d.settleOutlet e p).sq = d.sq := by
  obtain ⟨_, _, h⟩ := settleOutlet_frame d e p; rw [h]
@[simp] theorem settleOutlet_cq (d : Device) (e : Env) (p : Nat) : (d.settleOutlet e p).cq = d.cq := by
  obtain ⟨_, _, h⟩ := settleOutlet_frame d e p; rw [h]
@[simp] theorem settleOutlet_ts (d : Device) (e : Env) (p : Nat) : (d.settleOutlet e p).ts = d.ts := by
  obtain ⟨_, _, h⟩ := settleOutlet_frame d e p; rw [h]
@[simp] theorem settleOutlet_eq (d : Device) (e : Env) (p : Nat) : (d.settleOutlet e p).eq = d.eq := by
  obtain ⟨_, _, h⟩ := settleOutlet_frame d e p; rw [h]
@[simp] theorem settleOutlet_fetched (d : Device) (e : Env) (p : Nat) : (d.settleOutlet e p).fetched = d.fetched := by
  obtain ⟨_, _, h⟩ := settleOutlet_frame d e p; rw [h]
@[simp] theorem settleOutlet_inflight (d : Device) (e : Env) (p : Nat) : (d.settleOutlet e p).inflight = d.inflight := by
  obtain ⟨_, _, h⟩ := settleOutlet_frame d e p; rw [h]
@[simp] theorem settleOutlet_nextSeq (d : Device) (e : Env) (p : Nat) : (d.settleOutlet e p).nextSeq = d.nextSeq := by
  obtain ⟨_, _, h⟩ := settleOutlet_frame d e p; rw [h]
@[simp] theorem settleOutlet_resync (d : Device) (e : Env) (p : Nat) : (d.settleOutlet e p).resync = d.resync := by
  obtain ⟨_, _, h⟩ := settleOutlet_frame d e p; rw [h]
@[simp] theorem settleOutlet_resyncDb (d : Device) (e : Env) (p : Nat) : (d.settleOutlet e p).resyncDb = d.resyncDb := by
  obtain ⟨_, _, h⟩ := settleOutlet_frame d e p; rw [h]
@[simp] theorem settleOutlet_reqs (d : Device) (e : Env) (p : Nat) : (d.settleOutlet e p).reqs = d.reqs := by
  obtain ⟨_, _, h⟩ := settleOutlet_frame d e p; rw [h]
@[simp] theorem settleOutlet_fresh (d : Device) (e : Env) (p : Nat) : (d.settleOutlet e p).fresh = d.fresh := by
  obtain ⟨_, _, h⟩ := settleOutlet_frame d e p; rw [h]
@[simp] theorem settleOutlet_freed (d : Device) (e : Env) (p : Nat) : (d.settleOutlet e p).freed = d.freed := by
  obtain ⟨_, _, h⟩ := settleOutlet_frame d e p; rw [h]
@[simp] theorem settleOutlet_ctxs (d : Device) (e : Env) (p : Nat) : (d.settleOutlet e p).ctxs = d.ctxs := by
  obtain ⟨_, _, h⟩ := settleOutlet_frame d e p; rw [h]
@[simp] theorem settleOutlet_blocks (d : Device) (e : Env) (p : Nat) : (d.settleOutlet e p).blocks = d.blocks := by
  obtain ⟨_, _, h⟩ := settleOutlet_frame d e p; rw [h]
@[simp] theorem settleOutlet_kn (d : Device) (e : Env) (p : Nat) : (d.settleOutlet e p).kn = d.kn := by
  obtain ⟨_, _, h⟩ := settleOutlet_frame d e p; rw [h]
@[simp] theorem settleOutlet_recipes (d : Device) (e : Env) (p : Nat) : (d.settleOutlet e p).recipes = d.recipes := by
  obtain ⟨_, _, h⟩ := settleOutlet_frame d e p; rw [h]
@[simp] theorem settleOutlet_adapters (d : Device) (e : Env) (p : Nat) : (d.settleOutlet e p).adapters = d.adapters := by
  obtain ⟨_, _, h⟩ := settleOutlet_frame d e p; rw [h]
@[simp] theorem settleOutlet_grammars (d : Device) (e : Env) (p : Nat) : (d.settleOutlet e p).grammars = d.grammars := by
  obtain ⟨_, _, h⟩ := settleOutlet_frame d e p; rw [h]
@[simp] theorem settleOutlet_frames (d : Device) (e : Env) (p : Nat) : (d.settleOutlet e p).frames = d.frames := by
  obtain ⟨_, _, h⟩ := settleOutlet_frame d e p; rw [h]
@[simp] theorem settleOutlet_health (d : Device) (e : Env) (p : Nat) : (d.settleOutlet e p).health = d.health := by
  obtain ⟨_, _, h⟩ := settleOutlet_frame d e p; rw [h]
@[simp] theorem settleOutlet_oven (d : Device) (e : Env) (p : Nat) : (d.settleOutlet e p).oven = d.oven := by
  obtain ⟨_, _, h⟩ := settleOutlet_frame d e p; rw [h]
@[simp] theorem settleOutlet_peel (d : Device) (e : Env) (p : Nat) : (d.settleOutlet e p).peel = d.peel := by
  obtain ⟨_, _, h⟩ := settleOutlet_frame d e p; rw [h]
@[simp] theorem settleOutlet_mill (d : Device) (e : Env) (p : Nat) : (d.settleOutlet e p).mill = d.mill := by
  obtain ⟨_, _, h⟩ := settleOutlet_frame d e p; rw [h]
@[simp] theorem settleOutlet_sift (d : Device) (e : Env) (p : Nat) : (d.settleOutlet e p).sift = d.sift := by
  obtain ⟨_, _, h⟩ := settleOutlet_frame d e p; rw [h]
@[simp] theorem settleOutlet_dmp (d : Device) (e : Env) (p : Nat) : (d.settleOutlet e p).dmp = d.dmp := by
  obtain ⟨_, _, h⟩ := settleOutlet_frame d e p; rw [h]
@[simp] theorem settleOutlet_hearth (d : Device) (e : Env) (p : Nat) : (d.settleOutlet e p).hearth = d.hearth := by
  obtain ⟨_, _, h⟩ := settleOutlet_frame d e p; rw [h]
@[simp] theorem settleOutlet_free (d : Device) (e : Env) (p : Nat) : (d.settleOutlet e p).free = d.free := by
  obtain ⟨_, _, h⟩ := settleOutlet_frame d e p; rw [h]

/-- Records formed join the host outlet's queue (R378). -/
theorem emit_frame (d : Device) (e : Env) (i : Nat) (rs : List Rec) :
    ∃ x_prf, d.emit e i rs = { d with prf := x_prf } := by
  simp only [Device.emit]
  split
  · exact ⟨d.prf, rfl⟩
  · exact ⟨_, rfl⟩

@[simp] theorem emit_mode (d : Device) (e : Env) (i : Nat) (rs : List Rec) : (d.emit e i rs).mode = d.mode := by
  obtain ⟨_, h⟩ := emit_frame d e i rs; rw [h]
@[simp] theorem emit_host (d : Device) (e : Env) (i : Nat) (rs : List Rec) : (d.emit e i rs).host = d.host := by
  obtain ⟨_, h⟩ := emit_frame d e i rs; rw [h]
@[simp] theorem emit_lp (d : Device) (e : Env) (i : Nat) (rs : List Rec) : (d.emit e i rs).lp = d.lp := by
  obtain ⟨_, h⟩ := emit_frame d e i rs; rw [h]
@[simp] theorem emit_lpBad (d : Device) (e : Env) (i : Nat) (rs : List Rec) : (d.emit e i rs).lpBad = d.lpBad := by
  obtain ⟨_, h⟩ := emit_frame d e i rs; rw [h]
@[simp] theorem emit_loaf (d : Device) (e : Env) (i : Nat) (rs : List Rec) : (d.emit e i rs).loaf = d.loaf := by
  obtain ⟨_, h⟩ := emit_frame d e i rs; rw [h]
@[simp] theorem emit_jobMem (d : Device) (e : Env) (i : Nat) (rs : List Rec) : (d.emit e i rs).jobMem = d.jobMem := by
  obtain ⟨_, h⟩ := emit_frame d e i rs; rw [h]
@[simp] theorem emit_hif (d : Device) (e : Env) (i : Nat) (rs : List Rec) : (d.emit e i rs).hif = d.hif := by
  obtain ⟨_, h⟩ := emit_frame d e i rs; rw [h]
@[simp] theorem emit_sq (d : Device) (e : Env) (i : Nat) (rs : List Rec) : (d.emit e i rs).sq = d.sq := by
  obtain ⟨_, h⟩ := emit_frame d e i rs; rw [h]
@[simp] theorem emit_cq (d : Device) (e : Env) (i : Nat) (rs : List Rec) : (d.emit e i rs).cq = d.cq := by
  obtain ⟨_, h⟩ := emit_frame d e i rs; rw [h]
@[simp] theorem emit_ts (d : Device) (e : Env) (i : Nat) (rs : List Rec) : (d.emit e i rs).ts = d.ts := by
  obtain ⟨_, h⟩ := emit_frame d e i rs; rw [h]
@[simp] theorem emit_eq (d : Device) (e : Env) (i : Nat) (rs : List Rec) : (d.emit e i rs).eq = d.eq := by
  obtain ⟨_, h⟩ := emit_frame d e i rs; rw [h]
@[simp] theorem emit_fetched (d : Device) (e : Env) (i : Nat) (rs : List Rec) : (d.emit e i rs).fetched = d.fetched := by
  obtain ⟨_, h⟩ := emit_frame d e i rs; rw [h]
@[simp] theorem emit_inflight (d : Device) (e : Env) (i : Nat) (rs : List Rec) : (d.emit e i rs).inflight = d.inflight := by
  obtain ⟨_, h⟩ := emit_frame d e i rs; rw [h]
@[simp] theorem emit_nextSeq (d : Device) (e : Env) (i : Nat) (rs : List Rec) : (d.emit e i rs).nextSeq = d.nextSeq := by
  obtain ⟨_, h⟩ := emit_frame d e i rs; rw [h]
@[simp] theorem emit_resync (d : Device) (e : Env) (i : Nat) (rs : List Rec) : (d.emit e i rs).resync = d.resync := by
  obtain ⟨_, h⟩ := emit_frame d e i rs; rw [h]
@[simp] theorem emit_resyncDb (d : Device) (e : Env) (i : Nat) (rs : List Rec) : (d.emit e i rs).resyncDb = d.resyncDb := by
  obtain ⟨_, h⟩ := emit_frame d e i rs; rw [h]
@[simp] theorem emit_reqs (d : Device) (e : Env) (i : Nat) (rs : List Rec) : (d.emit e i rs).reqs = d.reqs := by
  obtain ⟨_, h⟩ := emit_frame d e i rs; rw [h]
@[simp] theorem emit_fresh (d : Device) (e : Env) (i : Nat) (rs : List Rec) : (d.emit e i rs).fresh = d.fresh := by
  obtain ⟨_, h⟩ := emit_frame d e i rs; rw [h]
@[simp] theorem emit_freed (d : Device) (e : Env) (i : Nat) (rs : List Rec) : (d.emit e i rs).freed = d.freed := by
  obtain ⟨_, h⟩ := emit_frame d e i rs; rw [h]
@[simp] theorem emit_ctxs (d : Device) (e : Env) (i : Nat) (rs : List Rec) : (d.emit e i rs).ctxs = d.ctxs := by
  obtain ⟨_, h⟩ := emit_frame d e i rs; rw [h]
@[simp] theorem emit_blocks (d : Device) (e : Env) (i : Nat) (rs : List Rec) : (d.emit e i rs).blocks = d.blocks := by
  obtain ⟨_, h⟩ := emit_frame d e i rs; rw [h]
@[simp] theorem emit_kn (d : Device) (e : Env) (i : Nat) (rs : List Rec) : (d.emit e i rs).kn = d.kn := by
  obtain ⟨_, h⟩ := emit_frame d e i rs; rw [h]
@[simp] theorem emit_recipes (d : Device) (e : Env) (i : Nat) (rs : List Rec) : (d.emit e i rs).recipes = d.recipes := by
  obtain ⟨_, h⟩ := emit_frame d e i rs; rw [h]
@[simp] theorem emit_adapters (d : Device) (e : Env) (i : Nat) (rs : List Rec) : (d.emit e i rs).adapters = d.adapters := by
  obtain ⟨_, h⟩ := emit_frame d e i rs; rw [h]
@[simp] theorem emit_grammars (d : Device) (e : Env) (i : Nat) (rs : List Rec) : (d.emit e i rs).grammars = d.grammars := by
  obtain ⟨_, h⟩ := emit_frame d e i rs; rw [h]
@[simp] theorem emit_frames (d : Device) (e : Env) (i : Nat) (rs : List Rec) : (d.emit e i rs).frames = d.frames := by
  obtain ⟨_, h⟩ := emit_frame d e i rs; rw [h]
@[simp] theorem emit_health (d : Device) (e : Env) (i : Nat) (rs : List Rec) : (d.emit e i rs).health = d.health := by
  obtain ⟨_, h⟩ := emit_frame d e i rs; rw [h]
@[simp] theorem emit_oven (d : Device) (e : Env) (i : Nat) (rs : List Rec) : (d.emit e i rs).oven = d.oven := by
  obtain ⟨_, h⟩ := emit_frame d e i rs; rw [h]
@[simp] theorem emit_peel (d : Device) (e : Env) (i : Nat) (rs : List Rec) : (d.emit e i rs).peel = d.peel := by
  obtain ⟨_, h⟩ := emit_frame d e i rs; rw [h]
@[simp] theorem emit_mill (d : Device) (e : Env) (i : Nat) (rs : List Rec) : (d.emit e i rs).mill = d.mill := by
  obtain ⟨_, h⟩ := emit_frame d e i rs; rw [h]
@[simp] theorem emit_sift (d : Device) (e : Env) (i : Nat) (rs : List Rec) : (d.emit e i rs).sift = d.sift := by
  obtain ⟨_, h⟩ := emit_frame d e i rs; rw [h]
@[simp] theorem emit_pem (d : Device) (e : Env) (i : Nat) (rs : List Rec) : (d.emit e i rs).pem = d.pem := by
  obtain ⟨_, h⟩ := emit_frame d e i rs; rw [h]
@[simp] theorem emit_dmp (d : Device) (e : Env) (i : Nat) (rs : List Rec) : (d.emit e i rs).dmp = d.dmp := by
  obtain ⟨_, h⟩ := emit_frame d e i rs; rw [h]
@[simp] theorem emit_hearth (d : Device) (e : Env) (i : Nat) (rs : List Rec) : (d.emit e i rs).hearth = d.hearth := by
  obtain ⟨_, h⟩ := emit_frame d e i rs; rw [h]
@[simp] theorem emit_free (d : Device) (e : Env) (i : Nat) (rs : List Rec) : (d.emit e i rs).free = d.free := by
  obtain ⟨_, h⟩ := emit_frame d e i rs; rw [h]

/-- A request's last record is formed and queued (R314), and a held prefix counts as one U+FFFD. -/
theorem finishOut_frame (d : Device) (e : Env) (i : Nat) :
    ∃ x_reqs x_prf x_mill, d.finishOut e i = { d with reqs := x_reqs, prf := x_prf, mill := x_mill } := by
  simp only [Device.finishOut]
  split
  · exact ⟨d.reqs, d.prf, d.mill, rfl⟩
  · obtain ⟨o, h⟩ := emit_frame ((d.noteReplaced (b2n (!(d.req i).tokenMode && !(d.req i).out.held.isEmpty))).modReq i (fun r => { r with out :=
      ((d.req i).out.finish (d.req i).tokenMode e.now (d.req i).genStart (d.req i).logged).1 })) e i
      ((d.req i).out.finish (d.req i).tokenMode e.now (d.req i).genStart (d.req i).logged).2
    exact ⟨_, o, _, h⟩

@[simp] theorem finishOut_mode (d : Device) (e : Env) (i : Nat) : (d.finishOut e i).mode = d.mode := by
  obtain ⟨_, _, _, h⟩ := finishOut_frame d e i; rw [h]
@[simp] theorem finishOut_host (d : Device) (e : Env) (i : Nat) : (d.finishOut e i).host = d.host := by
  obtain ⟨_, _, _, h⟩ := finishOut_frame d e i; rw [h]
@[simp] theorem finishOut_lp (d : Device) (e : Env) (i : Nat) : (d.finishOut e i).lp = d.lp := by
  obtain ⟨_, _, _, h⟩ := finishOut_frame d e i; rw [h]
@[simp] theorem finishOut_lpBad (d : Device) (e : Env) (i : Nat) : (d.finishOut e i).lpBad = d.lpBad := by
  obtain ⟨_, _, _, h⟩ := finishOut_frame d e i; rw [h]
@[simp] theorem finishOut_loaf (d : Device) (e : Env) (i : Nat) : (d.finishOut e i).loaf = d.loaf := by
  obtain ⟨_, _, _, h⟩ := finishOut_frame d e i; rw [h]
@[simp] theorem finishOut_jobMem (d : Device) (e : Env) (i : Nat) : (d.finishOut e i).jobMem = d.jobMem := by
  obtain ⟨_, _, _, h⟩ := finishOut_frame d e i; rw [h]
@[simp] theorem finishOut_hif (d : Device) (e : Env) (i : Nat) : (d.finishOut e i).hif = d.hif := by
  obtain ⟨_, _, _, h⟩ := finishOut_frame d e i; rw [h]
@[simp] theorem finishOut_sq (d : Device) (e : Env) (i : Nat) : (d.finishOut e i).sq = d.sq := by
  obtain ⟨_, _, _, h⟩ := finishOut_frame d e i; rw [h]
@[simp] theorem finishOut_cq (d : Device) (e : Env) (i : Nat) : (d.finishOut e i).cq = d.cq := by
  obtain ⟨_, _, _, h⟩ := finishOut_frame d e i; rw [h]
@[simp] theorem finishOut_ts (d : Device) (e : Env) (i : Nat) : (d.finishOut e i).ts = d.ts := by
  obtain ⟨_, _, _, h⟩ := finishOut_frame d e i; rw [h]
@[simp] theorem finishOut_eq (d : Device) (e : Env) (i : Nat) : (d.finishOut e i).eq = d.eq := by
  obtain ⟨_, _, _, h⟩ := finishOut_frame d e i; rw [h]
@[simp] theorem finishOut_fetched (d : Device) (e : Env) (i : Nat) : (d.finishOut e i).fetched = d.fetched := by
  obtain ⟨_, _, _, h⟩ := finishOut_frame d e i; rw [h]
@[simp] theorem finishOut_inflight (d : Device) (e : Env) (i : Nat) : (d.finishOut e i).inflight = d.inflight := by
  obtain ⟨_, _, _, h⟩ := finishOut_frame d e i; rw [h]
@[simp] theorem finishOut_nextSeq (d : Device) (e : Env) (i : Nat) : (d.finishOut e i).nextSeq = d.nextSeq := by
  obtain ⟨_, _, _, h⟩ := finishOut_frame d e i; rw [h]
@[simp] theorem finishOut_resync (d : Device) (e : Env) (i : Nat) : (d.finishOut e i).resync = d.resync := by
  obtain ⟨_, _, _, h⟩ := finishOut_frame d e i; rw [h]
@[simp] theorem finishOut_resyncDb (d : Device) (e : Env) (i : Nat) : (d.finishOut e i).resyncDb = d.resyncDb := by
  obtain ⟨_, _, _, h⟩ := finishOut_frame d e i; rw [h]
@[simp] theorem finishOut_fresh (d : Device) (e : Env) (i : Nat) : (d.finishOut e i).fresh = d.fresh := by
  obtain ⟨_, _, _, h⟩ := finishOut_frame d e i; rw [h]
@[simp] theorem finishOut_freed (d : Device) (e : Env) (i : Nat) : (d.finishOut e i).freed = d.freed := by
  obtain ⟨_, _, _, h⟩ := finishOut_frame d e i; rw [h]
@[simp] theorem finishOut_ctxs (d : Device) (e : Env) (i : Nat) : (d.finishOut e i).ctxs = d.ctxs := by
  obtain ⟨_, _, _, h⟩ := finishOut_frame d e i; rw [h]
@[simp] theorem finishOut_blocks (d : Device) (e : Env) (i : Nat) : (d.finishOut e i).blocks = d.blocks := by
  obtain ⟨_, _, _, h⟩ := finishOut_frame d e i; rw [h]
@[simp] theorem finishOut_kn (d : Device) (e : Env) (i : Nat) : (d.finishOut e i).kn = d.kn := by
  obtain ⟨_, _, _, h⟩ := finishOut_frame d e i; rw [h]
@[simp] theorem finishOut_recipes (d : Device) (e : Env) (i : Nat) : (d.finishOut e i).recipes = d.recipes := by
  obtain ⟨_, _, _, h⟩ := finishOut_frame d e i; rw [h]
@[simp] theorem finishOut_adapters (d : Device) (e : Env) (i : Nat) : (d.finishOut e i).adapters = d.adapters := by
  obtain ⟨_, _, _, h⟩ := finishOut_frame d e i; rw [h]
@[simp] theorem finishOut_grammars (d : Device) (e : Env) (i : Nat) : (d.finishOut e i).grammars = d.grammars := by
  obtain ⟨_, _, _, h⟩ := finishOut_frame d e i; rw [h]
@[simp] theorem finishOut_frames (d : Device) (e : Env) (i : Nat) : (d.finishOut e i).frames = d.frames := by
  obtain ⟨_, _, _, h⟩ := finishOut_frame d e i; rw [h]
@[simp] theorem finishOut_health (d : Device) (e : Env) (i : Nat) : (d.finishOut e i).health = d.health := by
  obtain ⟨_, _, _, h⟩ := finishOut_frame d e i; rw [h]
@[simp] theorem finishOut_oven (d : Device) (e : Env) (i : Nat) : (d.finishOut e i).oven = d.oven := by
  obtain ⟨_, _, _, h⟩ := finishOut_frame d e i; rw [h]
@[simp] theorem finishOut_peel (d : Device) (e : Env) (i : Nat) : (d.finishOut e i).peel = d.peel := by
  obtain ⟨_, _, _, h⟩ := finishOut_frame d e i; rw [h]
@[simp] theorem finishOut_sift (d : Device) (e : Env) (i : Nat) : (d.finishOut e i).sift = d.sift := by
  obtain ⟨_, _, _, h⟩ := finishOut_frame d e i; rw [h]
@[simp] theorem finishOut_pem (d : Device) (e : Env) (i : Nat) : (d.finishOut e i).pem = d.pem := by
  obtain ⟨_, _, _, h⟩ := finishOut_frame d e i; rw [h]
@[simp] theorem finishOut_dmp (d : Device) (e : Env) (i : Nat) : (d.finishOut e i).dmp = d.dmp := by
  obtain ⟨_, _, _, h⟩ := finishOut_frame d e i; rw [h]
@[simp] theorem finishOut_hearth (d : Device) (e : Env) (i : Nat) : (d.finishOut e i).hearth = d.hearth := by
  obtain ⟨_, _, _, h⟩ := finishOut_frame d e i; rw [h]
@[simp] theorem finishOut_free (d : Device) (e : Env) (i : Nat) : (d.finishOut e i).free = d.free := by
  obtain ⟨_, _, _, h⟩ := finishOut_frame d e i; rw [h]

/-- A wait charged to its tenant (R216). -/
theorem charge_frame (d : Device) (e : Env) (i : Nat) :
    ∃ x_reqs x_kn, d.charge e i = { d with reqs := x_reqs, kn := x_kn } := by
  have key : ∀ (a b : Bool) (f g : Tenant → Tenant), ∃ r k,
      ((if a = true then d.modTenant (d.req i).tenant f else if b = true then d.modTenant (d.req i).tenant g else d).modReq i
        (fun r => { r with since := e.now })) = { d with reqs := r, kn := k } := by
    intro a b f g
    cases a <;> cases b <;> exact ⟨_, _, rfl⟩
  exact key _ _ _ _


/-- A change of a request's state (R61). -/
theorem setState_frame (d : Device) (e : Env) (i : Nat) (st : ReqState) :
    ∃ x_reqs x_kn, d.setState e i st = { d with reqs := x_reqs, kn := x_kn } := by
  obtain ⟨r, k, h⟩ := charge_frame d e i
  simp only [Device.setState, h]
  exact ⟨_, _, rfl⟩

@[simp] theorem setState_mode (d : Device) (e : Env) (i : Nat) (st : ReqState) : (d.setState e i st).mode = d.mode := by
  obtain ⟨_, _, h⟩ := setState_frame d e i st; rw [h]
@[simp] theorem setState_host (d : Device) (e : Env) (i : Nat) (st : ReqState) : (d.setState e i st).host = d.host := by
  obtain ⟨_, _, h⟩ := setState_frame d e i st; rw [h]
@[simp] theorem setState_lp (d : Device) (e : Env) (i : Nat) (st : ReqState) : (d.setState e i st).lp = d.lp := by
  obtain ⟨_, _, h⟩ := setState_frame d e i st; rw [h]
@[simp] theorem setState_lpBad (d : Device) (e : Env) (i : Nat) (st : ReqState) : (d.setState e i st).lpBad = d.lpBad := by
  obtain ⟨_, _, h⟩ := setState_frame d e i st; rw [h]
@[simp] theorem setState_loaf (d : Device) (e : Env) (i : Nat) (st : ReqState) : (d.setState e i st).loaf = d.loaf := by
  obtain ⟨_, _, h⟩ := setState_frame d e i st; rw [h]
@[simp] theorem setState_jobMem (d : Device) (e : Env) (i : Nat) (st : ReqState) : (d.setState e i st).jobMem = d.jobMem := by
  obtain ⟨_, _, h⟩ := setState_frame d e i st; rw [h]
@[simp] theorem setState_hif (d : Device) (e : Env) (i : Nat) (st : ReqState) : (d.setState e i st).hif = d.hif := by
  obtain ⟨_, _, h⟩ := setState_frame d e i st; rw [h]
@[simp] theorem setState_sq (d : Device) (e : Env) (i : Nat) (st : ReqState) : (d.setState e i st).sq = d.sq := by
  obtain ⟨_, _, h⟩ := setState_frame d e i st; rw [h]
@[simp] theorem setState_cq (d : Device) (e : Env) (i : Nat) (st : ReqState) : (d.setState e i st).cq = d.cq := by
  obtain ⟨_, _, h⟩ := setState_frame d e i st; rw [h]
@[simp] theorem setState_ts (d : Device) (e : Env) (i : Nat) (st : ReqState) : (d.setState e i st).ts = d.ts := by
  obtain ⟨_, _, h⟩ := setState_frame d e i st; rw [h]
@[simp] theorem setState_eq (d : Device) (e : Env) (i : Nat) (st : ReqState) : (d.setState e i st).eq = d.eq := by
  obtain ⟨_, _, h⟩ := setState_frame d e i st; rw [h]
@[simp] theorem setState_fetched (d : Device) (e : Env) (i : Nat) (st : ReqState) : (d.setState e i st).fetched = d.fetched := by
  obtain ⟨_, _, h⟩ := setState_frame d e i st; rw [h]
@[simp] theorem setState_inflight (d : Device) (e : Env) (i : Nat) (st : ReqState) : (d.setState e i st).inflight = d.inflight := by
  obtain ⟨_, _, h⟩ := setState_frame d e i st; rw [h]
@[simp] theorem setState_nextSeq (d : Device) (e : Env) (i : Nat) (st : ReqState) : (d.setState e i st).nextSeq = d.nextSeq := by
  obtain ⟨_, _, h⟩ := setState_frame d e i st; rw [h]
@[simp] theorem setState_resync (d : Device) (e : Env) (i : Nat) (st : ReqState) : (d.setState e i st).resync = d.resync := by
  obtain ⟨_, _, h⟩ := setState_frame d e i st; rw [h]
@[simp] theorem setState_resyncDb (d : Device) (e : Env) (i : Nat) (st : ReqState) : (d.setState e i st).resyncDb = d.resyncDb := by
  obtain ⟨_, _, h⟩ := setState_frame d e i st; rw [h]
@[simp] theorem setState_fresh (d : Device) (e : Env) (i : Nat) (st : ReqState) : (d.setState e i st).fresh = d.fresh := by
  obtain ⟨_, _, h⟩ := setState_frame d e i st; rw [h]
@[simp] theorem setState_freed (d : Device) (e : Env) (i : Nat) (st : ReqState) : (d.setState e i st).freed = d.freed := by
  obtain ⟨_, _, h⟩ := setState_frame d e i st; rw [h]
@[simp] theorem setState_ctxs (d : Device) (e : Env) (i : Nat) (st : ReqState) : (d.setState e i st).ctxs = d.ctxs := by
  obtain ⟨_, _, h⟩ := setState_frame d e i st; rw [h]
@[simp] theorem setState_blocks (d : Device) (e : Env) (i : Nat) (st : ReqState) : (d.setState e i st).blocks = d.blocks := by
  obtain ⟨_, _, h⟩ := setState_frame d e i st; rw [h]
@[simp] theorem setState_recipes (d : Device) (e : Env) (i : Nat) (st : ReqState) : (d.setState e i st).recipes = d.recipes := by
  obtain ⟨_, _, h⟩ := setState_frame d e i st; rw [h]
@[simp] theorem setState_adapters (d : Device) (e : Env) (i : Nat) (st : ReqState) : (d.setState e i st).adapters = d.adapters := by
  obtain ⟨_, _, h⟩ := setState_frame d e i st; rw [h]
@[simp] theorem setState_grammars (d : Device) (e : Env) (i : Nat) (st : ReqState) : (d.setState e i st).grammars = d.grammars := by
  obtain ⟨_, _, h⟩ := setState_frame d e i st; rw [h]
@[simp] theorem setState_frames (d : Device) (e : Env) (i : Nat) (st : ReqState) : (d.setState e i st).frames = d.frames := by
  obtain ⟨_, _, h⟩ := setState_frame d e i st; rw [h]
@[simp] theorem setState_health (d : Device) (e : Env) (i : Nat) (st : ReqState) : (d.setState e i st).health = d.health := by
  obtain ⟨_, _, h⟩ := setState_frame d e i st; rw [h]
@[simp] theorem setState_oven (d : Device) (e : Env) (i : Nat) (st : ReqState) : (d.setState e i st).oven = d.oven := by
  obtain ⟨_, _, h⟩ := setState_frame d e i st; rw [h]
@[simp] theorem setState_peel (d : Device) (e : Env) (i : Nat) (st : ReqState) : (d.setState e i st).peel = d.peel := by
  obtain ⟨_, _, h⟩ := setState_frame d e i st; rw [h]
@[simp] theorem setState_mill (d : Device) (e : Env) (i : Nat) (st : ReqState) : (d.setState e i st).mill = d.mill := by
  obtain ⟨_, _, h⟩ := setState_frame d e i st; rw [h]
@[simp] theorem setState_sift (d : Device) (e : Env) (i : Nat) (st : ReqState) : (d.setState e i st).sift = d.sift := by
  obtain ⟨_, _, h⟩ := setState_frame d e i st; rw [h]
@[simp] theorem setState_pem (d : Device) (e : Env) (i : Nat) (st : ReqState) : (d.setState e i st).pem = d.pem := by
  obtain ⟨_, _, h⟩ := setState_frame d e i st; rw [h]
@[simp] theorem setState_prf (d : Device) (e : Env) (i : Nat) (st : ReqState) : (d.setState e i st).prf = d.prf := by
  obtain ⟨_, _, h⟩ := setState_frame d e i st; rw [h]
@[simp] theorem setState_dmp (d : Device) (e : Env) (i : Nat) (st : ReqState) : (d.setState e i st).dmp = d.dmp := by
  obtain ⟨_, _, h⟩ := setState_frame d e i st; rw [h]
@[simp] theorem setState_hearth (d : Device) (e : Env) (i : Nat) (st : ReqState) : (d.setState e i st).hearth = d.hearth := by
  obtain ⟨_, _, h⟩ := setState_frame d e i st; rw [h]
@[simp] theorem setState_free (d : Device) (e : Env) (i : Nat) (st : ReqState) : (d.setState e i st).free = d.free := by
  obtain ⟨_, _, h⟩ := setState_frame d e i st; rw [h]

/-- A completion without a request entry is written or held (R31, R28). -/
theorem complete_frame (d : Device) (e : Env) (c : Completion) (hc : c.request = none) :
    ∃ x_host x_hif x_cq x_inflight, d.complete e c = { d with host := x_host, hif := x_hif, cq := x_cq, inflight := x_inflight } := by
  simp only [Device.complete]
  split
  · simp only [Device.writeCompletion, Device.finish, hc]
    obtain ⟨a, h, q, hp⟩ := putCq_frame d e (sqCq e c.ring) (c.bytes (d.sqr c.ring).head) (!(c.quiet && c.status == 0))
      (decide (c.status ≥ 0x40))
    rw [hp]
    exact ⟨_, _, _, _, rfl⟩
  · exact ⟨d.host, d.hif, _, d.inflight, rfl⟩

@[simp] theorem complete_mode (d : Device) (e : Env) (c : Completion) (hc : c.request = none) : (d.complete e c).mode = d.mode := by
  obtain ⟨_, _, _, _, h⟩ := complete_frame d e c hc; rw [h]
@[simp] theorem complete_lp (d : Device) (e : Env) (c : Completion) (hc : c.request = none) : (d.complete e c).lp = d.lp := by
  obtain ⟨_, _, _, _, h⟩ := complete_frame d e c hc; rw [h]
@[simp] theorem complete_lpBad (d : Device) (e : Env) (c : Completion) (hc : c.request = none) : (d.complete e c).lpBad = d.lpBad := by
  obtain ⟨_, _, _, _, h⟩ := complete_frame d e c hc; rw [h]
@[simp] theorem complete_loaf (d : Device) (e : Env) (c : Completion) (hc : c.request = none) : (d.complete e c).loaf = d.loaf := by
  obtain ⟨_, _, _, _, h⟩ := complete_frame d e c hc; rw [h]
@[simp] theorem complete_jobMem (d : Device) (e : Env) (c : Completion) (hc : c.request = none) : (d.complete e c).jobMem = d.jobMem := by
  obtain ⟨_, _, _, _, h⟩ := complete_frame d e c hc; rw [h]
@[simp] theorem complete_sq (d : Device) (e : Env) (c : Completion) (hc : c.request = none) : (d.complete e c).sq = d.sq := by
  obtain ⟨_, _, _, _, h⟩ := complete_frame d e c hc; rw [h]
@[simp] theorem complete_ts (d : Device) (e : Env) (c : Completion) (hc : c.request = none) : (d.complete e c).ts = d.ts := by
  obtain ⟨_, _, _, _, h⟩ := complete_frame d e c hc; rw [h]
@[simp] theorem complete_eq (d : Device) (e : Env) (c : Completion) (hc : c.request = none) : (d.complete e c).eq = d.eq := by
  obtain ⟨_, _, _, _, h⟩ := complete_frame d e c hc; rw [h]
@[simp] theorem complete_fetched (d : Device) (e : Env) (c : Completion) (hc : c.request = none) : (d.complete e c).fetched = d.fetched := by
  obtain ⟨_, _, _, _, h⟩ := complete_frame d e c hc; rw [h]
@[simp] theorem complete_nextSeq (d : Device) (e : Env) (c : Completion) (hc : c.request = none) : (d.complete e c).nextSeq = d.nextSeq := by
  obtain ⟨_, _, _, _, h⟩ := complete_frame d e c hc; rw [h]
@[simp] theorem complete_resync (d : Device) (e : Env) (c : Completion) (hc : c.request = none) : (d.complete e c).resync = d.resync := by
  obtain ⟨_, _, _, _, h⟩ := complete_frame d e c hc; rw [h]
@[simp] theorem complete_resyncDb (d : Device) (e : Env) (c : Completion) (hc : c.request = none) : (d.complete e c).resyncDb = d.resyncDb := by
  obtain ⟨_, _, _, _, h⟩ := complete_frame d e c hc; rw [h]
@[simp] theorem complete_reqs (d : Device) (e : Env) (c : Completion) (hc : c.request = none) : (d.complete e c).reqs = d.reqs := by
  obtain ⟨_, _, _, _, h⟩ := complete_frame d e c hc; rw [h]
@[simp] theorem complete_fresh (d : Device) (e : Env) (c : Completion) (hc : c.request = none) : (d.complete e c).fresh = d.fresh := by
  obtain ⟨_, _, _, _, h⟩ := complete_frame d e c hc; rw [h]
@[simp] theorem complete_freed (d : Device) (e : Env) (c : Completion) (hc : c.request = none) : (d.complete e c).freed = d.freed := by
  obtain ⟨_, _, _, _, h⟩ := complete_frame d e c hc; rw [h]
@[simp] theorem complete_ctxs (d : Device) (e : Env) (c : Completion) (hc : c.request = none) : (d.complete e c).ctxs = d.ctxs := by
  obtain ⟨_, _, _, _, h⟩ := complete_frame d e c hc; rw [h]
@[simp] theorem complete_blocks (d : Device) (e : Env) (c : Completion) (hc : c.request = none) : (d.complete e c).blocks = d.blocks := by
  obtain ⟨_, _, _, _, h⟩ := complete_frame d e c hc; rw [h]
@[simp] theorem complete_kn (d : Device) (e : Env) (c : Completion) (hc : c.request = none) : (d.complete e c).kn = d.kn := by
  obtain ⟨_, _, _, _, h⟩ := complete_frame d e c hc; rw [h]
@[simp] theorem complete_recipes (d : Device) (e : Env) (c : Completion) (hc : c.request = none) : (d.complete e c).recipes = d.recipes := by
  obtain ⟨_, _, _, _, h⟩ := complete_frame d e c hc; rw [h]
@[simp] theorem complete_adapters (d : Device) (e : Env) (c : Completion) (hc : c.request = none) : (d.complete e c).adapters = d.adapters := by
  obtain ⟨_, _, _, _, h⟩ := complete_frame d e c hc; rw [h]
@[simp] theorem complete_grammars (d : Device) (e : Env) (c : Completion) (hc : c.request = none) : (d.complete e c).grammars = d.grammars := by
  obtain ⟨_, _, _, _, h⟩ := complete_frame d e c hc; rw [h]
@[simp] theorem complete_frames (d : Device) (e : Env) (c : Completion) (hc : c.request = none) : (d.complete e c).frames = d.frames := by
  obtain ⟨_, _, _, _, h⟩ := complete_frame d e c hc; rw [h]
@[simp] theorem complete_health (d : Device) (e : Env) (c : Completion) (hc : c.request = none) : (d.complete e c).health = d.health := by
  obtain ⟨_, _, _, _, h⟩ := complete_frame d e c hc; rw [h]
@[simp] theorem complete_oven (d : Device) (e : Env) (c : Completion) (hc : c.request = none) : (d.complete e c).oven = d.oven := by
  obtain ⟨_, _, _, _, h⟩ := complete_frame d e c hc; rw [h]
@[simp] theorem complete_peel (d : Device) (e : Env) (c : Completion) (hc : c.request = none) : (d.complete e c).peel = d.peel := by
  obtain ⟨_, _, _, _, h⟩ := complete_frame d e c hc; rw [h]
@[simp] theorem complete_mill (d : Device) (e : Env) (c : Completion) (hc : c.request = none) : (d.complete e c).mill = d.mill := by
  obtain ⟨_, _, _, _, h⟩ := complete_frame d e c hc; rw [h]
@[simp] theorem complete_sift (d : Device) (e : Env) (c : Completion) (hc : c.request = none) : (d.complete e c).sift = d.sift := by
  obtain ⟨_, _, _, _, h⟩ := complete_frame d e c hc; rw [h]
@[simp] theorem complete_pem (d : Device) (e : Env) (c : Completion) (hc : c.request = none) : (d.complete e c).pem = d.pem := by
  obtain ⟨_, _, _, _, h⟩ := complete_frame d e c hc; rw [h]
@[simp] theorem complete_prf (d : Device) (e : Env) (c : Completion) (hc : c.request = none) : (d.complete e c).prf = d.prf := by
  obtain ⟨_, _, _, _, h⟩ := complete_frame d e c hc; rw [h]
@[simp] theorem complete_dmp (d : Device) (e : Env) (c : Completion) (hc : c.request = none) : (d.complete e c).dmp = d.dmp := by
  obtain ⟨_, _, _, _, h⟩ := complete_frame d e c hc; rw [h]
@[simp] theorem complete_hearth (d : Device) (e : Env) (c : Completion) (hc : c.request = none) : (d.complete e c).hearth = d.hearth := by
  obtain ⟨_, _, _, _, h⟩ := complete_frame d e c hc; rw [h]
@[simp] theorem complete_free (d : Device) (e : Env) (c : Completion) (hc : c.request = none) : (d.complete e c).free = d.free := by
  obtain ⟨_, _, _, _, h⟩ := complete_frame d e c hc; rw [h]

/-- The completion of a descriptor (R38). -/
theorem completeD_frame (d : Device) (e : Env) (f : Fetched) (st det res : Nat) :
    ∃ x_host x_hif x_cq x_inflight, d.completeD e f st det res = { d with host := x_host, hif := x_hif, cq := x_cq, inflight := x_inflight } := by
  simp only [Device.completeD]
  split
  · exact ⟨d.host, d.hif, d.cq, d.inflight, rfl⟩
  · exact complete_frame d e _ rfl

@[simp] theorem completeD_mode (d : Device) (e : Env) (f : Fetched) (st det res : Nat) : (d.completeD e f st det res).mode = d.mode := by
  obtain ⟨_, _, _, _, h⟩ := completeD_frame d e f st det res; rw [h]
@[simp] theorem completeD_lp (d : Device) (e : Env) (f : Fetched) (st det res : Nat) : (d.completeD e f st det res).lp = d.lp := by
  obtain ⟨_, _, _, _, h⟩ := completeD_frame d e f st det res; rw [h]
@[simp] theorem completeD_lpBad (d : Device) (e : Env) (f : Fetched) (st det res : Nat) : (d.completeD e f st det res).lpBad = d.lpBad := by
  obtain ⟨_, _, _, _, h⟩ := completeD_frame d e f st det res; rw [h]
@[simp] theorem completeD_loaf (d : Device) (e : Env) (f : Fetched) (st det res : Nat) : (d.completeD e f st det res).loaf = d.loaf := by
  obtain ⟨_, _, _, _, h⟩ := completeD_frame d e f st det res; rw [h]
@[simp] theorem completeD_jobMem (d : Device) (e : Env) (f : Fetched) (st det res : Nat) : (d.completeD e f st det res).jobMem = d.jobMem := by
  obtain ⟨_, _, _, _, h⟩ := completeD_frame d e f st det res; rw [h]
@[simp] theorem completeD_sq (d : Device) (e : Env) (f : Fetched) (st det res : Nat) : (d.completeD e f st det res).sq = d.sq := by
  obtain ⟨_, _, _, _, h⟩ := completeD_frame d e f st det res; rw [h]
@[simp] theorem completeD_ts (d : Device) (e : Env) (f : Fetched) (st det res : Nat) : (d.completeD e f st det res).ts = d.ts := by
  obtain ⟨_, _, _, _, h⟩ := completeD_frame d e f st det res; rw [h]
@[simp] theorem completeD_eq (d : Device) (e : Env) (f : Fetched) (st det res : Nat) : (d.completeD e f st det res).eq = d.eq := by
  obtain ⟨_, _, _, _, h⟩ := completeD_frame d e f st det res; rw [h]
@[simp] theorem completeD_fetched (d : Device) (e : Env) (f : Fetched) (st det res : Nat) : (d.completeD e f st det res).fetched = d.fetched := by
  obtain ⟨_, _, _, _, h⟩ := completeD_frame d e f st det res; rw [h]
@[simp] theorem completeD_nextSeq (d : Device) (e : Env) (f : Fetched) (st det res : Nat) : (d.completeD e f st det res).nextSeq = d.nextSeq := by
  obtain ⟨_, _, _, _, h⟩ := completeD_frame d e f st det res; rw [h]
@[simp] theorem completeD_resync (d : Device) (e : Env) (f : Fetched) (st det res : Nat) : (d.completeD e f st det res).resync = d.resync := by
  obtain ⟨_, _, _, _, h⟩ := completeD_frame d e f st det res; rw [h]
@[simp] theorem completeD_resyncDb (d : Device) (e : Env) (f : Fetched) (st det res : Nat) : (d.completeD e f st det res).resyncDb = d.resyncDb := by
  obtain ⟨_, _, _, _, h⟩ := completeD_frame d e f st det res; rw [h]
@[simp] theorem completeD_reqs (d : Device) (e : Env) (f : Fetched) (st det res : Nat) : (d.completeD e f st det res).reqs = d.reqs := by
  obtain ⟨_, _, _, _, h⟩ := completeD_frame d e f st det res; rw [h]
@[simp] theorem completeD_fresh (d : Device) (e : Env) (f : Fetched) (st det res : Nat) : (d.completeD e f st det res).fresh = d.fresh := by
  obtain ⟨_, _, _, _, h⟩ := completeD_frame d e f st det res; rw [h]
@[simp] theorem completeD_freed (d : Device) (e : Env) (f : Fetched) (st det res : Nat) : (d.completeD e f st det res).freed = d.freed := by
  obtain ⟨_, _, _, _, h⟩ := completeD_frame d e f st det res; rw [h]
@[simp] theorem completeD_ctxs (d : Device) (e : Env) (f : Fetched) (st det res : Nat) : (d.completeD e f st det res).ctxs = d.ctxs := by
  obtain ⟨_, _, _, _, h⟩ := completeD_frame d e f st det res; rw [h]
@[simp] theorem completeD_blocks (d : Device) (e : Env) (f : Fetched) (st det res : Nat) : (d.completeD e f st det res).blocks = d.blocks := by
  obtain ⟨_, _, _, _, h⟩ := completeD_frame d e f st det res; rw [h]
@[simp] theorem completeD_kn (d : Device) (e : Env) (f : Fetched) (st det res : Nat) : (d.completeD e f st det res).kn = d.kn := by
  obtain ⟨_, _, _, _, h⟩ := completeD_frame d e f st det res; rw [h]
@[simp] theorem completeD_recipes (d : Device) (e : Env) (f : Fetched) (st det res : Nat) : (d.completeD e f st det res).recipes = d.recipes := by
  obtain ⟨_, _, _, _, h⟩ := completeD_frame d e f st det res; rw [h]
@[simp] theorem completeD_adapters (d : Device) (e : Env) (f : Fetched) (st det res : Nat) : (d.completeD e f st det res).adapters = d.adapters := by
  obtain ⟨_, _, _, _, h⟩ := completeD_frame d e f st det res; rw [h]
@[simp] theorem completeD_grammars (d : Device) (e : Env) (f : Fetched) (st det res : Nat) : (d.completeD e f st det res).grammars = d.grammars := by
  obtain ⟨_, _, _, _, h⟩ := completeD_frame d e f st det res; rw [h]
@[simp] theorem completeD_frames (d : Device) (e : Env) (f : Fetched) (st det res : Nat) : (d.completeD e f st det res).frames = d.frames := by
  obtain ⟨_, _, _, _, h⟩ := completeD_frame d e f st det res; rw [h]
@[simp] theorem completeD_health (d : Device) (e : Env) (f : Fetched) (st det res : Nat) : (d.completeD e f st det res).health = d.health := by
  obtain ⟨_, _, _, _, h⟩ := completeD_frame d e f st det res; rw [h]
@[simp] theorem completeD_oven (d : Device) (e : Env) (f : Fetched) (st det res : Nat) : (d.completeD e f st det res).oven = d.oven := by
  obtain ⟨_, _, _, _, h⟩ := completeD_frame d e f st det res; rw [h]
@[simp] theorem completeD_peel (d : Device) (e : Env) (f : Fetched) (st det res : Nat) : (d.completeD e f st det res).peel = d.peel := by
  obtain ⟨_, _, _, _, h⟩ := completeD_frame d e f st det res; rw [h]
@[simp] theorem completeD_mill (d : Device) (e : Env) (f : Fetched) (st det res : Nat) : (d.completeD e f st det res).mill = d.mill := by
  obtain ⟨_, _, _, _, h⟩ := completeD_frame d e f st det res; rw [h]
@[simp] theorem completeD_sift (d : Device) (e : Env) (f : Fetched) (st det res : Nat) : (d.completeD e f st det res).sift = d.sift := by
  obtain ⟨_, _, _, _, h⟩ := completeD_frame d e f st det res; rw [h]
@[simp] theorem completeD_pem (d : Device) (e : Env) (f : Fetched) (st det res : Nat) : (d.completeD e f st det res).pem = d.pem := by
  obtain ⟨_, _, _, _, h⟩ := completeD_frame d e f st det res; rw [h]
@[simp] theorem completeD_prf (d : Device) (e : Env) (f : Fetched) (st det res : Nat) : (d.completeD e f st det res).prf = d.prf := by
  obtain ⟨_, _, _, _, h⟩ := completeD_frame d e f st det res; rw [h]
@[simp] theorem completeD_dmp (d : Device) (e : Env) (f : Fetched) (st det res : Nat) : (d.completeD e f st det res).dmp = d.dmp := by
  obtain ⟨_, _, _, _, h⟩ := completeD_frame d e f st det res; rw [h]
@[simp] theorem completeD_hearth (d : Device) (e : Env) (f : Fetched) (st det res : Nat) : (d.completeD e f st det res).hearth = d.hearth := by
  obtain ⟨_, _, _, _, h⟩ := completeD_frame d e f st det res; rw [h]
@[simp] theorem completeD_free (d : Device) (e : Env) (f : Fetched) (st det res : Nat) : (d.completeD e f st det res).free = d.free := by
  obtain ⟨_, _, _, _, h⟩ := completeD_frame d e f st det res; rw [h]

/-- A directory record is written (R280). -/
theorem dirWrite_frame (d : Device) (e : Env) (r : DirRec) :
    ∃ x_lp x_lpBad, d.dirWrite e r = { d with lp := x_lp, lpBad := x_lpBad } := ⟨_, _, rfl⟩


/-- A packet queued on a port (R368). -/
theorem enqueue_frame (d : Device) (e : Env) (p kind : Nat) (k : Pkt) :
    ∃ x_pem x_prf, d.enqueue e p kind k = { d with pem := x_pem, prf := x_prf } := by
  obtain ⟨m, o, h⟩ := settleOutlet_frame d e p
  simp only [Device.enqueue, h]
  split <;> exact ⟨_, _, rfl⟩


/-- A packet sent by the route in use (R351). -/
theorem sendTo_frame (d : Device) (e : Env) (kind : Nat) (k : Pkt) :
    ∃ x_pem x_prf, d.sendTo e kind k = { d with pem := x_pem, prf := x_prf } := by
  simp only [Device.sendTo]
  split
  · exact enqueue_frame _ _ _ _ _
  · exact ⟨d.pem, d.prf, rfl⟩


/-- A packet is answered (R352). -/
theorem respond_frame (d : Device) (e : Env) (p : Nat) (k : Pkt) (st : Nat) (bs : List Byte) :
    ∃ x_pem x_prf, d.respond e p k st bs = { d with pem := x_pem, prf := x_prf } := by
  simp only [Device.respond]
  split
  · obtain ⟨m, o, h⟩ := enqueue_frame _ _ _ _ _
    rw [h]; exact ⟨_, _, rfl⟩
  · obtain ⟨m, o, h⟩ := enqueue_frame _ _ _ _ _
    rw [h]; exact ⟨_, _, rfl⟩

@[simp] theorem respond_mode (d : Device) (e : Env) (p : Nat) (k : Pkt) (st : Nat) (bs : List Byte) : (d.respond e p k st bs).mode = d.mode := by
  obtain ⟨_, _, h⟩ := respond_frame d e p k st bs; rw [h]
@[simp] theorem respond_host (d : Device) (e : Env) (p : Nat) (k : Pkt) (st : Nat) (bs : List Byte) : (d.respond e p k st bs).host = d.host := by
  obtain ⟨_, _, h⟩ := respond_frame d e p k st bs; rw [h]
@[simp] theorem respond_lp (d : Device) (e : Env) (p : Nat) (k : Pkt) (st : Nat) (bs : List Byte) : (d.respond e p k st bs).lp = d.lp := by
  obtain ⟨_, _, h⟩ := respond_frame d e p k st bs; rw [h]
@[simp] theorem respond_lpBad (d : Device) (e : Env) (p : Nat) (k : Pkt) (st : Nat) (bs : List Byte) : (d.respond e p k st bs).lpBad = d.lpBad := by
  obtain ⟨_, _, h⟩ := respond_frame d e p k st bs; rw [h]
@[simp] theorem respond_loaf (d : Device) (e : Env) (p : Nat) (k : Pkt) (st : Nat) (bs : List Byte) : (d.respond e p k st bs).loaf = d.loaf := by
  obtain ⟨_, _, h⟩ := respond_frame d e p k st bs; rw [h]
@[simp] theorem respond_jobMem (d : Device) (e : Env) (p : Nat) (k : Pkt) (st : Nat) (bs : List Byte) : (d.respond e p k st bs).jobMem = d.jobMem := by
  obtain ⟨_, _, h⟩ := respond_frame d e p k st bs; rw [h]
@[simp] theorem respond_hif (d : Device) (e : Env) (p : Nat) (k : Pkt) (st : Nat) (bs : List Byte) : (d.respond e p k st bs).hif = d.hif := by
  obtain ⟨_, _, h⟩ := respond_frame d e p k st bs; rw [h]
@[simp] theorem respond_sq (d : Device) (e : Env) (p : Nat) (k : Pkt) (st : Nat) (bs : List Byte) : (d.respond e p k st bs).sq = d.sq := by
  obtain ⟨_, _, h⟩ := respond_frame d e p k st bs; rw [h]
@[simp] theorem respond_cq (d : Device) (e : Env) (p : Nat) (k : Pkt) (st : Nat) (bs : List Byte) : (d.respond e p k st bs).cq = d.cq := by
  obtain ⟨_, _, h⟩ := respond_frame d e p k st bs; rw [h]
@[simp] theorem respond_ts (d : Device) (e : Env) (p : Nat) (k : Pkt) (st : Nat) (bs : List Byte) : (d.respond e p k st bs).ts = d.ts := by
  obtain ⟨_, _, h⟩ := respond_frame d e p k st bs; rw [h]
@[simp] theorem respond_eq (d : Device) (e : Env) (p : Nat) (k : Pkt) (st : Nat) (bs : List Byte) : (d.respond e p k st bs).eq = d.eq := by
  obtain ⟨_, _, h⟩ := respond_frame d e p k st bs; rw [h]
@[simp] theorem respond_fetched (d : Device) (e : Env) (p : Nat) (k : Pkt) (st : Nat) (bs : List Byte) : (d.respond e p k st bs).fetched = d.fetched := by
  obtain ⟨_, _, h⟩ := respond_frame d e p k st bs; rw [h]
@[simp] theorem respond_inflight (d : Device) (e : Env) (p : Nat) (k : Pkt) (st : Nat) (bs : List Byte) : (d.respond e p k st bs).inflight = d.inflight := by
  obtain ⟨_, _, h⟩ := respond_frame d e p k st bs; rw [h]
@[simp] theorem respond_nextSeq (d : Device) (e : Env) (p : Nat) (k : Pkt) (st : Nat) (bs : List Byte) : (d.respond e p k st bs).nextSeq = d.nextSeq := by
  obtain ⟨_, _, h⟩ := respond_frame d e p k st bs; rw [h]
@[simp] theorem respond_resync (d : Device) (e : Env) (p : Nat) (k : Pkt) (st : Nat) (bs : List Byte) : (d.respond e p k st bs).resync = d.resync := by
  obtain ⟨_, _, h⟩ := respond_frame d e p k st bs; rw [h]
@[simp] theorem respond_resyncDb (d : Device) (e : Env) (p : Nat) (k : Pkt) (st : Nat) (bs : List Byte) : (d.respond e p k st bs).resyncDb = d.resyncDb := by
  obtain ⟨_, _, h⟩ := respond_frame d e p k st bs; rw [h]
@[simp] theorem respond_reqs (d : Device) (e : Env) (p : Nat) (k : Pkt) (st : Nat) (bs : List Byte) : (d.respond e p k st bs).reqs = d.reqs := by
  obtain ⟨_, _, h⟩ := respond_frame d e p k st bs; rw [h]
@[simp] theorem respond_fresh (d : Device) (e : Env) (p : Nat) (k : Pkt) (st : Nat) (bs : List Byte) : (d.respond e p k st bs).fresh = d.fresh := by
  obtain ⟨_, _, h⟩ := respond_frame d e p k st bs; rw [h]
@[simp] theorem respond_freed (d : Device) (e : Env) (p : Nat) (k : Pkt) (st : Nat) (bs : List Byte) : (d.respond e p k st bs).freed = d.freed := by
  obtain ⟨_, _, h⟩ := respond_frame d e p k st bs; rw [h]
@[simp] theorem respond_ctxs (d : Device) (e : Env) (p : Nat) (k : Pkt) (st : Nat) (bs : List Byte) : (d.respond e p k st bs).ctxs = d.ctxs := by
  obtain ⟨_, _, h⟩ := respond_frame d e p k st bs; rw [h]
@[simp] theorem respond_blocks (d : Device) (e : Env) (p : Nat) (k : Pkt) (st : Nat) (bs : List Byte) : (d.respond e p k st bs).blocks = d.blocks := by
  obtain ⟨_, _, h⟩ := respond_frame d e p k st bs; rw [h]
@[simp] theorem respond_kn (d : Device) (e : Env) (p : Nat) (k : Pkt) (st : Nat) (bs : List Byte) : (d.respond e p k st bs).kn = d.kn := by
  obtain ⟨_, _, h⟩ := respond_frame d e p k st bs; rw [h]
@[simp] theorem respond_recipes (d : Device) (e : Env) (p : Nat) (k : Pkt) (st : Nat) (bs : List Byte) : (d.respond e p k st bs).recipes = d.recipes := by
  obtain ⟨_, _, h⟩ := respond_frame d e p k st bs; rw [h]
@[simp] theorem respond_adapters (d : Device) (e : Env) (p : Nat) (k : Pkt) (st : Nat) (bs : List Byte) : (d.respond e p k st bs).adapters = d.adapters := by
  obtain ⟨_, _, h⟩ := respond_frame d e p k st bs; rw [h]
@[simp] theorem respond_grammars (d : Device) (e : Env) (p : Nat) (k : Pkt) (st : Nat) (bs : List Byte) : (d.respond e p k st bs).grammars = d.grammars := by
  obtain ⟨_, _, h⟩ := respond_frame d e p k st bs; rw [h]
@[simp] theorem respond_frames (d : Device) (e : Env) (p : Nat) (k : Pkt) (st : Nat) (bs : List Byte) : (d.respond e p k st bs).frames = d.frames := by
  obtain ⟨_, _, h⟩ := respond_frame d e p k st bs; rw [h]
@[simp] theorem respond_health (d : Device) (e : Env) (p : Nat) (k : Pkt) (st : Nat) (bs : List Byte) : (d.respond e p k st bs).health = d.health := by
  obtain ⟨_, _, h⟩ := respond_frame d e p k st bs; rw [h]
@[simp] theorem respond_oven (d : Device) (e : Env) (p : Nat) (k : Pkt) (st : Nat) (bs : List Byte) : (d.respond e p k st bs).oven = d.oven := by
  obtain ⟨_, _, h⟩ := respond_frame d e p k st bs; rw [h]
@[simp] theorem respond_peel (d : Device) (e : Env) (p : Nat) (k : Pkt) (st : Nat) (bs : List Byte) : (d.respond e p k st bs).peel = d.peel := by
  obtain ⟨_, _, h⟩ := respond_frame d e p k st bs; rw [h]
@[simp] theorem respond_mill (d : Device) (e : Env) (p : Nat) (k : Pkt) (st : Nat) (bs : List Byte) : (d.respond e p k st bs).mill = d.mill := by
  obtain ⟨_, _, h⟩ := respond_frame d e p k st bs; rw [h]
@[simp] theorem respond_sift (d : Device) (e : Env) (p : Nat) (k : Pkt) (st : Nat) (bs : List Byte) : (d.respond e p k st bs).sift = d.sift := by
  obtain ⟨_, _, h⟩ := respond_frame d e p k st bs; rw [h]
@[simp] theorem respond_dmp (d : Device) (e : Env) (p : Nat) (k : Pkt) (st : Nat) (bs : List Byte) : (d.respond e p k st bs).dmp = d.dmp := by
  obtain ⟨_, _, h⟩ := respond_frame d e p k st bs; rw [h]
@[simp] theorem respond_hearth (d : Device) (e : Env) (p : Nat) (k : Pkt) (st : Nat) (bs : List Byte) : (d.respond e p k st bs).hearth = d.hearth := by
  obtain ⟨_, _, h⟩ := respond_frame d e p k st bs; rw [h]
@[simp] theorem respond_free (d : Device) (e : Env) (p : Nat) (k : Pkt) (st : Nat) (bs : List Byte) : (d.respond e p k st bs).free = d.free := by
  obtain ⟨_, _, h⟩ := respond_frame d e p k st bs; rw [h]

/-- An operation is issued (R357). -/
theorem issueOp_frame (d : Device) (e : Env) (o : FabOp) :
    ∃ x_pem x_prf, d.issueOp e o = { d with pem := x_pem, prf := x_prf } := by
  simp only [Device.issueOp]
  split
  · exact ⟨_, d.prf, rfl⟩
  · obtain ⟨m, o, h⟩ := sendTo_frame _ e _ _
    rw [h]; exact ⟨_, _, rfl⟩


end Sys2Proof.Machine
end

