-- ==== Sys2Proof/WellFormed.lean ====
section
/-! DEFINITION. Well-formed commands: operands within the ranges the manual gives the numbers they carry. -/

namespace Sys2Proof

/-- A packet whose header fields fit Table 14.3. -/
def Pkt.wf (p : Pkt) : Bool :=
  p.dest < 64 && p.src < 64 && p.chan < 4 && p.type < 256 && p.attempt < 4 && p.tag < 65536 && p.units ≤ 128
    && p.status < 256 && p.addr < 2 ^ 48 && p.size < 4 && p.readUnits < 256 && p.seq < 4096 && p.ack < 4096
    && p.credits < 2 ^ 32 && p.payload.length = 32 * p.units

/-- Operand ranges of a command: LTIME 64 bits (R400), ring numbers (R22), table indices (R50, R54), Slices, ports
(R347), nodes (R352), tags (R358), the 64 GiB window (R45). -/
def Instr.wf (i : Instr) : Bool :=
  match i with
  | .descriptorFetch t ring => t < 2 ^ 64 && ring < 256
  | .descriptorFetchFailed t ring => t < 2 ^ 64 && ring < 256
  | .submissionDoorbell t ring width value _ => t < 2 ^ 64 && ring < 256 && width ≤ 8 && value < 2 ^ 128
  | .completionDoorbell t ring width value => t < 2 ^ 64 && ring < 64 && width ≤ 8 && value < 2 ^ 128
  | .tokenStreamDoorbell t ring width value => t < 2 ^ 64 && ring < 64 && width ≤ 8 && value < 2 ^ 128
  | .eventDoorbell t width value => t < 2 ^ 64 && width ≤ 8 && value < 2 ^ 128
  | .resyncDoorbell t width addr _ => t < 2 ^ 64 && width ≤ 8 && addr < 2 ^ 64
  | .nop t ring => t < 2 ^ 64 && ring < 256
  | .generate t ring => t < 2 ^ 64 && ring < 256
  | .cancel t ring => t < 2 ^ 64 && ring < 256
  | .park t ring => t < 2 ^ 64 && ring < 256
  | .modify t ring => t < 2 ^ 64 && ring < 256
  | .handoff t ring => t < 2 ^ 64 && ring < 256
  | .tenantSet t ring => t < 2 ^ 64 && ring < 256
  | .mapInstall t ring _ => t < 2 ^ 64 && ring < 256
  | .epochDrained t => t < 2 ^ 64
  | .jobGrant t ring => t < 2 ^ 64 && ring < 256
  | .jobRevoke t ring => t < 2 ^ 64 && ring < 256
  | .recipeLoad t ring _ _ _ => t < 2 ^ 64 && ring < 256
  | .recipeUnload t ring => t < 2 ^ 64 && ring < 256
  | .adapterLoad t ring _ => t < 2 ^ 64 && ring < 256
  | .adapterRetire t ring => t < 2 ^ 64 && ring < 256
  | .grammarLoad t ring _ => t < 2 ^ 64 && ring < 256
  | .grammarUnload t ring => t < 2 ^ 64 && ring < 256
  | .embed t ring _ => t < 2 ^ 64 && ring < 256
  | .embedRowGroupEnd t _ => t < 2 ^ 64
  | .sift t ring _ => t < 2 ^ 64 && ring < 256
  | .siftContextGrant t => t < 2 ^ 64
  | .siftQueryLimit t ctx => t < 2 ^ 64 && ctx < 16
  | .siftUpdate t ring _ => t < 2 ^ 64 && ring < 256
  | .fwBlock t ring _ _ => t < 2 ^ 64 && ring < 256
  | .fwCommit t ring => t < 2 ^ 64 && ring < 256
  | .attest t ring => t < 2 ^ 64 && ring < 256
  | .calWrite t ring _ => t < 2 ^ 64 && ring < 256
  | .resync t ring => t < 2 ^ 64 && ring < 256
  | .inputReadFailed t request => t < 2 ^ 64 && request < 1048576
  | .directoryRecordRead t request => t < 2 ^ 64 && request < 1048576
  | .millIntakeQuantum t => t < 2 ^ 64
  | .commit t request => t < 2 ^ 64 && request < 1048576
  | .demotionRecordWritten t context => t < 2 ^ 64 && context < 65536
  | .bakeStepBoundary t => t < 2 ^ 64
  | .deadlineMissed t request => t < 2 ^ 64 && request < 1048576
  | .pagesExhausted t request => t < 2 ^ 64 && request < 1048576
  | .idleBoundary t => t < 2 ^ 64
  | .heldBoundary t => t < 2 ^ 64
  | .budgetPeriodEnd t => t < 2 ^ 64
  | .decodeEnd t _ _ => t < 2 ^ 64
  | .chunkEnd t _ => t < 2 ^ 64
  | .frameZeroed t recipe pool slot => t < 2 ^ 64 && recipe < 16 && pool < 65536 && slot < 16777216
  | .stagingComplete t context _ index _ => t < 2 ^ 64 && context < 65536 && index < 65536
  | .jobStart t _ => t < 2 ^ 64
  | .jobCommandBoundary t _ => t < 2 ^ 64
  | .jobSliceEnd t => t < 2 ^ 64
  | .jobSaveDone t _ => t < 2 ^ 64
  | .commandOverrun t _ => t < 2 ^ 64
  | .moveStart t _ _ _ _ => t < 2 ^ 64
  | .moveCommit t move _ _ => t < 2 ^ 64 && move < 32768
  | .moveSourceRelease t move => t < 2 ^ 64 && move < 32768
  | .moveAbort t move => t < 2 ^ 64 && move < 32768
  | .streamNeedPoint t recipe stream _ _ => t < 2 ^ 64 && recipe < 16 && stream < 65536
  | .streamDeadline t recipe stream _ => t < 2 ^ 64 && recipe < 16 && stream < 65536
  | .eccSummary t => t < 2 ^ 64
  | .sliceHang t slice => t < 2 ^ 64 && slice < 12
  | .paceLow t domain pace mv tj => t < 2 ^ 64 && domain < 13 && pace < 65536 && mv < 65536 && tj < 256
  | .paceLowDeferred t domain => t < 2 ^ 64 && domain < 13
  | .freeze t domain mv => t < 2 ^ 64 && domain < 13 && mv < 65536
  | .thaw t domain mv => t < 2 ^ 64 && domain < 13 && mv < 65536
  | .freezeLimit t domain => t < 2 ^ 64 && domain < 13
  | .thermal t domain tj => t < 2 ^ 64 && domain < 13 && tj < 256
  | .thermalDeferred t => t < 2 ^ 64
  | .thermalFactorStep t => t < 2 ^ 64
  | .pwrWarn t => t < 2 ^ 64
  | .throttle t _ => t < 2 ^ 64
  | .pwrWarnStuck t pin => t < 2 ^ 64 && pin < 2
  | .inputStorm t pin => t < 2 ^ 64 && pin < 3
  | .powerOn t _ _ => t < 2 ^ 64
  | .powerLoss t => t < 2 ^ 64
  | .fixedRailOutOfRange t => t < 2 ^ 64
  | .pinReset t _ => t < 2 ^ 64
  | .softReset t _ width value => t < 2 ^ 64 && width ≤ 8 && value < 2 ^ 128
  | .softStart t _ => t < 2 ^ 64
  | .setupClose t value => t < 2 ^ 64 && value < 2 ^ 128
  | .ringEnable t value => t < 2 ^ 64 && value < 2 ^ 128
  | .apertureWrite t value => t < 2 ^ 64 && value < 2 ^ 128
  | .numstatClear t _ value => t < 2 ^ 64 && value < 2 ^ 128
  | .pinStatClear t _ value => t < 2 ^ 64 && value < 2 ^ 128
  | .dmpCtlWrite t _ width value => t < 2 ^ 64 && (width = 4 || width = 8 || width = 16) && value < 2 ^ 128
  | .gateArm t outlet value => t < 2 ^ 64 && outlet < 9 && value < 2 ^ 128
  | .gateDisarm t outlet value => t < 2 ^ 64 && outlet < 9 && value < 2 ^ 128
  | .gateTakeover t outlet => t < 2 ^ 64 && outlet < 9
  | .registerWrite t _ bar _ width value => t < 2 ^ 64 && (bar = 0 || bar = 2 || bar = 4) && (width = 4 || width = 8 || width = 16) && value < 2 ^ 128
  | .windowRead t offset _ _ => t < 2 ^ 64 && offset < 2 ^ 36
  | .windowWrite t offset _ => t < 2 ^ 64 && offset < 2 ^ 36
  | .i3cDynamicAddress t addr => t < 2 ^ 64 && addr < 128
  | .hostLinkDown t => t < 2 ^ 64
  | .hostLinkUp t modules rate => t < 2 ^ 64 && modules < 16 && rate < 7
  | .streamHoldTimeout t request => t < 2 ^ 64 && request < 1048576
  | .hostRecordWrite t => t < 2 ^ 64
  | .interruptTimeThreshold t kind ring => t < 2 ^ 64 && kind < 3 && ring < 64
  | .msixUnmask t vector => t < 2 ^ 64 && vector < 2048
  | .linkDown t port _ _ _ => t < 2 ^ 64 && port < 8
  | .portTrainTimeout t port => t < 2 ^ 64 && port < 8
  | .linkReplay t port _ => t < 2 ^ 64 && port < 8
  | .link t port p => t < 2 ^ 64 && port < 8 && p.wf
  | .read t port p => t < 2 ^ 64 && port < 8 && p.wf
  | .write t port p => t < 2 ^ 64 && port < 8 && p.wf
  | .add t port p => t < 2 ^ 64 && port < 8 && p.wf
  | .smin t port p => t < 2 ^ 64 && port < 8 && p.wf
  | .smax t port p => t < 2 ^ 64 && port < 8 && p.wf
  | .umin t port p => t < 2 ^ 64 && port < 8 && p.wf
  | .umax t port p => t < 2 ^ 64 && port < 8 && p.wf
  | .cas t port p => t < 2 ^ 64 && port < 8 && p.wf
  | .probe t port p => t < 2 ^ 64 && port < 8 && p.wf
  | .openHandoff t port p session _ _ _ => t < 2 ^ 64 && port < 8 && p.wf && session < 4294967296
  | .logDone t port p session _ => t < 2 ^ 64 && port < 8 && p.wf && session < 4294967296
  | .logFree t port p session _ => t < 2 ^ 64 && port < 8 && p.wf && session < 4294967296
  | .kvSend t port p session _ _ _ _ => t < 2 ^ 64 && port < 8 && p.wf && session < 4294967296
  | .release t port p _ tag => t < 2 ^ 64 && port < 8 && p.wf && tag < 4096
  | .fabricResponse t port p => t < 2 ^ 64 && port < 8 && p.wf
  | .responseTimeout t tag => t < 2 ^ 64 && tag < 65536
  | .reissueTimer t tag => t < 2 ^ 64 && tag < 65536
  | .nodeDead t node => t < 2 ^ 64 && node < 64
  | .fabricGiveUp t tag => t < 2 ^ 64 && tag < 65536
  | .replayEntryExpiry t src tag => t < 2 ^ 64 && src < 64 && tag < 65536
  | .alternateRouteProbe t node _ => t < 2 ^ 64 && node < 64
  | .deadSetProbe t node _ => t < 2 ^ 64 && node < 64
  | .portPacketBoundary t port => t < 2 ^ 64 && port < 8
  | .handoffTallyZero t session => t < 2 ^ 64 && session < 4294967296
  | .handoffLimitExpiry t session => t < 2 ^ 64 && session < 4294967296
  | .incomingRecordExpiry t session => t < 2 ^ 64 && session < 4294967296
  | .flashWriteComplete t _ => t < 2 ^ 64
  | .siftComplete t ctx _ _ => t < 2 ^ 64 && ctx < 16
  | .patrolScrub t slice bank _ => t < 2 ^ 64 && slice < 12 && bank < 2048
  | .pwrWarnRelease t => t < 2 ^ 64
  | .initiatorLimitRelease t => t < 2 ^ 64
  | .mailboxCommand t opcode _ => t < 2 ^ 64 && opcode < 65536

end Sys2Proof
end

