-- ==== Sys2Proof/Tests/Slice0.lean ====
section
/-! SUPPORT. Tests on one command each, the refusals of WellFormed, and for every statement with hypotheses a theorem
`witness_<statement>` that shows states and operands which meet them, clause by clause. -/

namespace Sys2Proof.Tests

open Sys2Proof Sys2Proof.Machine

set_option Elab.async false

/-! ## Helpers -/

/-- Set-up closed, every register at its reset value. -/
def env0 : Env := { closed := true }

/-- Set-up closed, some registers written. -/
def envR (r : Tbl Nat) : Env := { closed := true, regs := r }

/-- A state of an environment and a device. -/
def st (e : Env) (d : Device) : State := ⟨e, d, []⟩

/-- A device with one descriptor fetched from ring 0, cookie 7, and completion ring 0 enabled. -/
def desc (op : Nat) (w : List Nat) : Device :=
  { fetched := [⟨some 0, 5, (op + 7 * 2 ^ 32) :: w⟩], inflight := [⟨5, 0, 7, op, false, false⟩],
    cq := [(0, { enabled := true })], nextSeq := 6 }

theorem exists_of_any {α : Type} {o : Option α} {p : α → Bool} (h : o.any p = true) : ∃ x, o = some x ∧ p x = true := by
  cases o with
  | none => simp at h
  | some x => exact ⟨x, rfl, by simpa using h⟩

theorem takes {d : Device} {e : Env} {ring op : Nat} {p : Fetched × Device → Bool}
    (h : (d.take e ring op).any p = true) : ∃ f d', d.take e ring op = some (f, d') ∧ p (f, d') = true := by
  obtain ⟨⟨f, d'⟩, h1, h2⟩ := exists_of_any h
  exact ⟨f, d', h1, h2⟩

/-- A small packet from node 1 to node 0. -/
def pkt : Pkt := ⟨0, 1, 0, 0, 0, 3, 1, 0, 0, 0, 1, 0, 0, false, 0, List.replicate 32 0xAB⟩

/-! ## WellFormed refuses -/

theorem test_wf_time : Instr.wf (.idleBoundary (2 ^ 64)) = false := by decide
theorem test_wf_ring : Instr.wf (.nop 0 256) = false := by decide
theorem test_wf_completion_ring : Instr.wf (.completionDoorbell 0 64 4 0) = false := by decide
theorem test_wf_width : Instr.wf (.eventDoorbell 0 9 0) = false := by decide
theorem test_wf_value : Instr.wf (.setupClose 0 (2 ^ 128)) = false := by decide
theorem test_wf_request : Instr.wf (.commit 0 1048576) = false := by decide
theorem test_wf_context : Instr.wf (.demotionRecordWritten 0 65536) = false := by decide
theorem test_wf_recipe : Instr.wf (.streamNeedPoint 0 16 0 false []) = false := by decide
theorem test_wf_frame : Instr.wf (.frameZeroed 0 0 0 16777216) = false := by decide
theorem test_wf_move : Instr.wf (.moveAbort 0 32768) = false := by decide
theorem test_wf_query : Instr.wf (.siftQueryLimit 0 16) = false := by decide
theorem test_wf_domain : Instr.wf (.freeze 0 13 0) = false := by decide
theorem test_wf_slice : Instr.wf (.sliceHang 0 12) = false := by decide
theorem test_wf_bank : Instr.wf (.patrolScrub 0 0 2048 []) = false := by decide
theorem test_wf_pin : Instr.wf (.inputStorm 0 3) = false := by decide
theorem test_wf_outlet : Instr.wf (.gateTakeover 0 9) = false := by decide
theorem test_wf_bar : Instr.wf (.registerWrite 0 false 1 0 8 0) = false := by decide
theorem test_wf_window : Instr.wf (.windowRead 0 (2 ^ 36) 0 false) = false := by decide
theorem test_wf_vector : Instr.wf (.msixUnmask 0 2048) = false := by decide
theorem test_wf_port : Instr.wf (.linkReplay 0 8 true) = false := by decide
theorem test_wf_node : Instr.wf (.nodeDead 0 64) = false := by decide
theorem test_wf_tag : Instr.wf (.reissueTimer 0 65536) = false := by decide
theorem test_wf_session : Instr.wf (.handoffTallyZero 0 4294967296) = false := by decide
theorem test_wf_packet_attempt : Instr.wf (.read 0 0 { pkt with attempt := 4 }) = false := by decide
theorem test_wf_packet_payload : Instr.wf (.read 0 0 { pkt with units := 2 }) = false := by decide
theorem test_wf_packet_sequence : Instr.wf (.link 0 0 { pkt with seq := 4096 }) = false := by decide
theorem test_wf_packet : Instr.wf (.write 0 0 pkt) = true := by decide

/-! ## Witnesses: the machine as a whole, set-up, registers -/

theorem witness_StepRunsFrontCommand : (st env0 {}).pending = [] ∧ ∃ t, exec (.eccSummary 0) (st env0 {}) = .next t :=
  ⟨rfl, _, rfl⟩

theorem witness_ClockAndRegistersKeepTheirRules : mayStart (.eccSummary 5) = false ∧ mayWriteRegs (.eccSummary 5) = false ∧
    (st env0 {}).env.now ≤ lim64 ∧ ∃ t, exec (.eccSummary 5) (st env0 {}) = .next t :=
  ⟨rfl, rfl, by decide, _, rfl⟩

theorem witness_LockedFieldsKeepTheirValues : (st env0 {}).env.closed = true ∧
    mayStart (.registerWrite 0 false 0 0x10 8 5) = false ∧
    (∃ t, exec (.registerWrite 0 false 0 0x10 8 5) (st env0 {}) = .next t) ∧
    (regFields 0x10).any (fun f => f.locked) = true := ⟨rfl, rfl, ⟨_, rfl⟩, by decide +kernel⟩

theorem witness_CloseClosesOrSaysWhy :
    (bit 1 0 = true ∧ State.reset.env.closed = false ∧ State.reset.dev.hif.linkUp = true ∧
      State.reset.dev.mode = .running ∧ State.reset.dev.logicFrozen = false ∧
      (State.reset.dev.closeRefusal State.reset.env).isSome = true) ∧
    (({ State.reset.dev with dmp := { State.reset.dev.dmp with warnPin := true } } : Device).closeRefusal
      State.reset.env) = some (1, 0) := by decide +kernel

/-- Rings in use: base 4096, completion ring 0 enabled. -/
def ringsDev : Device := { cq := [(0, { enabled := true })], ts := [(0, { enabled := true })], eq := { enabled := true } }
def ringsEnv : Env := envR [(0x1000, 4096)]

theorem witness_RingEnableEnablesOrRefuses :
    (ringsDev.hif.linkUp = true ∧ ringsDev.mode = .running ∧ (ringsDev.sqr 0).enabled = false ∧ ringsEnv.closed = true ∧
      ringBaseBad (sqBase ringsEnv 0) (64 * sqSize ringsEnv 0) = false ∧ (ringsDev.ring .cq (sqCq ringsEnv 0)).enabled = true) ∧
    State.reset.env.closed = false ∧ (({} : Device).ring .cq (sqCq ringsEnv 0)).enabled = false ∧
    ringBaseBad (sqBase (envR [(0x1000, 2 ^ 64 - 64)]) 0) (64 * sqSize (envR [(0x1000, 2 ^ 64 - 64)]) 0) = true := by
  decide +kernel

theorem witness_RegisterWritesStoreFields :
    (plainReg (0x10000 / 8 * 8) = true ∧ plainReg (0x10004 / 8 * 8) = true ∧ ({} : Device).regsUp = true ∧
      (0x10000 : Nat) % 8 = 0 ∧ (0x10004 : Nat) % 4 = 0 ∧ (0x10004 : Nat) % 8 ≠ 0 ∧
      (∀ f ∈ regFields 0x10000, (f.locked && State.reset.env.closed) = false ∧
        f.ok (bits (writtenWord (regWord {} 0x10000) 0x10000 8 0xA00010101) f.hi f.lo) = true) ∧
      (∃ f ∈ regFields 0x10000, f.ok (bits (writtenWord (regWord {} 0x10000) 0x10000 4 0) f.hi f.lo) = false) ∧
      plainReg 0x10008 = true ∧ (∃ f ∈ regFields 0x10008, (f.locked && env0.closed) = true) ∧
      ({ mode := .off } : Device).regsUp = false ∧ ({ mode := .off } : Device).mode ≠ .recovery) ∧
    (apertureOk env0 600 = true ∧ apertureOk env0 2047 = false) ∧
    (State.reset.env.closed = false ∧
      (let m := writtenWord (regWord {} 0xB0008) 0xB0008 8 (80 * 2 ^ 16 + 90 * 2 ^ 23)
       60 ≤ bits m 22 16 ∧ bits m 22 16 ≤ 100 ∧ 70 ≤ bits m 29 23 ∧ bits m 29 23 ≤ 103 ∧ bits m 22 16 < bits m 29 23) ∧
      (let m := writtenWord (regWord {} 0xB0008) 0xB0008 4 (100 * 2 ^ 16 + 100 * 2 ^ 23)
       bits m 22 16 ≤ 100 ∧ bits m 29 23 ≤ 103 ∧ ¬ bits m 22 16 < bits m 29 23) ∧
      (let m := writtenWord (regWord {} 0xB0008) 0xB0008 8 (59 * 2 ^ 16 + 104 * 2 ^ 23)
       ¬ 60 ≤ bits m 22 16 ∧ ¬ bits m 29 23 ≤ 103 ∧ warnAt {} < throttleAt {})) := by
  decide +kernel

theorem witness_StatusClearsAndAddresses :
    (({} : Device).regsUp = true ∧ bit (2 ^ 63) 63 = true ∧ bit (2 ^ 48) 48 = true ∧ ({} : Device).i3cUp = true) ∧
    (({} : Device).heard = true ∧ ({} : Device).mode ≠ .halted) ∧
    (({ hif := { msixPending := [3] } } : Device).hif.msixPending.contains 3 = true) := by decide +kernel

/-- A gate with a pending list of one entry of 1,000 ns, every class open, and a takeover time. -/
def gateDev (armed : Bool) : Device := { prf := { gates := [(8,
  { pending := [(0, 255 * 2 ^ 24 + 1000)], pendingLen := 1, takeover := 5000, armed := armed, at_ := 5000 })] } }

theorem witness_GatesArmDisarmAndTakeOver :
    ((gateDev false).regsUp = true ∧ bits (1 + 2 ^ 9) 8 0 ≤ 256 ∧ ((gateDev false).gate 8).armed = false ∧
      bit (1 + 2 ^ 9) 9 = true ∧ bit 1 9 = false ∧
      ({ (gateDev false).gate 8 with pendingLen := bits (1 + 2 ^ 9) 8 0 } : Gate).mayArm env0 8 = true ∧
      ({ (gateDev false).gate 8 with pendingLen := bits (1 + 2 ^ 9) 8 0 } : Gate).mayArm { env0 with now := 4001 } 8 = false) ∧
    (((gateDev true).gate 8).armed = true ∧ (gateDev true).mode = .running ∧ ((gateDev true).gate 8).at_ ≤ 5000) := by
  decide +kernel

/-! ## Witnesses: rings, doorbells, fetch -/

/-- Ring 0 of every kind enabled, a submission tail. -/
def sqDev (tail : Nat) : Device :=
  { sq := [(0, { enabled := true, tail := tail })]
    cq := [(0, { enabled := true })]
    ts := [(0, { enabled := true })]
    eq := { enabled := true } }

theorem witness_DoorbellsMoveTailsAndHeads :
    ((sqDev 0).heard = true ∧ (sqDev 0).mode ≠ .halted ∧ ((sqDev 0).sqr 0).enabled = true ∧ 15 % 65536 < sqSize env0 0 ∧
      sqSize env0 0 ≤ 16 % 65536) ∧
    (((sqDev 0).ring .cq 0).enabled = true ∧ ((sqDev 0).ring .cq 0).held = [] ∧ ((sqDev 0).ring .ts 0).enabled = true ∧
      (sqDev 0).eq.enabled = true ∧
      ¬ (1 < devSize env0 .cq 0 ∧ (1 + devSize env0 .cq 0 - ((sqDev 0).ring .cq 0).lastHead) % devSize env0 .cq 0
        ≤ ((sqDev 0).ring .cq 0).used (devSize env0 .cq 0)) ∧
      (0 < devSize env0 .cq 0 ∧ (0 + devSize env0 .cq 0 - ((sqDev 0).ring .cq 0).lastHead) % devSize env0 .cq 0
        ≤ ((sqDev 0).ring .cq 0).used (devSize env0 .cq 0))) := by decide +kernel

/-- Host memory with a RESYNC descriptor at 4096: record area at 8192. -/
def resyncDev : Device := { host := mwrites 0 [] 4096 (toBytes 8 0x3F ++ toBytes 8 0 ++ toBytes 8 8192
  ++ toBytes 8 (135808 * 2 ^ 32)) }

theorem witness_ResyncIsFetchedAndAnswered :
    (env0.closed = true ∧ resyncDev.heard = true ∧ resyncDev.mode = .running ∧ 4096 % 64 = 0 ∧ resyncDev.resync = [] ∧
      (⟨none, resyncDev.nextSeq, (upto 8).map (fun i => resyncDev.hostNat (4096 + 8 * i) 8)⟩ : Fetched).op = 0x3F ∧
      (⟨none, resyncDev.nextSeq, (upto 8).map (fun i => resyncDev.hostNat (4096 + 8 * i) 8)⟩ : Fetched).form env0 = none ∧
      (⟨none, 1, (upto 8).map (fun i => ({} : Device).hostNat (4096 + 8 * i) 8)⟩ : Fetched).op ≠ 0x3F ∧ 4100 % 64 ≠ 0) ∧
    ({ resyncDev with resync := [⟨none, 1, []⟩] } : Device).resync ≠ [] ∧
    (((desc 0x3F [0, 8192, 135808 * 2 ^ 32]).take env0 0 0x3F).any (fun x => x.2.mode == .running)) = true ∧
    ((({ desc 0x3F [0, 8192, 135808 * 2 ^ 32] with mode := .recovery } : Device).take env0 0 0x3F).any (fun x =>
      x.2.mode == .recovery && x.2.hif.linkUp)) = true ∧
    ((({} : Device).take env0 0 0x3F).isNone = true ∧
      ({ mode := .recovery, hif := { linkUp := false } } : Device).hif.linkUp = false) ∧
    (let d : Device := { resyncDev with resync := [⟨none, 1, [0x3F, 0, 8192]⟩], hearth := { resyncMigration := true } }
     d.hif.linkUp = true ∧ d.resyncDb = none ∧ d.mode = .running ∧ d.resync = [⟨none, 1, [0x3F, 0, 8192]⟩] ∧
       ({ resyncDev with resyncDb := some 4096 } : Device).resyncDb = some 4096) := by decide +kernel

/-- A device whose ring 0 holds a NOP at its head, and one whose ring holds an unknown opcode. -/
def fetchDev (op : Nat) : Device := { sqDev 1 with host := mwrites 0 [] 0 (toBytes 8 op) }

theorem witness_FetchTakesDescriptor :
    ((fetchDev 0).canFetch env0 0 = true ∧ (fetchDev 0).mode = .running ∧
      opClass ((fetchDev 0).peek env0 0).op ≠ some .w ∧ ((fetchDev 0).peek env0 0).form env0 = none ∧
      ((fetchDev 0x0F).peek env0 0).form env0 = some 1) ∧
    (({ fetchDev 0 with mode := .recovery } : Device).canFetch env0 0 = true ∧ recoveryOp ((fetchDev 0).peek env0 0).op = false ∧
      recoveryOp ((fetchDev 0x30).peek env0 0).op = true) ∧
    (opClass ((fetchDev 0x21).peek env0 0).op = some .w ∧ (fetchDev 0x21).canFetch env0 0 = true ∧
      Config.maxClassW ≤ ({ fetchDev 0x21 with inflight := List.replicate Config.maxClassW ⟨0, 0, 0, 0x21, false, false⟩ }
        : Device).classW) ∧
    ({} : Device).canFetch env0 0 = false ∧
    (((fetchDev 0).ring .cq (sqCq env0 0)).held = [] ∧ (fetchDev 0).canPut env0 .cq (sqCq env0 0) = true ∧
      ({ fetchDev 0 with cq := [] } : Device).canPut env0 .cq (sqCq env0 0) = false) := by
  decide +kernel

/-- A descriptor of ring 0 as fetched. -/
def fd (q : List Nat) : Fetched := ⟨some 0, 5, q⟩

theorem witness_FormChecksAndFencesHoldBack :
    (opClass (fd [0x0F]).op = none ∧
      (opClass (fd [0x18]).op ≠ none ∧ sqPriv env0 0 = false ∧ (fd [0x18]).needsPriv = true) ∧
      ((fd [2 ^ 16]).needsPriv = false ∧ (fd [2 ^ 16]).tenant ≠ sqTenant env0 0) ∧
      ((fd [0]).needsPriv = false ∧ (fd [0]).tenant = sqTenant env0 0 ∧ (fd [2 ^ 12]).rsvdBad = true) ∧
      ((fd [1, 0, 0, 0, 32]).rsvdBad = false ∧ (fd [1, 0, 0, 0, 32]).misaligned = true ∧ (fd [1]).misaligned = false)) ∧
    (∃ y ∈ ({ desc 0 [] with inflight := [⟨4, 0, 7, 0x10, false, true⟩, ⟨5, 0, 7, 0, false, false⟩] } : Device).inflight,
      y.ring = 0 ∧ y.seq < 5 ∧ y.started = true ∧ opClass y.op = some .m ∧
      ((takeFirst (fun (g : Fetched) => g.ring == some 0) (desc 0 []).fetched).map (·.1.seq)) = some 5) := by
  decide +kernel

theorem witness_NopCompletesDone :
    (∃ f d, (desc 0 []).take env0 0 0 = some (f, d) ∧ (f.seq == 5) = true) ∧ (desc 0 []).hasRoom env0 0 ∧
    ((0 : Nat) < 256 ∧ ((desc 0 []).sqr 0).head < 65536 ∧ (({} : Device).take env0 0 0).isNone = true) ∧
    ¬ ({ desc 0 [] with hif := { linkUp := false } } : Device).hasRoom env0 0 :=
  ⟨takes (p := fun x => x.1.seq == 5) (by decide +kernel), ⟨by decide +kernel, by decide +kernel⟩, by decide +kernel,
    fun h => absurd h.2 (by decide +kernel)⟩

/-! ## Witnesses: requests -/

/-- A pool of one bank pair on Slice 0, a global layer, a job program of one crumb record. -/
def pool0 : PoolInfo := ⟨16, 16384, 2, 2, 1, 32, 0, [⟨0, 0, 1⟩], 2, 0, 0, 0, []⟩
/-- A Recipe's parameters, all empty. -/
def infoE : RecipeInfo :=
  { vocab := 0, eos := [], chunkMax := 0, seatNeed := 0, dMax := 0, weightRuns := [], weightPattern := [], groups := []
    weightPlaces := [], regions := [], consts := [], uses := [], mainRecords := 0, pools := [], layers := []
    prefillRecords := 0, embedRecords := 0, jobs := [], slotSets := [], residents := [], adapterFrames := 0
    adapterBytes := 0, embedLead := [], embedTrail := [], embedBytes := 0, tokenIds := [], stochasticSeed := 0 }
def info0 : RecipeInfo :=
  { infoE with
    vocab := 256
    chunkMax := 256
    seatNeed := 1
    pools := [pool0]
    layers := [⟨1, 0, 0, 0, 0, 1⟩]
    jobs := [[⟨true, ⟨0, 0, 0, 0⟩, 0⟩, ⟨true, ⟨0, 0, 0, 0⟩, 0⟩]]
    embedBytes := 4 }
def slot0 : RecipeSlot := ⟨true, false, info0, 0, 0, 4096, [], 0, 0, [], [], [], [⟨0, 0, 0, 0⟩, ⟨1, 0, 0, 0⟩]⟩

/-- A device with Recipe 0 loaded, one request and one context. -/
def reqDev (r : Request) (c : Context) : Device :=
  { recipes := [(0, slot0)]
    reqs := [(0, r)]
    ctxs := [(0, c)]
    cq := [(0, { enabled := true })]
    ts := [(0, { enabled := true })] }

/-- GENERATE fetched, for a session, with Recipe 0 loaded. -/
def genDev : Device := { desc 1 [9] with recipes := [(0, slot0)], ts := [(0, { enabled := true })] }

theorem witness_GenerateAdmits :
    (∃ f d, genDev.take env0 0 1 = some (f, d) ∧
      (decide (d.admissionFault f = none) && decide (d.fresh < Config.requestEntries)) = true) ∧
    (∃ f d, (desc 1 [9]).take env0 0 1 = some (f, d) ∧ (d.admissionFault f == some (0x21, 0x000A)) = true) :=
  ⟨takes (p := fun x => decide (x.2.admissionFault x.1 = none) && decide (x.2.fresh < Config.requestEntries))
    (by decide +kernel), takes (p := fun x => x.2.admissionFault x.1 == some (0x21, 0x000A)) (by decide +kernel)⟩

/-- A text span of 16 MiB and one byte. -/
def bigText : Device := { host := mwrites 0 [] 64 (toBytes 8 4096 ++ toBytes 8 16777217) }

theorem witness_AdmissionChecksInOrder :
    textOver (bigText.spans 64 1) = true ∧ textOver (genDev.spans 0 0) = false ∧
    ({} : Device).recipeFault 0 = some (0x21, 0x000A) ∧ genDev.recipeFault 0 = none ∧
    genDev.adapterFault 0 4 5 = .inl 2 ∧ genDev.adapterFault 0 0 0 = .inr 0 ∧ genDev.epochFault 1 = some 2 ∧
    genDev.epochFault 0 = none ∧
    (({ kn := { tenants := [(0, { held := true })] } } : Device).tenant 0).held = true ∧ (genDev.tenant 0).held = false ∧
    (reqDev { state := .ready, session := 9 } {}).sessionBusy 9 = true ∧ genDev.sessionBusy 9 = false ∧
    (desc 1 [9]).handleFault (fd [1, 9]) = true ∧ genDev.handleFault (fd [1, 9]) = false := by decide +kernel

/-- An ADMITTED request with no input, and with 2 MiB of text to take in. -/
def admitted : Device := reqDev { state := .admitted, session := 9, desc := [1, 9] } {}
def intake : Device := reqDev { state := .intake, session := 9, order := 3, textLeft := 2 ^ 21 } {}

theorem witness_StandingBindsRequest :
    (admitted.serving env0 = true ∧ (admitted.req 0).state = .admitted ∧ (admitted.req 0).bound = false ∧
      admitted.mustWait env0 (admitted.req 0) = false ∧ bit ((admitted.req 0).desc.getD 7 0) 23 = false ∧
      admitted.recipe 0 = some slot0 ∧ admitted.inputFault slot0.mill (admitted.spans 0 0) = none ∧
      admitted.samplingAt 0 256 = .inr {}) ∧
    (let r : Request := { state := .admitted, session := 9, desc := [1, 9, 0, 0, 0, 0, 0, 2 ^ 23 + 5] }
     (reqDev r {}).mustWait env0 r = false ∧ bit (r.desc.getD 7 0) 23 = true ∧
       bits (r.desc.getD 7 0) 22 0 ≠ (reqDev r {}).standing env0 9) ∧
    (intake.serving env0 = true ∧ nextServed intake.mill.lastServed intake.millWaiters = some (3, true, 0) ∧
      2 ^ 20 < (intake.req 0).textLeft ∧
      nextServed 0 (reqDev { state := .intake, order := 3, textLeft := 2 ^ 20 } {}).millWaiters = some (3, true, 0)) := by
  decide +kernel

/-- A request bound to context 0, two words staged. -/
def staged : Device :=
  reqDev { state := .admitted, session := 9, bound := true, ctxValid := true, staged := [1, 2] }
    { session := 9, held := true, live := true, incarnation := 3 }

theorem witness_CommitAppendsOrRefuses :
    (staged.mayCommit env0 0 = true ∧ (staged.req 0).staged ≠ [] ∧ staged.contextFor env0 0 = some staged ∧
      (staged.pinAt env0 0) = staged ∧ 0 + 2 < Config.maxLog ∧ pastDeadline env0 (staged.req 0) = false ∧
      (staged.logEnsure env0 0 2).isSome = true) ∧
    (let d := reqDev { state := .admitted, session := 9, bound := true } {}
     d.mayCommit env0 0 = true ∧ d.standing env0 9 = 0 ∧ (d.req 0).staged = []) ∧
    (let d := staged.setCtx 0 { session := 9, held := true, live := true, logLength := Config.maxLog - 1 }
     d.mayCommit env0 0 = true ∧ d.contextFor env0 0 = some d ∧ d.pinAt env0 0 = d ∧
       Config.maxLog < (d.ctx 0).logLength + 2) ∧
    ((reqDev {} { session := 9, held := true, demoting := true }).serving env0 = true ∧
      ((reqDev {} { session := 9, held := true, demoting := true }).ctx 0).demoting = true) := by decide +kernel

def ready (dl : Nat) : Device :=
  reqDev { state := .ready, session := 9, deadline := dl, ctxValid := true, cookie := 4 }
    { session := 9, held := true, live := true, pinned := true }

theorem witness_EndedRequestsHoldNothing :
    ((ready 0).req 0).going = true ∧
    ((ready 5).checkable env0 0 = true ∧ ((ready 5).req 0).deadline ≠ 0 ∧
      ((ready 5).req 0).deadline < (env0.tick 6).now ∧ (env0.tick 5).now ≤ ((ready 5).req 0).deadline ∧
      ((ready 5).req 0).waitFrom = none) ∧
    (let r : Request := { state := .waitPage, waitFrom := some 0, waitKind := 1 }
     (reqDev r {}).checkable env0 0 = true ∧ r.state ≠ .waitFetch ∧
       waitBound env0 r 0 < (env0.tick (waitBound env0 r 0 + 1)).now ∧
       (env0.tick (waitBound env0 r 0)).now ≤ waitBound env0 r 0) ∧
    (({ ready 5 with kn := { decoding := true } } : Device).checkable env0 0 = false ∧
      (reqDev { state := .ready, stop := 1 } {}).checkable env0 0 = false) := by
  decide +kernel

/-- A descriptor of session 9 with a request of that session. -/
def descReq (op : Nat) (w : List Nat) (r : Request) (c : Context) : Device :=
  { desc op w with recipes := [(0, slot0)], reqs := [(0, r)], ctxs := [(0, c)] }

theorem witness_CancelParkModifyTakeEffect :
    (∃ f d, (descReq 2 [9] { state := .admitted, session := 9 } {}).take env0 0 2 = some (f, d) ∧
      (!d.foreign env0 f && d.target f == some 0 && (d.req 0).going && !(d.req 0).cancelLater) = true) ∧
    (∃ f d, (descReq 2 [9] { state := .seated, session := 9 } {}).take env0 0 2 = some (f, d) ∧
      (!d.foreign env0 f && d.target f == some 0 && (d.req 0).going && (d.req 0).cancelLater) = true) ∧
    (∃ f d, (desc 2 [9]).take env0 0 2 = some (f, d) ∧ (!d.foreign env0 f && d.target f == none) = true) ∧
    (∃ f d, (descReq 3 [9, 1] {} { session := 9, held := true, pinned := true }).take env0 0 3 = some (f, d) ∧
      (!d.foreign env0 f && !d.inHandoff f.session && d.target f == none && d.ctxOf f.session == some 0
        && !(d.ctx 0).live) = true) ∧
    (∃ f d, (descReq 4 [9, 77, 2 ^ 4 + 2 ^ 3 + 5] { state := .ready, session := 9 } {}).take env0 0 4 = some (f, d) ∧
      (!d.foreign env0 f && d.target f == some 0 && (d.req 0).going && (d.req 0).state != .seated) = true) ∧
    (∃ f d, (descReq 4 [9, 77, 2 ^ 4] { state := .seated, session := 9 } {}).take env0 0 4 = some (f, d) ∧
      (!d.foreign env0 f && d.target f == some 0 && (d.req 0).going && (d.req 0).state == .seated) = true) :=
  ⟨takes (p := fun x => !x.2.foreign env0 x.1 && x.2.target x.1 == some 0 && (x.2.req 0).going && !(x.2.req 0).cancelLater)
      (by decide +kernel),
    takes (p := fun x => !x.2.foreign env0 x.1 && x.2.target x.1 == some 0 && (x.2.req 0).going && (x.2.req 0).cancelLater)
      (by decide +kernel),
    takes (p := fun x => !x.2.foreign env0 x.1 && x.2.target x.1 == none) (by decide +kernel),
    takes (p := fun x => !x.2.foreign env0 x.1 && !x.2.inHandoff x.1.session && x.2.target x.1 == none
      && x.2.ctxOf x.1.session == some 0 && !(x.2.ctx 0).live) (by decide +kernel),
    takes (p := fun x => !x.2.foreign env0 x.1 && x.2.target x.1 == some 0 && (x.2.req 0).going
      && (x.2.req 0).state != .seated) (by decide +kernel),
    takes (p := fun x => !x.2.foreign env0 x.1 && x.2.target x.1 == some 0 && (x.2.req 0).going
      && (x.2.req 0).state == .seated) (by decide +kernel)⟩

/-- GENERATE and JOB_GRANT fetched, Recipe 0 loaded, tenant 0 held. -/
def heldGen : Device := { genDev with kn := { tenants := [(0, { held := true })] } }
def heldJob : Device := { desc 0x12 [0, 1000000] with recipes := [(0, slot0)], kn := { tenants := [(0, { held := true })] } }

theorem witness_TenantSettingsAndBudgets :
    (∃ f d, (desc 0x10 [0, 5 + 2 ^ 16]).take env0 0 0x10 = some (f, d) ∧ (f.tenant == 0 && d.free == 0) = true) ∧
    (tfind ({} : Device).kn.tenants 4095 = none) ∧
    (∃ f d, heldJob.take env0 0 0x12 = some (f, d) ∧
      ((d.tenant f.tenant).held && d.recipeFault f.recipe == none) = true) ∧
    (∃ f d, heldGen.take env0 0 0x01 = some (f, d) ∧
      ((d.tenant f.tenant).held && d.recipeFault f.recipe == none && !textOver (d.spans (f.w 4) (bits (f.w 5) 15 0))
        && decide (d.adapterFault f.recipe f.adapter f.version = .inr 0) && d.epochFault (bits (f.w 3) 15 0) == none)
          = true) :=
  ⟨takes (p := fun x => x.1.tenant == 0 && x.2.free == 0) (by decide +kernel), by decide +kernel,
    takes (p := fun x => (x.2.tenant x.1.tenant).held && x.2.recipeFault x.1.recipe == none) (by decide +kernel),
    takes (p := fun x => (x.2.tenant x.1.tenant).held && x.2.recipeFault x.1.recipe == none
      && !textOver (x.2.spans (x.1.w 4) (bits (x.1.w 5) 15 0))
      && decide (x.2.adapterFault x.1.recipe x.1.adapter x.1.version = .inr 0)
      && x.2.epochFault (bits (x.1.w 3) 15 0) == none) (by decide +kernel)⟩


/-! ## Witnesses: boundaries, the decode, chunks, pages -/

/-- A queued job, seq 3, cookie 4, program 0. -/
def job0 (st : JobState) : Job :=
  { seq := 3, ring := 0, cookie := 4, tenant := 0, recipe := 0, program := 0, slice := 0, argAddr := 0, argLen := 0,
    packed := false, ready := 0, order := 0, state := st, slot := none, next := 0, saves := 0, remaining := 0,
    sliceEnd := 0, began := 0, preempt := false, revoked := false, fault := false }

/-- Recipe 0 loaded, one job. -/
def jobDev (j : Job) : Device :=
  { recipes := [(0, slot0)], kn := { jobs := [j] }, cq := [(0, { enabled := true })],
    inflight := [⟨3, 0, 4, 0x12, false, true⟩] }

theorem witness_BoundaryRunsLinesInOrder :
    ((ready 0).atBoundary env0 = true ∧ (ready 0).jobHolds = false ∧
      ((((ready 0).endDue env0).applyChanges env0).checkTimes env0).eligibleJob env0 = none) ∧
    (let e := env0.tick (jobGap env0)
     let d := jobDev (job0 .queued)
     d.atBoundary e = true ∧ d.jobHolds = false ∧ d.kn.seats = [] ∧
       (((d.endDue e).applyChanges e).checkTimes e).eligibleJob e = some (job0 .queued) ∧
       (((d.endDue env0).applyChanges env0).checkTimes env0).eligibleJob (env0.tick (jobGap env0 - 1)) = none) ∧
    ((jobDev (job0 .running)).serving env0 = true ∧ (jobDev (job0 .running)).jobHolds = true) := by decide +kernel

/-- A Recipe whose one crumb and one Oven record use a streamed tensor that has no slot; its group is pair 0 of Slice 0. -/
def streamSlot : RecipeSlot :=
  { slot0 with
    info := { info0 with groups := [[⟨0, 0, 1⟩]], uses := [⟨0, 0, some 0, none⟩, ⟨2, 0, some 0, none⟩], mainRecords := 1
                         prefillRecords := 1 }
    crumb := toBytes 32 1
    ovenCode := toBytes 32 0x41
    streams := [⟨0, 0, 0, 0⟩] }

/-- A sequence in seat 0 whose decode is in progress. -/
def decDev : Device :=
  { reqDev { state := .seated, session := 9, ctxValid := true, newLimit := 5 }
      { session := 9, held := true, live := true, logLength := 1, valid := 0 } with
    kn := { seats := [(0, 0)], decoding := true } }

theorem witness_DecodeEndStepsSeats :
    (decDev.serving env0 = true ∧ decDev.kn.decoding = true ∧ (decDev.decode [] []).1.blocked = false ∧
      ((let p := decDev.decode [] []
        (decDev.kn.seats.map (·.2)).foldl (fun d i => d.stepSeq env0 [] p.1 p.2 i)
          ((decDev.ranBy p.1.dev).numeric true p.1.sats p.1.nans)).endUse env0 (.step 0) []).mode = .running) ∧
    (({ decDev with recipes := [(0, streamSlot)] } : Device).decode [] []).1.blocked = true ∧
    ((decDev.req 0).stop = 0 ∧
      (decDev.logEnsure env0 (decDev.ctx (decDev.req 0).context).logBase 2).isSome = true) ∧
    ((reqDev { state := .seated, stop := 1 } {}).req 0).stop ≠ 0 ∧
    (let e := envR [(0x10000, 1 + 10 * 2 ^ 16)]
     ({} : Device).serving e = true ∧ tokenBudgetMode e = true ∧
       (e.tick 9999999).now / budgetPeriod e = ({} : Device).kn.budgetAt / budgetPeriod e ∧
       (e.tick 10000000).now / budgetPeriod e ≠ ({} : Device).kn.budgetAt / budgetPeriod e) := by decide +kernel

/-- A chunk of request 0 at the head of the Oven's queue. -/
def chunkDev : Device :=
  { reqDev { state := .prefill, session := 9, ctxValid := true, chunk := some (0, 4), target := 4 }
      { session := 9, held := true, live := true, logLength := 4 } with
    oven := { items := [.chunk 0 0 4] } }

theorem witness_ChunkEndServesRequest :
    (chunkDev.serving env0 = true ∧ chunkDev.oven.items = .chunk 0 0 4 :: [] ∧ (chunkDev.req 0).going = true ∧
      (chunkDev.req 0).chunk = some (0, 4) ∧ (chunkDev.bake (chunkDev.chunkWork env0 0 0 4) []).blocked = false ∧
      ((chunkDev.setReq 0 { chunkDev.req 0 with chunk := none }).req 0).chunk ≠ some (0, 4)) ∧
    (let d : Device := { chunkDev with recipes := [(0, streamSlot)], eng := { staged := [[⟨65, 0, some 0⟩]] } }
     d.serving env0 = true ∧ (d.bake (d.chunkWork env0 0 0 4) []).blocked = true) ∧
    (({ dev := chunkDev, mem := [], bad := [], at_ := [], poison := 2 } : Bake).poison ≠ 0 ∧
      chunkDev.kn.changes = []) := by decide +kernel

/-- The frame of slot 1 being zeroed; context 0's page 0 in tier 1, its staging in progress in slot 1. -/
def stageDev : Device :=
  { recipes := [(0, slot0)]
    ctxs := [(0, { session := 9, held := true, pages := [⟨0, 0, 7, false, 1, 0, 0, 1, 0, 0, false, false⟩] })]
    frames := [(0, { zeroing := true }), (1, { owner := .stage 0 0 0 false })] }

theorem witness_ZeroingFreesAndStagingBrings :
    (stageDev.mode = .running ∧ stageDev.logicFrozen = false ∧ (stageDev.frame 0 0 0).zeroing = true ∧ 0 ≠ 16 ∧
      (∀ x ∈ stageDev.reqs, x.2.state ≠ .waitPage)) ∧
    (let d : Device := { lists := [(5, ⟨.none, 0, 0, 0, true⟩)] }
     d.mode = .running ∧ d.logicFrozen = false ∧ tfind d.lists 5 = some ⟨.none, 0, 0, 0, true⟩ ∧ d.reqs = []) ∧
    (stageDev.serving env0 = true ∧ stageDev.staging 0 0 0 = some (1, false) ∧
      ((stageDev.ctx 0).page 0 0).map (·.tier) = some 1 ∧ stageDev.liveReq 0 = none) := by decide +kernel

/-! ## Witnesses: exclusive jobs -/

/-- JOB_GRANT fetched: program 0, slice of the least length, no argument block. -/
def grantDev (held : Bool) : Device :=
  { desc 0x12 [0, 1000000] with recipes := [(0, slot0)], kn := { tenants := [(0, { held := held })] } }

/-- JOB_REVOKE of cookie 4 fetched, with a job. -/
def revokeDev (c : Nat) (s : JobState) : Device := { desc 0x13 [0, c] with kn := { jobs := [job0 s] } }

theorem witness_JobGrantQueuesRevokeEnds :
    (∃ f d, (grantDev false).take env0 0 0x12 = some (f, d) ∧
      (d.recipeFault f.recipe == none && !(d.tenant f.tenant).held && decide (bits (f.w 3) 15 0 < (d.info f.recipe).jobs.length)
        && decide (bits (f.w 2) 47 0 = 1000000) && decide (bits (f.w 5) 31 0 ≤ 65536) && decide (saveSlots env0 ≠ 0)) = true) ∧
    (∃ f d, (grantDev true).take env0 0 0x12 = some (f, d) ∧
      (d.recipeFault f.recipe == none && (d.tenant f.tenant).held) = true) ∧
    (∃ f d, (revokeDev 4 .queued).take env0 0 0x13 = some (f, d) ∧
      (d.kn.jobs == [job0 .queued] && (job0 .queued).cookie == bits (f.w 2) 31 0) = true) ∧
    (∃ f d, (revokeDev 4 .running).take env0 0 0x13 = some (f, d) ∧
      (d.kn.jobs == [job0 .running] && (job0 .running).cookie == bits (f.w 2) 31 0) = true) ∧
    (∃ f d, (revokeDev 5 .queued).take env0 0 0x13 = some (f, d) ∧
      d.kn.jobs.all (fun j => j.cookie != bits (f.w 2) 31 0) = true) :=
  ⟨takes (p := fun x => x.2.recipeFault x.1.recipe == none && !(x.2.tenant x.1.tenant).held
      && decide (bits (x.1.w 3) 15 0 < (x.2.info x.1.recipe).jobs.length) && decide (bits (x.1.w 2) 47 0 = 1000000)
      && decide (bits (x.1.w 5) 31 0 ≤ 65536) && decide (saveSlots env0 ≠ 0)) (by decide +kernel),
    takes (p := fun x => x.2.recipeFault x.1.recipe == none && (x.2.tenant x.1.tenant).held) (by decide +kernel),
    takes (p := fun x => x.2.kn.jobs == [job0 .queued] && (job0 .queued).cookie == bits (x.1.w 2) 31 0) (by decide +kernel),
    takes (p := fun x => x.2.kn.jobs == [job0 .running] && (job0 .running).cookie == bits (x.1.w 2) 31 0) (by decide +kernel),
    takes (p := fun x => x.2.kn.jobs.all (fun j => j.cookie != bits (x.1.w 2) 31 0)) (by decide +kernel)⟩

theorem witness_JobStartLoadsMemory :
    ((jobDev (job0 .taking)).serving env0 = true ∧ (jobDev (job0 .taking)).oven.items = [] ∧
      (∀ q ∈ (jobDev (job0 .taking)).sift.queries, q.ctx = none) ∧ (jobDev (job0 .taking)).program (job0 .taking) ≠ []) ∧
    (let j := { job0 .taking with saves := 1, slot := some 1, next := 1 }
     (jobDev j).serving env0 = true ∧ 0 < j.saves ∧ (jobDev j).program j ≠ []) := by decide +kernel

theorem witness_JobRecordsEndOnTimeOrOverrun :
    (let j := { job0 .running with next := 1 }
     (jobDev j).serving env0 = true ∧ ((jobDev j).program j)[j.next]? = some ⟨true, ⟨0, 0, 0, 0⟩, 0⟩ ∧
       0 ≤ 2 * recDuration ⟨0, 0, 0, 0⟩ ∧ ((jobDev j).program j).length ≤ j.next + 1 ∧ j.fault = false ∧
       ((jobDev j).runRecord env0 j ⟨0, [], 0, 0, []⟩).isSome = true) ∧
    (let j := job0 .running
     let d : Device := { jobDev j with recipes := [(0, { streamSlot with info := { streamSlot.info with
       jobs := [[⟨false, ⟨0x41, 0, 0, 0⟩, 1⟩]], uses := [⟨4, 0, some 0, none⟩] } })] }
     d.serving env0 = true ∧ (d.runRecord env0 j ⟨0, [], 0, 0, []⟩).isNone = true) ∧
    (let j := job0 .running
     ((jobDev j).program j)[j.next]? = some ⟨true, ⟨0, 0, 0, 0⟩, 0⟩ ∧ j.next + 1 < ((jobDev j).program j).length ∧
       j.preempt = false ∧ j.slice = 0) ∧
    (let j := { job0 .running with slice := 1000000, sliceEnd := 5 }
     j.next + 1 < ((jobDev j).program j).length ∧ j.slice ≠ 0 ∧ j.sliceEnd < (env0.tick 6).now ∧
       (env0.tick 5).now ≤ j.sliceEnd ∧ 2 * recDuration ((jobDev j).recordOf j).op < 1 ∧
       0 ≤ 2 * recDuration ((jobDev j).recordOf j).op) := by decide +kernel

theorem witness_SaveKeepsJobMemory :
    (jobDev (job0 .saving)).serving env0 = true ∧ (jobDev (job0 .saving)).kn.jobs = [job0 .saving] := by decide +kernel

/-! ## Witnesses: Recipes, adapters, grammars, EMBED, the Sifter -/

/-- A Recipe image of 4,096 bytes with three empty sections; its digest (SHA-512 of bytes 0x100 on) was computed outside
the model. -/
def recTail : List Byte :=
  ([1, 2, 8].map (fun k => toBytes 8 k ++ toBytes 8 4096 ++ toBytes 8 0 ++ zeros 8)).flatten ++ zeros 3744
def recImage : List Byte :=
  toBytes 4 0x50435252 ++ toBytes 2 1 ++ toBytes 2 3 ++ toBytes 8 4096 ++ zeros 48 ++
    toBytesBE 64 0x07fc149a0ab5bab93f1f17de4dc888c962d53e48214bbf214495d3ba0221679b7b8815dd022726a09992edd29b52cd5dd94b5999fd91af271dd748142fa45ec5 ++
    zeros 128 ++ recTail
def recInfo : RecipeInfo :=
  { infoE with vocab := 1, chunkMax := 256, seatNeed := 1, weightRuns := [⟨0, 0, 1⟩], weightPattern := 3 :: List.replicate 31 0 }

theorem recImage_ok : imageOk recImage 4096 = true ∧ recImage.drop 0x100 = recTail ∧ (recImage.drop 0x40).take 64 =
    toBytesBE 64 0x07fc149a0ab5bab93f1f17de4dc888c962d53e48214bbf214495d3ba0221679b7b8815dd022726a09992edd29b52cd5dd94b5999fd91af271dd748142fa45ec5 := by
  decide +kernel
theorem recTail_digest : sha512 recTail =
    toBytesBE 64 0x07fc149a0ab5bab93f1f17de4dc888c962d53e48214bbf214495d3ba0221679b7b8815dd022726a09992edd29b52cd5dd94b5999fd91af271dd748142fa45ec5 := by
  decide +kernel
theorem recImage_digest : sha512 (recImage.drop 0x100) = (recImage.drop 0x40).take 64 := by
  rw [recImage_ok.2.1, recImage_ok.2.2, recTail_digest]

/-- A Recipe area of 1 GiB. -/
def envA : Env := envR [(0x50000, 2 ^ 16)]

theorem recImage_sound : ({} : Device).imageFault envA recImage recInfo = none := by decide +kernel

/-- Recipe 0's slot in use by a live request, or not. -/
def unloadDev (st : ReqState) : Device := { desc 0x19 [0] with recipes := [(0, slot0)], reqs := [(0, { state := st })] }

/-- The image as the host holds it at 64, RECIPE_LOAD fetched. -/
@[irreducible] def recHost : Memory := mwrites 0 [] 64 recImage
def recDev : Device := { desc 0x18 [0, 64, 4096] with host := recHost }

theorem hostRead_of {d : Device} {a n : Nat} {im : List Byte} (h : d.host = mwrites 0 [] a im) (hn : im.length = n) :
    d.hostRead a n = im := by
  subst hn
  rw [Device.hostRead, h]
  exact mreads_mwrites_same 0 [] a im

theorem imageFault_congr {e : Env} {d d' : Device} {im : List Byte} {i : RecipeInfo} (hr : d.recipes = d'.recipes)
    (hh : d.health = d'.health) : d.imageFault e im i = d'.imageFault e im i := by
  cases d
  cases d'
  dsimp only at hr hh
  subst hr hh
  rfl

theorem recHost_eq : recHost = mwrites 0 [] 64 recImage := by unfold recHost; exact Eq.refl _

theorem witness_RecipeSlotsFillAndFree :
    (∃ f d, recDev.take envA 0 0x18 = some (f, d) ∧ d.recipe f.recipe = none ∧ bits (f.w 3) 39 0 = 4096 ∧
      d.hostRead (f.w 2) (bits (f.w 3) 39 0) = recImage ∧ imageOk recImage 4096 = true ∧
      d.recipeBlock envA 4096 = some 0 ∧ sha512 (recImage.drop 0x100) = (recImage.drop 0x40).take 64 ∧
      d.imageFault envA recImage recInfo = none) ∧
    (∃ f d, ({ desc 0x18 [0, 64, 4096] with recipes := [(0, slot0)] } : Device).take env0 0 0x18 = some (f, d) ∧
      (d.recipe f.recipe).isSome = true) ∧
    (∃ f d, (desc 0x19 [0]).take env0 0 0x19 = some (f, d) ∧ (d.recipe f.recipe == none) = true) ∧
    (∃ f d, (unloadDev .ready).take env0 0 0x19 = some (f, d) ∧
      (d.recipe f.recipe == some slot0 && d.slotInUse f.recipe) = true) ∧
    (∃ f d, (unloadDev .free).take env0 0 0x19 = some (f, d) ∧
      (d.recipe f.recipe == some slot0 && !d.slotInUse f.recipe) = true) := by
  refine ⟨?_, takes (p := fun x => (x.2.recipe x.1.recipe).isSome) (by decide +kernel),
    takes (p := fun x => x.2.recipe x.1.recipe == none) (by decide +kernel),
    takes (p := fun x => x.2.recipe x.1.recipe == some slot0 && x.2.slotInUse x.1.recipe) (by decide +kernel),
    takes (p := fun x => x.2.recipe x.1.recipe == some slot0 && !x.2.slotInUse x.1.recipe) (by decide +kernel)⟩
  obtain ⟨f, d, h, hp⟩ := takes (d := recDev) (e := envA) (ring := 0) (op := 0x18) (p := fun x => decide (x.2.recipe x.1.recipe = none)
    && decide (x.1.w 2 = 64) && decide (bits (x.1.w 3) 39 0 = 4096) && decide (x.2.recipeBlock envA 4096 = some 0))
    (by decide +kernel)
  simp only [Bool.and_eq_true, decide_eq_true_eq] at hp
  obtain ⟨⟨⟨h1, h2⟩, h3⟩, h4⟩ := hp
  obtain ⟨g, i, hd⟩ := take_frame h
  have hh : d.host = recHost := by rw [hd]; rfl
  have hl : recImage.length = 4096 := by decide +kernel
  refine ⟨f, d, h, h1, h3, ?_, recImage_ok.1, h4, recImage_digest, ?_⟩
  · rw [h2, h3]
    exact hostRead_of (hh.trans recHost_eq) hl
  · rw [← recImage_sound]
    exact imageFault_congr (by rw [hd]; rfl) (by rw [hd]; rfl)

/-- Recipe 0 with one adapter frame of one byte; an adapter image of one byte of data, and a grammar image of one state
and one key, as the host holds them at 64. -/
def adSlot : RecipeSlot := { slot0 with info := { info0 with adapterFrames := 1, adapterBytes := 1 } }
def adImage : List Byte := toBytes 4 0x50435241 ++ toBytes 4 1 ++ toBytes 8 0 ++ toBytes 8 1 ++ zeros 40 ++ [5]
def grImage : List Byte :=
  toBytes 4 0x4C435453 ++ toBytes 2 1 ++ toBytes 2 1 ++ toBytes 8 0 ++ toBytes 4 0 ++ toBytes 4 1 ++ toBytes 4 0
    ++ toBytes 4 1 ++ toBytes 4 64 ++ toBytes 4 72 ++ toBytes 4 136 ++ toBytes 4 136 ++ toBytes 4 136 ++ toBytes 4 0 ++ toBytes 8 0
    ++ toBytes 8 (2 ^ 32) ++ zeros 64
def loadDev (op : Nat) (w : List Nat) (im : List Byte) : Device :=
  { desc op w with recipes := [(0, adSlot)], host := mwrites 0 [] 64 im }

theorem witness_AdapterVersionsAndGrammarHandles :
    (∃ f d, (loadDev 0x1A [4 * 2 ^ 36 + 5 * 2 ^ 48, 64, 65] adImage).take env0 0 0x1A = some (f, d) ∧
      (d.recipe f.recipe == some adSlot && !d.adapterBad f.recipe f.adapter f.version (bits (f.w 3) 39 0) adSlot
        (d.hostRead (f.w 2) (bits (f.w 3) 39 0))) = true) ∧
    (∃ f d, ({ desc 0x1B [4 * 2 ^ 36 + 5 * 2 ^ 48] with adapters := [(4, ⟨0, some 5, [(5, 1)], []⟩)] } : Device).take env0 0 0x1B
        = some (f, d) ∧
      (tfind d.adapters f.adapter == some ⟨0, some 5, [(5, 1)], []⟩ && f.recipe == 0 && f.version == 5) = true) ∧
    (∃ f d, (loadDev 0x1C [0, 64, 136 + 3 * 2 ^ 40] grImage).take env0 0 0x1C = some (f, d) ∧
      (d.recipe f.recipe == some adSlot && tfind d.grammars (bits (f.w 3) 51 40) == none
        && grammarOk (d.hostRead (f.w 2) (bits (f.w 3) 39 0)) (millV adSlot.mill) adSlot.digest
        && decide (d.stencilUsed + bits (f.w 3) 39 0 ≤ stencilStore env0)) = true) ∧
    (∃ f d, ({ desc 0x1D [0, 0, 3 * 2 ^ 40] with grammars := [(3, ⟨0, [], false⟩)] } : Device).take env0 0 0x1D = some (f, d) ∧
      (tfind d.grammars (bits (f.w 3) 51 40) == some ⟨0, [], false⟩) = true) ∧
    (∃ f d, (desc 0x1D [0, 0, 3 * 2 ^ 40]).take env0 0 0x1D = some (f, d) ∧
      (tfind d.grammars (bits (f.w 3) 51 40) == none) = true) :=
  ⟨takes (p := fun x => x.2.recipe x.1.recipe == some adSlot && !x.2.adapterBad x.1.recipe x.1.adapter x.1.version
      (bits (x.1.w 3) 39 0) adSlot (x.2.hostRead (x.1.w 2) (bits (x.1.w 3) 39 0))) (by decide +kernel),
    takes (p := fun x => tfind x.2.adapters x.1.adapter == some ⟨0, some 5, [(5, 1)], []⟩ && x.1.recipe == 0
      && x.1.version == 5) (by decide +kernel),
    takes (p := fun x => x.2.recipe x.1.recipe == some adSlot && tfind x.2.grammars (bits (x.1.w 3) 51 40) == none
      && grammarOk (x.2.hostRead (x.1.w 2) (bits (x.1.w 3) 39 0)) (millV adSlot.mill) adSlot.digest
      && decide (x.2.stencilUsed + bits (x.1.w 3) 39 0 ≤ stencilStore env0)) (by decide +kernel),
    takes (p := fun x => tfind x.2.grammars (bits (x.1.w 3) 51 40) == some ⟨0, [], false⟩) (by decide +kernel),
    takes (p := fun x => tfind x.2.grammars (bits (x.1.w 3) 51 40) == none) (by decide +kernel)⟩

/-- EMBED of one text span of three bytes; a row group at the head of the Oven's queue. -/
def embedDev : Device :=
  { desc 0x20 [0, 64, 1, 1024, 64] with
    recipes := [(0, slot0)]
    host := mwrites 0 [] 64 (toBytes 8 4096 ++ toBytes 8 3) ++ [(4096, 65), (4097, 66), (4098, 67)] }
def embedJob : EmbedJob := ⟨3, 0, 4, 0, 0, 0, 0, 0, 0, 0, 1024, [], 0, [], [], 1, [0], 1, 64, false⟩
def rowsDev : Device :=
  { jobDev (job0 .queued) with kn := {}, oven := { items := [.rows 3 256 [0]], embeds := [embedJob] } }

theorem witness_EmbedQueuesAndEnds :
    (embedDev.jobHolds = false ∧ ∃ f d, embedDev.take env0 0 0x20 = some (f, d) ∧
      (!textOver (d.spans (f.w 2) (bits (f.w 3) 15 0)) && d.recipeFault f.recipe == none
        && d.adapterFault f.recipe f.adapter f.version == .inr 0
        && d.embedFault (d.millOf f.recipe) (d.spans (f.w 2) (bits (f.w 3) 15 0)) == none
        && ((d.spans (f.w 2) (bits (f.w 3) 15 0)).map (fun x =>
          if x.type ≤ 1 then (d.hostRead x.addr x.len).length else 0)).sum == 3) = true) ∧
    (rowsDev.serving env0 = true ∧ rowsDev.hif.linkUp = true ∧ rowsDev.oven.items = .rows 3 256 [0] :: [] ∧
      rowsDev.oven.embeds = [embedJob] ∧ embedJob.seq = 3 ∧ embedJob.left = 1 ∧
      (rowsDev.bake (embedJob.work env0 [0]) []).blocked = false ∧ (rowsDev.bake (embedJob.work env0 [0]) []).poison = 0) ∧
    (let d : Device :=
       { rowsDev with
         recipes := [(0, { streamSlot with info := { streamSlot.info with
           prefillRecords := 0, embedRecords := 1, uses := [⟨3, 0, some 0, none⟩] } })]
         eng := { staged := [[⟨65, 0, some 0⟩]] } }
     d.serving env0 = true ∧ (d.bake (embedJob.work env0 [0]) []).blocked = true) :=
  ⟨⟨by decide +kernel, takes (p := fun x => !textOver (x.2.spans (x.1.w 2) (bits (x.1.w 3) 15 0))
      && x.2.recipeFault x.1.recipe == none && x.2.adapterFault x.1.recipe x.1.adapter x.1.version == .inr 0
      && x.2.embedFault (x.2.millOf x.1.recipe) (x.2.spans (x.1.w 2) (bits (x.1.w 3) 15 0)) == none
      && ((x.2.spans (x.1.w 2) (bits (x.1.w 3) 15 0)).map (fun y =>
        if y.type ≤ 1 then (x.2.hostRead y.addr y.len).length else 0)).sum == 3) (by decide +kernel)⟩,
    by decide +kernel, by decide +kernel⟩

/-- A query on handle 1, k 1, no re-rank, its query block at host address 64; the handle's index, empty. -/
def query0 (c : Option Nat) : Query := ⟨3, 0, 4, 3, false, [0x21, 0, 64, 1 + 2 ^ 16, 0, 16], 1, c, 5, [], []⟩
def siftDev (q : Query) : Device :=
  { jobDev (job0 .queued) with kn := {}, host := [(64, 1)], lp := [(siftEntry env0 1, 1)], sift := { queries := [q] } }
def siftIx : SiftIndex := ⟨true, 128, 1, 4, 32, 0, 65536, 64, 64, 0, 0⟩

theorem witness_SiftQueriesQueueRunAndEnd :
    ((∃ f d, (desc 0x21 [0]).take env0 0 0x21 = some (f, d) ∧ (f.ring == some 0) = true) ∧
      (∃ f d, (desc 0x22 [0]).take env0 0 0x22 = some (f, d) ∧ (f.ring == some 0) = true)) ∧
    (let q := query0 none
     let d := siftDev q
     d.serving env0 = true ∧ d.jobHolds = false ∧ q.ctx = none ∧ q.update = false ∧
       siftFault (d.siftIndex env0 q.handle) q.q (d.hostRead 64 (blockBytes (d.siftIndex env0 q.handle) q.q)) = none ∧
       siftFault ({ d with lp := [] }.siftIndex env0 q.handle) q.q (d.hostRead 64 0x80) = some 0x000C) ∧
    (let q := query0 (some 2)
     (siftDev q).serving env0 = true ∧ q.ctx = some 2 ∧ (siftDev q).hif.linkUp = true ∧
       (siftDev q).vectorsOut 2 = false ∧
       ({ siftDev q with pem := { waiting := readOps 1 0 64 6 (.vector 2) } } : Device).vectorsOut 2 = true ∧
       q.since + queryLimit env0 ≤ (env0.tick 1000000005).now ∧
       (env0.tick 1000000004).now < q.since + queryLimit env0) :=
  ⟨⟨takes (p := fun x => x.1.ring == some 0) (by decide +kernel), takes (p := fun x => x.1.ring == some 0) (by decide +kernel)⟩,
    by decide +kernel⟩

theorem witness_FilterPassesAndPrunes :
    (let f : SiftFilter := ⟨true, 1, 0, 0, 0, 0, 0, 0⟩
     let d : Device := {}
     f.on = true ∧ 0 &&& d.ix siftIx 0x10 8 = 0 ∧ d.ix siftIx 0x18 4 ≤ 0 ∧ 0 ≤ d.ix siftIx 0x1C 4 ∧
       d.ix siftIx 0x20 4 ≤ 0 ∧ 0 ≤ d.ix siftIx 0x24 4 ∧ d.pruned siftIx f 0 = true) ∧
    (⟨false, 1, 0, 0, 0, 0, 0, 0⟩ : SiftFilter).on = false ∧
    (let f : SiftFilter := ⟨true, 0, 0, 0, 1, 0, 0, 0⟩
     f.on = true ∧ f.aHigh < f.aLow) ∧
    (let f : SiftFilter := ⟨true, 0, 0, 0, 0, 0, 1, 0⟩
     f.on = true ∧ f.bHigh < f.bLow) := by decide +kernel

/-! ## A signed firmware image -/

/-- The modulus of a 4,096-bit RSA key made for this test, outside the model. -/
def fwModulus : Nat := [
  0xED4F563226AAADB20748743C0BDFCD44D5F6B17ACF5C745312DC675509C539F5,
  0xD3D9EE5228AF81222F6D565D8F36B944BFAA8AF2BCF24F35E6D2813290D228BC,
  0x6DF8A814847AA029DB37981C3BD80F1BD63A538ADE84C009B1164167FD7D3482,
  0x84F2D81138FAA6490413A0C88FD1C2E550A91C18FDADA4F6619E757AA0937BF0,
  0xA71C76C52326BABC50EF1E7FAD9D1EA0946E5EFF553A675640BB63DFDF86FD53,
  0x7D109B5E264D4CDD8A1CBACA1FC90C592E61FB8D4B557686FEDA030E56B950B4,
  0x1BDF4C31035C13560E0E3971BF397D772C4181020329AD9C58EB7772281BC03D,
  0x1FCB98A8B9734730944492F64E21E6AFB36C9422A5764003ADC6521ABAD50751,
  0x5C8FE81ECE150C55AA7348DBFCA3EECEA47D95FF261554F7203BCE7B367950FC,
  0x98543198AF0858C5A4D9EAAB1C79EDE436DEDD3B27BF56A60C53289CF24096D5,
  0x842DDEB48550C45DCCF1868E7F593D58ED6E6F2668852F63AC14BB490A9C1D99,
  0x4B096F4EF56854B45DCA8EC1C6E246776DBB8166C0F4BBDE244DBE2442C7311E,
  0xA679A3DC54D9CC695E1DFA2BEDB64FCB4536D8A622EA1DC116C220898A2488B0,
  0x193D1BB1194163308D32BAD82A777EFA14C7F042E1F23EF73346419B28506115,
  0xFE407ECDA75BC33D589048ABBF7E86E1EF4624FDC8DAD0A2DBCCFF6DBFAD91DA,
  0x930FF6DE44F475D3E9C5628CCB1CF300EBBAE98455CF7DC2BF4DF6365FA3089B].foldl (fun a b => a * 2 ^ 256 + b) 0
/-- Its RSASSA-PSS signature over bytes 0x000 to 0x9FF of `fwImage`, salt zero, made outside the model. -/
def fwSignature : Nat := [
  0x83DAAD3F224BB0C721652F660005505D4593B28634FF3F09E8FCA8644F9F4EAE,
  0x9FC416E35F02002266F111ECBFD6631E902B397F612EC30C1392CCA344621189,
  0x9C1B8A9FFA2689CE4081DD7C4C4AAD3821089B196DB296851B162874A393E37F,
  0xE152F0D0B5C9F6997E0EDE87364086C4FF8985BE705F97C43138368B70E1F9C3,
  0x38A0DCEE9020BD7556A96404640D06F199C73BD3053C0C8DE619337C4D2615A0,
  0x863FD4859C16DA43ECD68E11DE3EBE07CDF1F21A979CA4DD0526A09F799DA3CB,
  0xB1962D5A9980B9EB01998AAF82B27FD0AE97359AF3CF1E8047305BA755900B04,
  0xC5DC79A0067FDEB7E058BB37A404A2DE609FE7AA587745DAE49575BCB723D95E,
  0xE434691210FAAEADA07A4592E4C4BD3EEFE68A8DB14C521B25E33A4FEB271631,
  0xE0E863CE8A1A7D0A4F8D945B4E5C2E5F34FF965EC0F696E7B03063BF4BBA2CA2,
  0xA7F63833E55F02BBFCA81DB76074101FAC0D11443C16651793D586FB6B62B04C,
  0x5FF5404AB504E2AD269CD1690CE173CC7B443EB573271AF5F71DF495643F034F,
  0x950DD1F8FDB46DE5D63F00A62A45D59FFED2F949B03E5FCE99D8B8F64FB094DC,
  0x5E93444B4363B6C7B939D9A2247B3C0BBAF29C43B66B6606F94E07037E658F3D,
  0x606FBF0186E15B4A1F9B58816AD61F26199FFB8A641A84CF36F222FE19086C40,
  0xB12D28372351D03E4AB5AD688217C5BF1EC9A45B9F491A743E252944E69E6F28].foldl (fun a b => a * 2 ^ 256 + b) 0
/-- SHA-512 of the empty message, as it lies in memory (FIPS 180-4). -/
def emptyDigest : List Byte := toBytesBE 64 0xcf83e1357eefb8bdf1542850d66d8007d620e4050b5715dc83f4a921d36ce9ce47d0d13c5d85f2b0ff8318d2877eec2f63b931bd47417a81a538327af927da3e

/-- A firmware image of 4,096 bytes: rollback index 3, key slot 0, fourteen empty components. -/
def fwFront : List Byte :=
  (toBytes 4 0x57464D47 ++ toBytes 2 1 ++ toBytes 2 0x0720 ++ toBytes 4 0 ++ toBytes 1 0 ++ toBytes 1 3 ++ toBytes 2 0
    ++ toBytes 2 14 ++ toBytes 2 0 ++ toBytes 4 0 ++ toBytes 8 4096 ++ zeros 32) ++ (toBytesBE 512 fwModulus ++ zeros 448)
def fwTable : List Byte :=
  ((upto 14).map (fun i => toBytes 8 (i + 1) ++ toBytes 8 4096 ++ toBytes 8 0 ++ emptyDigest ++ zeros 8)).flatten ++ zeros 192
def fwBack : List Byte := toBytesBE 512 fwSignature ++ zeros 1024
def fwImage : List Byte := fwFront ++ (fwTable ++ fwBack)

/-- SHA-512 of the modulus, as it lies in memory, computed outside the model. -/
def fwKeyDigest : Nat :=
  0x59CB6AD9053369A4972138E4EB17F6FBBA653D49E61926878DAFADA40B339942 * 2 ^ 256 +
  0xCEF05CDA83A018D9968E40A72D4FB834B242BD91E7B0FB4BD1EAAB402C78C89E

/-- Fuses whose key slot 0 holds that key. -/
def fwFuses : Fuses := { rollback := 3, keys := [(fwKeyDigest, false), (0, false), (0, false), (0, false)] }

theorem test_sha512_empty : sha512 [] = emptyDigest := by decide +kernel
theorem fwImage_key : sha512N (toBytesBE 512 fwModulus) = fwKeyDigest := by decide +kernel
theorem fwImage_signature : pssVerify (toBytesBE 512 fwModulus) (fwFront ++ fwTable) (toBytesBE 512 fwSignature) = true := by
  decide +kernel
theorem fwFront_length : fwFront.length = 0x400 := by decide +kernel

theorem fwImage_drop (o : Nat) : fwImage.drop (0x400 + o) = (fwTable ++ fwBack).drop o := by
  rw [fwImage, List.drop_append, fwFront_length, List.drop_eq_nil_of_le (by rw [fwFront_length]; omega),
    List.nil_append, Nat.add_sub_cancel_left]

/-- Kind, offset, length and digest of every component, read from the table. -/
theorem fwImage_components : (∀ i ∈ upto 14, compKind fwImage i = i + 1 ∧ compOff fwImage i = 0x1000 ∧
    compLen fwImage i = 0 ∧ compDigest fwImage i = emptyDigest) := by
  have h : ∀ i ∈ upto 14, ofBytes (((fwTable ++ fwBack).drop (96 * i)).take 2) = i + 1 ∧
      ofBytes (((fwTable ++ fwBack).drop (96 * i + 8)).take 8) = 0x1000 ∧
      ofBytes (((fwTable ++ fwBack).drop (96 * i + 16)).take 8) = 0 ∧
      ((fwTable ++ fwBack).drop (96 * i + 24)).take 64 = emptyDigest := by decide +kernel
  intro i hi
  obtain ⟨a, b, c, d⟩ := h i hi
  refine ⟨?_, ?_, ?_, ?_⟩
  · rw [← a, compKind, secNat, fwImage_drop]
  · rw [← b, compOff, secNat, ← fwImage_drop, ← Nat.add_assoc, Nat.add_right_comm]
  · rw [← c, compLen, secNat, ← fwImage_drop, ← Nat.add_assoc, Nat.add_right_comm]
  · rw [← d, compDigest, ← fwImage_drop, ← Nat.add_assoc, Nat.add_right_comm]

theorem fwImage_front : secNat fwImage 0 4 = 0x57464D47 ∧ secNat fwImage 4 2 = 1 ∧ secNat fwImage 6 2 = 0x0720 ∧
    secNat fwImage 0x0C 1 = 0 ∧ secNat fwImage 0x0D 1 = 3 ∧ compCount fwImage = 14 ∧ secNat fwImage 0x12 2 = 0 ∧
    secNat fwImage 0x18 8 = 4096 ∧ secNat fwImage 0x20 16 = 0 ∧ (fwImage.drop 0x40).take 512 = toBytesBE 512 fwModulus := by
  decide +kernel

theorem fwImage_parts : fwImage.take 0xA00 = fwFront ++ fwTable ∧ (fwImage.drop 0xA00).take 512 = toBytesBE 512 fwSignature := by
  have h : fwTable.length = 0x600 := by decide +kernel
  constructor
  · rw [fwImage, List.take_append, List.take_append, fwFront_length, h]
    simp [List.take_of_length_le, fwFront_length, h]
  · rw [show 0xA00 = 0x400 + 0x600 from rfl, fwImage_drop, ← h, List.drop_left, fwBack,
      List.take_left' (by simp only [toBytesBE, List.length_reverse, length_toBytes])]

theorem fwImage_form : imageForm fwImage 4096 = true := by
  obtain ⟨h1, h2, -, h4, -, h6, -, -, h9, -⟩ := fwImage_front
  have hk : (upto 14).map (compKind fwImage) = (upto 14).map (fun i => i + 1) :=
    List.map_congr_left (fun i hi => (fwImage_components i hi).1)
  have ha : (upto 14).all (fun i => 0x1000 ≤ compOff fwImage i && compOff fwImage i % 4096 == 0
      && compOff fwImage i + compLen fwImage i ≤ 4096) = true := by
    rw [List.all_eq_true]
    intro i hi
    obtain ⟨-, b, c, -⟩ := fwImage_components i hi
    simp [b, c]
  have hb : (upto 14).all (fun i => (upto 14).all (fun j => i == j || compOff fwImage i + compLen fwImage i ≤ compOff fwImage j
      || compOff fwImage j + compLen fwImage j ≤ compOff fwImage i)) = true := by
    rw [List.all_eq_true]
    intro i hi
    rw [List.all_eq_true]
    intro j hj
    obtain ⟨-, b, c, -⟩ := fwImage_components i hi
    obtain ⟨-, b', c', -⟩ := fwImage_components j hj
    simp [b, c, b', c']
  simp only [imageForm, h1, h2, h4, h6, h9, hk, ha, hb]
  decide +kernel

/-- The image passes every check. -/
theorem fwImage_passes : imageChecks fwFuses fwImage 4096 = none := by
  obtain ⟨-, -, h2, h3, h9, h8, h4, -, -, h5⟩ := fwImage_front
  obtain ⟨h6, h7⟩ := fwImage_parts
  have hc : (upto 14).any (fun i => sha512 ((fwImage.drop (compOff fwImage i)).take (compLen fwImage i))
      != compDigest fwImage i) = false := by
    rw [List.any_eq_false]
    intro i hi
    obtain ⟨-, -, a, b⟩ := fwImage_components i hi
    simp [a, b, test_sha512_empty]
  have hk : fwFuses.keys.getD 0 (0, true) = (fwKeyDigest, false) := rfl
  have hr : fwFuses.rollback = 3 := rfl
  simp only [imageChecks, fwImage_form, h2, h3, h4, h5, h6, h7, h8, h9, hk, hr, hc, fwImage_key, fwImage_signature]
  rfl

/-! ## Witnesses: firmware, attestation, flash -/

/-- The staged image of `fwImage`, FW_COMMIT of it fetched; a device whose granule is marked, and one where it is not. -/
@[irreducible] def fwStaged : Memory := mwrites 0 [] 0 fwImage
def fwDev (g : List Nat) : Device :=
  { desc 0x31 [0, 0, 4096] with lp := fwStaged, hearth := { fuses := fwFuses, granules := g } }

theorem fwStaged_eq : fwStaged = mwrites 0 [] 0 fwImage := by unfold fwStaged; exact Eq.refl _

theorem fwImage_length : fwImage.length = 4096 := by
  rw [fwImage, List.length_append, List.length_append, fwFront_length, fwBack]
  have h : fwTable.length = 0x600 := by decide +kernel
  simp only [h, List.length_append, toBytesBE, List.length_reverse, length_toBytes, zeros, List.length_replicate]

theorem fwDev_commit (g : List Nat) (fg : List Fetched) (i : List InFlight) :
    mreads 0 ({ fwDev g with fetched := fg, inflight := i } : Device).lp (stageBase env0) (sat Config.maxImage 4096) = fwImage := by
  have h : ({ fwDev g with fetched := fg, inflight := i } : Device).lp = mwrites 0 [] 0 fwImage := fwStaged_eq
  rw [h, show stageBase env0 = 0 from by decide +kernel, show sat Config.maxImage 4096 = fwImage.length from fwImage_length.symm]
  exact mreads_mwrites_same 0 [] 0 fwImage

theorem witness_FirmwareStagesAndCommits :
    (∃ f d, (desc 0x30 [0, 64, 4096]).take env0 0 0x30 = some (f, d) ∧ (d.mode == .running && bits (f.w 3) 63 32 == 0
      && bits (f.w 3) 16 0 == 4096) = true) ∧
    (∃ f d, (desc 0x30 [0, 64, 4096 + 7 * 2 ^ 32]).take env0 0 0x30 = some (f, d) ∧
      (d.mode == .running && bits (f.w 3) 63 32 % 4096 == 7) = true) ∧
    (∃ f d, (fwDev [0]).take env0 0 0x31 = some (f, d) ∧ bits (f.w 3) 31 0 = 4096 ∧ d.mode = .running ∧
      (∀ g ∈ granules 0 4096, g ∈ d.hearth.granules) ∧ secNat fwImage 0x18 8 = 4096 ∧
      mreads 0 d.lp (stageBase env0) (sat Config.maxImage 4096) = fwImage ∧ imageChecks d.hearth.fuses fwImage 4096 = none) ∧
    (∃ f d, (fwDev []).take env0 0 0x31 = some (f, d) ∧ (bits (f.w 3) 31 0 == 4096 && d.mode == .running
      && (granules 0 4096).any (fun g => !d.hearth.granules.contains g)) = true) ∧
    imageChecks {} fwImage 4096 = some (0x60, 3) := by
  refine ⟨takes (p := fun x => x.2.mode == .running && bits (x.1.w 3) 63 32 == 0 && bits (x.1.w 3) 16 0 == 4096)
      (by decide +kernel),
    takes (p := fun x => x.2.mode == .running && bits (x.1.w 3) 63 32 % 4096 == 7) (by decide +kernel), ?_,
    takes (p := fun x => bits (x.1.w 3) 31 0 == 4096 && x.2.mode == .running
      && (granules 0 4096).any (fun g => !x.2.hearth.granules.contains g)) (by decide +kernel), ?_⟩
  · obtain ⟨f, d, h, hp⟩ := takes (d := fwDev [0]) (e := env0) (ring := 0) (op := 0x31)
      (p := fun x => decide (bits (x.1.w 3) 31 0 = 4096)) (by decide +kernel)
    obtain ⟨g, i, rfl⟩ := take_frame h
    exact ⟨f, _, h, of_decide_eq_true hp, rfl, (show ∀ g ∈ granules 0 4096, g ∈ [0] by decide), fwImage_front.2.2.2.2.2.2.2.1, fwDev_commit [0] g i, fwImage_passes⟩
  · obtain ⟨-, -, h2, h3, h9, h8, h4, -, -, h5⟩ := fwImage_front
    simp only [imageChecks, fwImage_form, h2, h3, h4, h5, fwImage_key]
    decide +kernel

theorem witness_ImageChecksInOrder :
    imageForm [] 0 = false ∧ imageForm fwImage 4096 = true ∧ secNat fwImage 6 2 = 0x0720 ∧
    imageChecks fwFuses fwImage 4096 = none :=
  ⟨by decide +kernel, fwImage_form, fwImage_front.2.2.1, fwImage_passes⟩

/-- A calibration set whose four sections are its one byte of data. -/
def calSet : List Byte :=
  toBytes 4 0x54534C43 ++ toBytes 4 1 ++ zeros 8 ++ (List.replicate 4 (toBytes 4 0x80 ++ toBytes 4 1)).flatten ++ zeros 16
    ++ sha512 [7] ++ [7]
def commitDev (o : FlashOp) : Device := { hearth := { ops := [o] } }

theorem witness_ReportsAndFlashWrites :
    (∃ f d, (desc 0x32 [0, 64, 0, 1, 2, 3, 4]).take env0 0 0x32 = some (f, d) ∧ (d.mode == .running) = true) ∧
    (desc 0x32 [0, 64, 0, 1, 2, 3, 4]).hif.linkUp = true ∧
    (∃ f d, ({ desc 0x33 [0, 64, 129] with host := mwrites 0 [] 64 calSet } : Device).take env0 0 0x33 = some (f, d) ∧
      calOk (d.hostRead (f.w 2) (bits (f.w 3) 31 0)) = true) ∧
    (∃ f d, (desc 0x33 [0, 64, 129]).take env0 0 0x33 = some (f, d) ∧
      (!calOk (d.hostRead (f.w 2) (bits (f.w 3) 31 0))) = true) ∧
    ((commitDev (.commit (fd [0x31]) true [1])).mode = .running ∧ (commitDev (.commit (fd [0x31]) true [1])).logicFrozen = false ∧
      (commitDev (.calibration (fd [0x33]) false [1])).hearth.ops = [.calibration (fd [0x33]) false [1]]) :=
  ⟨takes (p := fun x => x.2.mode == .running) (by decide +kernel), rfl,
    takes (p := fun x => calOk (x.2.hostRead (x.1.w 2) (bits (x.1.w 3) 31 0))) (by decide +kernel),
    takes (p := fun x => !calOk (x.2.hostRead (x.1.w 2) (bits (x.1.w 3) 31 0))) (by decide +kernel), by decide +kernel⟩

/-! ## Witnesses: maps, handoffs, moves, streamed tensors -/

/-- MAP_INSTALL of epoch 1 fetched, its map without nodes at host address 64. -/
def mapDev (two : Bool) : Device := { desc 0x11 [0, 1, 64, 64] with host := [(64, 1)], kn := { twoLive := two } }

theorem witness_MapInstallAndDrain :
    (∃ f d, (mapDev false).take env0 0 0x11 = some (f, d) ∧
      (d.mapAt env0 (f.w 3) (bits (f.w 4) 31 0) (bits (f.w 2) 15 0) == some ⟨1, 0, []⟩
        && (bits (f.w 2) 15 0 + 65536 - d.kn.newer.num) % 65536 == 1 && !d.kn.twoLive) = true) ∧
    (∃ f d, (mapDev true).take env0 0 0x11 = some (f, d) ∧
      (d.mapAt env0 (f.w 3) (bits (f.w 4) 31 0) (bits (f.w 2) 15 0) == some ⟨1, 0, []⟩ && d.kn.twoLive) = true) ∧
    (let d : Device := { kn := { twoLive := true, newer := { num := 1 }, install := some (fd [0x11], { num := 2 }) } }
     d.serving env0 = true ∧ d.carried d.kn.older.num = false ∧
       ({ d with reqs := [(0, { state := .ready })] }).carried d.kn.older.num = true) :=
  ⟨takes (p := fun x => x.2.mapAt env0 (x.1.w 3) (bits (x.1.w 4) 31 0) (bits (x.1.w 2) 15 0) == some ⟨1, 0, []⟩
      && (bits (x.1.w 2) 15 0 + 65536 - x.2.kn.newer.num) % 65536 == 1 && !x.2.kn.twoLive) (by decide +kernel),
    takes (p := fun x => x.2.mapAt env0 (x.1.w 3) (bits (x.1.w 4) 31 0) (bits (x.1.w 2) 15 0) == some ⟨1, 0, []⟩
      && x.2.kn.twoLive) (by decide +kernel), by decide +kernel⟩

/-- HANDOFF of session 9 to node 1 fetched, epoch 0 with node 1 healthy, n handoffs in progress. -/
def hand (out : Bool) (step : Nat) : Handoff := ⟨9, 1, out, 1, 0, 3, step, 0, none, 4, 0, 0⟩
def handDev (n : Nat) : Device :=
  { desc 5 [9, 1] with
    ctxs := [(0, { session := 9, held := true, parked := true })]
    kn := { newer := { nodes := [⟨1, 0, 0, 0, 0⟩] }, older := { nodes := [⟨1, 0, 0, 0, 0⟩] }
            handoffs := List.replicate n { hand true 7 with session := 8 } } }
def inHand (h : Handoff) : Device := { kn := { handoffs := [h] } }

theorem witness_HandoffBeginsAndEnds :
    ((∃ f d, (desc 5 [9, 1]).take env0 0 5 = some (f, d) ∧ (d.handoffFault env0 f == some (0x20, 3)) = true) ∧
      (∃ f d, (handDev 0).take env0 0 5 = some (f, d) ∧
        (d.handoffFault env0 f == none && d.kn.handoffs.length == 0 && d.ctxOf f.session == some 0) = true) ∧
      (∃ f d, (handDev 4096).take env0 0 5 = some (f, d) ∧
        (d.handoffFault env0 f == none && d.kn.handoffs.length == 4096) = true)) ∧
    ((inHand (hand true 7)).serving env0 = true ∧ (inHand (hand true 7)).lpNat (hand true 7).tallyAddr 8 = 0 ∧
      ({ inHand (hand true 7) with lp := [(0, 1)] } : Device).lpNat (hand true 7).tallyAddr 8 ≠ 0 ∧
      (hand true 7).since + handoffLimit env0 < (env0.tick 10000000005).now ∧
      (env0.tick 10000000004).now ≤ (hand true 7).since + handoffLimit env0) ∧
    ((inHand (hand false 2)).serving env0 = true ∧
      (hand false 2).opened + handoffLimit env0 < (env0.tick 10000000004).now ∧
      (env0.tick 10000000003).now ≤ (hand false 2).opened + handoffLimit env0) :=
  ⟨⟨takes (p := fun x => x.2.handoffFault env0 x.1 == some (0x20, 3)) (by decide +kernel),
      takes (p := fun x => x.2.handoffFault env0 x.1 == none && x.2.kn.handoffs.length == 0 && x.2.ctxOf x.1.session == some 0)
        (by decide +kernel),
      takes (p := fun x => x.2.handoffFault env0 x.1 == none && x.2.kn.handoffs.length == 4096) (by decide +kernel)⟩,
    by decide +kernel⟩

/-- Port 0 up, node 1 by port 0, 1 GiB exported. -/
def envF : Env := envR [(0x90000, 2 ^ 8), (0x90008, 2 ^ 16), (0x90108, 2 ^ 3)]
def fabDev : Device := { pem := { ports := [(0, { state := 2 })] } }

theorem witness_HandoffCommandsApplyOnce :
    (fabDev.serving envF = true ∧ fabDev.isUp 0 = true ∧ pkt.dest = nodeNumber envF) ∧
    (let d := fabDev.arrive envF 0 (mgmtAs pkt 0x21) (fun d => d)
     d.replayed envF pkt.src pkt.tag = none ∧ d.pem.applied.contains (pkt.src, pkt.tag) = false ∧
       (d.serveOpen envF pkt.src 9 0 0 0).1 = 0 ∧ (d.serveOpen envF pkt.src 9 0 0 0).2.1 = 0) ∧
    (let d := fabDev.arrive envF 0 (mgmtAs pkt 0x25) (fun d => d)
     d.peel.images.contains (4096, 1) = false) := by decide +kernel

/-- A move record of page 0 of layer 0 of context 0, from tier 1 to tier 0 or to tier 1. -/
def move0 (committed : Bool) (destTier : Nat) : Move :=
  ⟨.promote, .page 0 0 0, [], 3, destTier, 7, 1, committed, 0, 0, 0, false, none, []⟩
def moveDev (x : Move) : Device := { stageDev with frames := [], peel := { moves := [(0, x)] } }

/-- What became of a demand: 0 started, 1 waits, 2 refused. -/
def askCode : Ask → Nat
  | .started _ => 0
  | .wait _ => 1
  | .refused => 2

theorem witness_MovesStartCommitRelease :
    (stageDev.serving env0 = true ∧ stageDev.peel.waiting = [] ∧ (moveDev (move0 false 0)).peel.waiting = [] ∧
      askCode ((moveDev (move0 false 0)).askMove env0 .promote (.page 0 0 0) (.request 0 0)) = 0 ∧
      askCode ((moveDev { move0 false 0 with kind := .evict }).askMove env0 .promote (.page 0 0 0) (.request 0 0)) = 1 ∧
      askCode (({} : Device).askMove env0 .promote (.page 0 0 0) (.request 0 0)) = 2 ∧
      ({ peel := { waiting := [(.promote, .log 1, .step 0, 0)] } } : Device).peel.waiting.contains
        (.promote, .page 0 0 0, .request 0 0, 0) = false) ∧
    (tfind (moveDev (move0 false 0)).peel.moves 0 = some (move0 false 0) ∧ (move0 false 0).obj = .page 0 0 0 ∧
      (move0 false 0).committed = false ∧ (moveDev (move0 false 0)).moveQuiet 0 = true ∧
      (moveDev (move0 false 0)).saving = false ∧ ({ kn := { jobs := [job0 .saving] } } : Device).saving = true ∧
      (move0 true 0).committed = true ∧ (move0 true 0).sourceTier = 1 ∧
      (let x : Move := { move0 true 1 with sourceTier := 0, readers := [.decode 3] }
       x.readers.any (moveDev x).reading = false ∧
         x.readers.any ({ moveDev x with kn := { decoding := true, step := 3 } } : Device).reading = true)) ∧
    (((moveDev (move0 false 1)).ctx 0).page 0 0 = some ⟨0, 0, 7, false, 1, 0, 0, 1, 0, 0, false, false⟩ ∧
      (move0 false 1).destTier ≠ 0) := by decide +kernel

/-- Recipe 0 with one streamed tensor of fallback k, in a step; a deadline of 10 ns. -/
def streamDev (k : Nat) (x : Residency) : Device :=
  { recipes := [(0, { slot0 with streams := [⟨k, 0, 0, 10⟩] })], kn := { decoding := true }
    peel := { resident := [(0, x)] } }

theorem witness_StreamNeedAndDeadline :
    ((streamDev 0 {}).serving env0 = true ∧ (streamDev 0 {}).kn.decoding = true ∧
      (∃ rs, (streamDev 0 {}).recipe 0 = some rs ∧ 0 < rs.streams.length) ∧
      ((streamDev 0 {}).residency 0 0).decided = false ∧ ((streamDev 0 {}).residency 0 0).needAt = none) ∧
    (let x : Residency := { needAt := some 5 }
     ((streamDev 0 x).residency 0 0).needAt = some 5 ∧ ((streamDev 0 x).residency 0 0).slot = none ∧
       5 + bits ((streamDev 0 x).streamEntry 0 0).q3 31 0 ≤ (env0.tick 15).now ∧
       bits ((streamDev 0 x).streamEntry 0 0).q0 1 0 = 0 ∧ bits ((streamDev 2 x).streamEntry 0 0).q0 1 0 ≠ 0) :=
  ⟨⟨by decide +kernel, rfl, ⟨_, rfl, by decide⟩, by decide +kernel, by decide +kernel⟩, by decide +kernel⟩

/-! ## Witnesses: memory faults, halt, pace, heat, pins, starts -/

theorem witness_MemoryFaultsAreCounted :
    (({} : Device).mode = .running ∧ ({} : Device).dmp.frozen.contains 0 = false ∧
      (tget {} ({} : Device).health.banks 0).times = [] ∧ 1 ≤ ceLimit env0) ∧
    (let d : Device := { health := { sinceCe := 1 } }
     d.serving env0 = true ∧ d.health.sinceCe ≠ 0 ∧
       d.health.lastSummary + summaryInterval env0 ≤ (env0.tick (summaryInterval env0)).now) ∧
    (({} : Device).serving env0 = true ∧ ({} : Device).health.sinceCe = 0 ∧ ({} : Device).health.sinceRows = []) ∧
    (let d : Device := { decDev with recipes := [(0, { streamSlot with crumb := toBytes 32 1 })] }
     d.holdsWork (env0.tick (hangLimit env0)) 0 = true ∧ d.dmp.frozen.contains 0 = false ∧ d.logicFrozen = false ∧
       d.holdsWork (env0.tick (hangLimit env0 - 1)) 0 = false ∧ d.holdsWork (env0.tick (hangLimit env0)) 11 = false) ∧
    ({ dmp := { frozen := [11] } } : Device).dmp.frozen.contains 11 = true := by decide +kernel

theorem witness_HaltStopsEverything :
    ({ mode := .halted } : Device).mode = .halted ∧ ({} : Device).mode = .running ∧ ({} : Device).logicFrozen = false ∧
    ({} : Device).kn.decoding = false := by decide +kernel

/-- Domain d frozen at LTIME 4. -/
def frozenDev (d : Nat) : Device := { dmp := { frozen := [d], frozenAt := [(d, 4)] } }

theorem witness_PaceFreezeAndThaw :
    (({} : Device).powered = true ∧ ({} : Device).logicFrozen = false ∧ env0.closed = true ∧
      ({} : Device).dmp.below.contains 12 ≠ decide (paceFloor env0 12 - 1 < paceFloor env0 12) ∧
      ({ dmp := { below := [12] } } : Device).dmp.below.contains 12 ≠ decide (paceFloor env0 12 < paceFloor env0 12) ∧
      tfind ({} : Device).dmp.lastPace 12 = none ∧ tfind ({} : Device).dmp.heldPace 12 = none) ∧
    (let d : Device := { dmp := { heldPace := [(0, (1, 2, 3))], lastPace := [(0, 4)] } }
     tfind d.dmp.heldPace 0 = some (1, 2, 3) ∧ tfind d.dmp.lastPace 0 = some 4 ∧
       4 + 1000000000 ≤ (env0.tick 1000000004).now ∧ (env0.tick 1000000003).now < 4 + 1000000000) ∧
    ((frozenDev 11).powered = true ∧ (frozenDev 11).dmp.frozen.contains 11 = true ∧
      (frozenDev 11).dmp.frozen.contains 12 = false ∧ tfind (frozenDev 11).dmp.frozenAt 11 = some 4 ∧
      4 + freezeLimitNs env0 < (env0.tick 100000005).now ∧ (env0.tick 100000004).now ≤ 4 + freezeLimitNs env0) := by
  decide +kernel

theorem witness_ThermalLevelsFollowReadings :
    (({} : Device).powered = true ∧ ({} : Device).logicFrozen = false ∧ ({} : Device).thermalLevel env0 95 = 2 ∧
      ({} : Device).thermalLevel env0 100 = 3 ∧ ({} : Device).dmp.level ≠ 3 ∧ ({} : Device).mode = .running) ∧
    (let d : Device := { dmp := { lastThermal := some 4, heldLevel := true, level := 2 } }
     d.dmp.lastThermal = some 4 ∧ d.dmp.heldLevel = true ∧ d.dmp.level ≠ d.dmp.reported ∧ 2 ≤ d.dmp.level ∧
       4 + 10000000 ≤ (env0.tick 10000004).now ∧ (env0.tick 10000003).now < 4 + 10000000) ∧
    (({} : Device).dmp.level < 2 ∧ ({} : Device).dmp.tj + 3 < ({} : Device).threshold (throttleAt env0)) := by decide +kernel

theorem witness_PinEventsTakeEffect :
    (({} : Device).powered = true ∧ ({} : Device).dmp.warnPin = false ∧ State.reset.env.closed = false ∧
      env0.closed = true ∧ ({} : Device).mode = .running ∧ ({} : Device).dmp.haltPending = none ∧
      ({} : Device).dmp.throttlePin ≠ true ∧ ({} : Device).logicFrozen = false) ∧
    (let d : Device := { dmp := { warnSince := some 4, warnAfter := true } }
     d.dmp.warnSince = some 4 ∧ d.dmp.warnAfter = true ∧ tfind d.dmp.stuckLast 0 = none ∧
       4 + 1000000000 ≤ (env0.tick 1000000004).now ∧ (env0.tick 1000000003).now < 4 + 1000000000) ∧
    (tget 0 ({ dmp := { pulses := [(2, 14)] } } : Device).dmp.pulses 2 + 1 < 16 ∧
      16 ≤ tget 0 ({ dmp := { pulses := [(2, 15)] } } : Device).dmp.pulses 2 + 1) := by decide +kernel

theorem witness_StartsAndResets :
    (({} : Device).mode ≠ .off ∧ ({ mode := .off } : Device).mode = .off ∧ ({} : Device).hif.linkUp = true ∧
      ({} : Device).mode = .running ∧ ({} : Device).logicFrozen = false ∧
      (let d : Device := { mode := .halted, dmp := { soft := true } }
       d.dmp.soft = true ∧ d.mode = .halted)) ∧
    (({} : Device).bare.hearth.fit none).choose.2 = none ∧
    (({} : Device).bare.hearth.fit (some [1])).choose.2 = some false := by decide +kernel

/-! ## Witnesses: window, output, fabric -/

theorem witness_WindowMailboxAndHostLink :
    (({} : Device).regsUp = true ∧ 64 * 2 ^ 30 - 1 + 1 ≤ 64 * 2 ^ 30 ∧ 64 * 2 ^ 30 < 64 * 2 ^ 30 + 1 ∧
      ({} : Device).saving = false ∧ ({ kn := { jobs := [job0 .saving] } } : Device).saving = true ∧
      ({} : Device).lpPoisoned (windowAddr env0 (64 * 2 ^ 30 - 1)) = false ∧
      ({ lpBad := [windowAddr env0 (64 * 2 ^ 30 - 1) / 32] } : Device).lpPoisoned (windowAddr env0 (64 * 2 ^ 30 - 1)) = true) ∧
    (({} : Device).powered = true ∧ ({} : Device).mode ≠ .halted ∧ 15 < 16 ∧ 7 < 8 ∧ ({} : Device).cq = []) := by
  decide +kernel

/-- One stream record queued for ring 0; a request with a record in hand since LTIME 4; a pending entry since LTIME 4. -/
def rec0 : StreamRec := ⟨0, 0, 4, 0, false, 0, 1, [65]⟩
def outDev : Device :=
  { ts := [(0, { enabled := true })], cq := [(0, { enabled := true, pend := [(0, 4)] })]
    prf := { hostQueue := [rec0] }
    reqs := [(0, { state := .seated, out := { since := some 4, cur := [65], curTokens := 1 } })]
    hif := { msixTable := [(3, 0)] } }

/-- A hold time of 10 ns on token stream ring 0, a time threshold of 20 ns on completion ring 0. -/
def envO : Env :=
  envR (tset [(devOff .cq 0 + 16, setBits (regReset (devOff .cq 0 + 16)) 35 16 20)] (devOff .ts 0 + 8)
    (setBits (regReset (devOff .ts 0 + 8)) 35 16 10))

theorem witness_RecordsAndInterruptsGoOut :
    (outDev.serving env0 = true ∧ outDev.hif.linkUp = true ∧
      ((upto 8).reverse.findSome? (fun c => ((outDev.settleOutlet env0 8).hostEligible env0 c).map (fun r => (c, r))))
        = some (recClass env0 rec0, rec0) ∧
      takeFirst (fun x => recClass env0 x == recClass env0 rec0) (outDev.settleOutlet env0 8).prf.hostQueue = some (rec0, []) ∧
      rec0.last = false) ∧
    ((outDev.req 0).out.since = some 4 ∧ (outDev.req 0).going = true ∧ (outDev.req 0).out.finished = false ∧
      4 + tsHold envO 0 ≤ (envO.tick 14).now ∧ (envO.tick 13).now < 4 + tsHold envO 0) ∧
    ((outDev.ring .cq 0).pend = (0, 4) :: [] ∧ outDev.heard = true ∧ outDev.masked (devVector envO .cq 0) = false ∧
      4 + devTime envO .cq 0 ≤ (envO.tick 24).now ∧ (envO.tick 23).now < 4 + devTime envO .cq 0) := by decide +kernel

/-- Port 0 in a state, its replay buffer holding one packet of number 0 to node 1. -/
def linkPort (state : Nat) (streak : Nat) : Device :=
  { pem := { ports := [(0, { state := state, streak := streak, unacked := [{ pkt with dest := 1, src := 0 }] })] } }

theorem witness_LinksComeUpReplayAndGoDown :
    ((linkPort 1 0).serving envF = true ∧ portEnabled envF 0 = true ∧ (linkPort 1 0).isUp 0 = false ∧
      (linkPort 2 0).isUp 0 = true ∧ portEnabled envF 1 = false ∧ ((linkPort 1 0).port 0).state = 1 ∧
      ((linkPort 1 0).port 0).trainAt + 500000000 ≤ (envF.tick 500000000).now ∧ ((linkPort 3 0).port 0).state = 3 ∧
      ((linkPort 3 0).port 0).trainAt + 1000000000 ≤ (envF.tick 1000000000).now ∧
      ((linkPort 2 0).port 0).state ≠ 1 ∧ ((linkPort 2 0).port 0).state ≠ 3) ∧
    (((linkPort 2 14).port 0).unacked ≠ [] ∧ ((linkPort 2 14).port 0).streak < 15 ∧ 15 ≤ ((linkPort 2 15).port 0).streak) ∧
    (pkt.neg = false ∧ ((linkPort 2 0).port 0).unacked = [] ++ { pkt with dest := 1, src := 0 } :: [] ∧
      ({ pkt with dest := 1, src := 0 } : Pkt).seq = pkt.ack) := by decide +kernel

/-- Port 0 up with packets to send: replayed ones, management ones, class 0 ones. -/
def sendDev (replay mgmt queue : List Pkt) (busy : Nat) : Device :=
  { pem := { ports := [(0, { state := 2, replay := replay, mgmt := mgmt, queues := [(0, queue)], busyUntil := busy })] } }
def out1 : Pkt := { pkt with dest := 1, src := 0 }
def ready1 (d : Device) : Device := ((d.pump envF).settleOutlet envF 0).noteHold envF 0

theorem witness_PacketBoundarySendsNext :
    ((sendDev [] [] [] 1).serving envF = true ∧ (sendDev [] [] [] 1).isUp 0 = true ∧
      100 * envF.now < ((sendDev [] [] [] 1).port 0).busyUntil ∧ ((sendDev [] [] [] 0).port 0).busyUntil ≤ 100 * envF.now) ∧
    ((ready1 (sendDev [out1] [] [] 0)).port 0).replay = out1 :: [] ∧
    (((ready1 (sendDev [] [out1] [] 0)).port 0).replay = [] ∧ ((ready1 (sendDev [] [out1] [] 0)).port 0).mgmt = out1 :: [] ∧
      ((ready1 (sendDev [] [out1] [] 0)).port 0).mayCarry out1 = true) ∧
    (((ready1 (sendDev [] [] [out1] 0)).port 0).mgmt = [] ∧
      (ready1 (sendDev [] [] [out1] 0)).classHead envF 0 0 = some out1 ∧
      (ready1 (sendDev [] [] [out1] 0)).guardOk envF 0 0 out1 = true ∧
      ∀ c' ∈ upto 8, 0 < c' → (ready1 (sendDev [] [] [out1] 0)).classHead envF 0 c' = none) ∧
    (∀ c' ∈ upto 8, (ready1 (sendDev [] [] [] 0)).classHead envF 0 c' = none) := by decide +kernel

/-- A READ of one unit, a WRITE of one unit by both channels, an atomic of size s, each at an offset. -/
def readP (off n : Nat) : Pkt := { pkt with addr := off, readUnits := n, units := 0, payload := [] }
def writeP (off chan attempt : Nat) : Pkt := { pkt with addr := off, chan := chan, attempt := attempt }
def atomP (off size : Nat) : Pkt := { pkt with addr := off, size := size }

theorem witness_ReadsAreAnswered :
    (fabDev.serving envF = true ∧ fabDev.isUp 0 = true ∧ (readP 0 8).dest = nodeNumber envF) ∧
    (let k := pktAs (readP (2 ^ 30 - 256) 8) 1
     let d := fabDev.arrive envF 0 k (fun d => d)
     pktOff k % 32 = 0 ∧ exported envF (pktOff k) (32 * 8) = true ∧ 8 ≤ (if k.chan = 2 then 128 else 8) ∧
       d.anyPoison (pktOff k) 256 = false ∧
       (({ fabDev with lpBad := [2 ^ 25 - 1] } : Device).arrive envF 0 k (fun d => d)).anyPoison (pktOff k) 256 = true) ∧
    (exported envF (pktOff (pktAs (readP (2 ^ 30 - 224) 8) 1)) 256 = false ∧
      pktOff (pktAs (readP 1 1) 1) % 32 ≠ 0 ∧ (if (pktAs (readP 0 9) 1).chan = 2 then 128 else 8) < 9) := by decide +kernel

theorem witness_WritesStoreWholeUnits :
    (let k := pktAs (writeP (2 ^ 30 - 32) 0 0) 2
     let d := fabDev.arrive envF 0 k (fun d => d)
     k.payload.length = 32 * k.units ∧ pktOff k % 32 = 0 ∧ exported envF (pktOff k) 32 = true ∧
       k.units ≤ (if k.chan = 2 then 128 else 8) ∧ k.chan ≠ 2 ∧ d.replayed envF k.src k.tag = none ∧
       d.pem.applied.contains (k.src, k.tag) = false) ∧
    (let k := pktAs (writeP 0 2 0) 2
     k.chan = 2 ∧ exported envF (pktOff k) 32 = true) ∧
    (let k := pktAs (writeP (2 ^ 30) 2 0) 2
     k.chan = 2 ∧ exported envF (pktOff k) 32 = false) := by decide +kernel

theorem witness_AtomicsStoreAndAnswerOld :
    (let k := pktAs (atomP (2 ^ 30 - 8) 1) 0x10
     let d := fabDev.arrive envF 0 k (fun d => d)
     k.size ≤ 1 ∧ pktOff k % atomBytes k.size = 0 ∧ exported envF (pktOff k) (atomBytes k.size) = true ∧
       d.anyPoison (pktOff k) (atomBytes k.size) = false ∧ d.replayed envF k.src k.tag = none ∧
       d.pem.applied.contains (k.src, k.tag) = false) ∧
    (let k := pktAs (atomP (2 ^ 30 - 16) 2) 0x15
     pktOff k % atomBytes k.size = 0 ∧ exported envF (pktOff k) (atomBytes k.size) = true) := by decide +kernel

/-- The replay store holds an entry of (node 1, tag 3), applied at LTIME 0. -/
def replayDev : Device :=
  { fabDev with pem := { fabDev.pem with store := [⟨1, 3, 0, 5, 0, 0⟩], applied := [(1, 3)] } }

theorem witness_ReplayedRequestsApplyNothing :
    ((replayDev.arrive envF 0 (pktAs pkt 0x10) (fun d => d)).replayed (envF.tick 63999) 1 3).isSome = true ∧
    (let k := pktAs (writeP 0 0 1) 2
     let d := replayDev.arrive (envF.tick 64000) 0 k (fun d => d)
     d.replayed (envF.tick 64000) k.src k.tag = none ∧ d.pem.applied.contains (k.src, k.tag) = true ∧ k.attempt ≠ 0 ∧
       (writeP 0 0 1).chan ≠ 2) := by decide +kernel

/-- An operation of tag 3 outstanding to node 1, issued at LTIME 0. -/
def op0 (once probed : Bool) : FabOp := ⟨{ out1 with tag := 3, type := 2 }, once, 0, 0, probed, 0, .release, 0⟩
def opDev (o : FabOp) : Device := { fabDev with pem := { fabDev.pem with ops := [o] } }

theorem witness_OperationsEndOrGoAgain :
    (let k : Pkt := { pkt with type := 0x82, units := 0, payload := [] }
     let d := (opDev (op0 false false)).arrive envF 0 k (fun d => d)
     k.dest = nodeNumber envF ∧ k.type ≠ 0 ∧ ¬ (k.type = 0xA0 ∧ k.tag = 65535) ∧ d.pem.ops = [op0 false false] ∧
       (op0 false false).pkt.tag = k.tag ∧ (op0 false false).pkt.attempt = k.attempt ∧
       (op0 false false).pkt.dest = k.src ∧ k.status = 0 ∧
       (∀ x ∈ d.pem.ops, ¬ (x.pkt.tag = k.tag ∧ x.pkt.attempt = 1 ∧ x.pkt.dest = k.src))) ∧
    ((opDev (op0 true false)).opOf 4 = none ∧ (opDev (op0 true false)).opOf 3 = some (op0 true false) ∧
      (op0 true false).probed = false ∧ 0 + respTimer envF 1 ≤ (envF.tick (respTimer envF 1)).now ∧
      (envF.tick (respTimer envF 1 - 1)).now < 0 + respTimer envF 1 ∧ 0 + 20000 ≤ (envF.tick 40000).now ∧
      (envF.tick 40000).now ≤ 0 + 40000 ∧ (op0 true false).pkt.attempt < 3 ∧ (envF.tick 19999).now < 0 + 20000 ∧
      0 + 80000 ≤ (envF.tick 80000).now ∧ (envF.tick 79999).now < 0 + 80000 ∧ (op0 true false).once = true ∧
      (op0 false false).once = false ∧ (op0 false false).pkt.chan ≠ 3) := by decide +kernel

/-- Node 2 by primary port 0 and alternate port 1. -/
def envAlt : Env := envR [(0x90000, 3 * 2 ^ 8), (0x90110, 2 ^ 3 + 2 ^ 6 + 2 ^ 9)]

theorem witness_NodesDieAndReturn :
    ((op0 false false).pkt.dest = 1 ∧ (opDev (op0 false false)).pem.dead.contains 1 = false ∧
      (opDev (op0 false false)).routeUp env0 1 = false ∧ (opDev (op0 false true)).routeUp envF 1 = true ∧
      (op0 false true).probed = true ∧ 0 + respTimer envF 1 ≤ (envF.tick (respTimer envF 1)).now ∧
      (∀ o ∈ (opDev (op0 false false)).pem.ops, o.pkt.dest ≠ 2)) ∧
    (let d : Device := { fabDev with pem := { fabDev.pem with dead := [1] }, kn := { probesDue := [1] } }
     d.serving envF = true ∧ d.pem.dead.contains 1 = true ∧ d.kn.probesDue.contains 1 = true ∧
       d.kn.probesDue.contains 2 = false) ∧
    (let d : Device := { fabDev with pem := { fabDev.pem with alternate := [2] } }
     d.pem.alternate.contains 2 = true ∧ bit (routeWord envAlt 2) 3 = true ∧ bit (routeWord envAlt 2) 9 = true ∧
       bits (routeWord envAlt 2) 8 6 ≠ bits (routeWord envAlt 2) 2 0 ∧ d.pem.alternate.contains 1 = false) := by
  decide +kernel

theorem witness_IssueKeepsItsLimits : ({} : Device).pem.ops.length ≤ 16384 ∧
    (({} : Device).pem.ops.map (fun o => o.pkt.tag)).Nodup := by decide +kernel

/-! ## Worked examples of the spec: every expected value below stands in spec/, at the place named -/

/-- The example after R200 (08): seats of three tenants whose deficits are 0. -/
theorem test_seat_shares_example :
    seatShares 4096 [(0x11, 5000, 5), (0x12, 3000, 2), (0x13, 100, 4)] [] =
      ([(0x11, 2854), (0x12, 1142), (0x13, 100)], [(0x11, 18724), (0x12, -18725), (0x13, 0)]) := by decide +kernel

/-- The example after R266 (10): draft lengths after steps 1, 2, 3, 6, 70 and 71, and the 63rd step at zero. -/
theorem test_draft_length_example :
    nextDraft 8 8 0 8 8 = (8, 0) ∧ nextDraft 8 8 0 8 3 = (8, 0) ∧ nextDraft 8 8 0 8 0 = (4, 0) ∧
      nextDraft 1 8 0 1 0 = (0, 0) ∧ nextDraft 0 8 62 0 0 = (0, 63) ∧ nextDraft 0 8 63 0 0 = (1, 0) ∧
      nextDraft 1 8 0 1 1 = (2, 0) := by decide +kernel

/-- The example after R308 (12): the run "Price €10 " has three replacements; as two runs, "€" never appears. -/
theorem test_utf8_example :
    (let one : List Byte := [0x50, 0x72, 0x69, 0x63, 0x65, 0x20, 0xE2, 0x82]
     let two : List Byte := [0xAC, 0x31, 0x30, 0x20, 0xF0, 0x9F, 0x41, 0xC0, 0xAF, 0x0A]
     let bad : List Byte := [0xEF, 0xBF, 0xBD]
     decodeRun (one ++ two) = ([[0x50], [0x72], [0x69], [0x63], [0x65], [0x20], [0xE2, 0x82, 0xAC], [0x31], [0x30],
       [0x20], bad, [0x41], bad, bad, [0x0A]], 3) ∧
     (decodeRun one).2 = 1 ∧ (decodeRun two).1.headD [] = bad) := by decide +kernel

/-- The example after R314 (12): bytes withheld after each token, and the stop string met by "er:". -/
theorem test_stop_string_example :
    (let stops : List (List Byte) := [[10, 10, 85, 115, 101, 114, 58], [60, 47, 116, 111, 111, 108, 62]]
     withheldLen stops [68, 111, 110, 101, 46] = 0 ∧ withheldLen stops [10] = 1 ∧
       withheldLen stops [10, 10, 85, 115] = 4 ∧ withheldLen stops [10, 10, 85, 115, 105, 110, 103] = 0 ∧
       stopEnd stops [10, 10, 85, 115, 101, 114, 58] 4 = some 7) := by decide +kernel

/-- The example after R85 (04): a KV4 block whose page scale is 0.0625, its scale byte and element bytes. -/
theorem test_kv4_example :
    (let v := [0x40533333, 0xbf99999a, 0x3e851eb8, 0x3f3d70a4, 0xc0466666, 0, 0x40000000, 0xbe800000, 0x3fe00000,
       0xbf400000, 0x3f000000, 0x4039999a, 0xc00ccccd, 0x3dcccccd, 0x3fa00000, 0xbf800000]
     let b := kv4Block 0x3d800000 v
     b.1 = 0x50 ∧ b.2.2 = false ∧ toBytes 8 (packBits 4 b.2.1) =
       [0xE7, 0x11, 0x0A, 0x04, 0xE4, 0x61, 0x0C, 0xE2]) := by decide +kernel

/-- The same block as KV8 (the example after R85, 04): scale exponent −7, 3.3 stored as 416. -/
theorem test_kv8_example :
    (let b := mxBlock fE4M3 [0x40533333, 0xbf99999a]
     b.1 = 0x78 ∧ b.2.headD 0 = 0x7D ∧ fE4M3.to32 0x7D = natF32 416) := by decide +kernel

/-- The example after R172 (07): a local layer with pages of 64 tokens. A log of p + 1 tokens decodes position p:
the cap at p = 5,050 is 5, and at p = 5,055 it is 64. -/
theorem test_draft_cap_example :
    (let pool : PoolInfo := ⟨64, 0, 0, 0, 0, 0, 0, [], 0, 0, 0, 0, []⟩
     let info : RecipeInfo := { infoE with pools := [pool], layers := [⟨2, 4096, 0, 0, 0, 1⟩] }
     draftCap info 5051 100 = 5 ∧ draftCap info 5056 100 = 64 ∧ draftCap info 5056 8 = 8) := by decide +kernel

/-- The example after R147 (06): V = 14,350, L = 23,350, S = 8,192: the chunk ends at 22,528. -/
theorem test_chunk_example :
    (let r : Request := { state := .prefill, context := 1, target := 23350 }
     let x : Context := { valid := 14350, logLength := 23350 }
     let info : RecipeInfo := { infoE with chunkMax := 8192 }
     let slot : RecipeSlot := ⟨true, false, info, 0, 0, 0, [], 0, 0, [], [], [], []⟩
     ({ reqs := [(0, r)], ctxs := [(1, x)], recipes := [(0, slot)] } : Device).nextChunk env0 0 = (14350, 22528)) := by
  decide +kernel

/-- R259: Philox4×32-10 as published; its known answer for key 0 and counter 0. -/
theorem test_philox_zero :
    (let p := philox 0 0 0 0 0
     p.c0 = 0x6627E8D5 ∧ p.c1 = 0xE169C58D ∧ p.c2 = 0xBC57AC4C ∧ p.c3 = 0x9B00DBD8) := by decide +kernel

/-! ## The engines, by hand calculation from the rules named -/

/-- R87, Table 04.4: 2^24 and two ones of a BF16 reduction. In the crumb unit's groups of 8 each one is lost (2^24 + 1
rounds to even); in the Oven's group of 32 the sum is exact. -/
theorem test_mac_groups :
    (let z := List.replicate 7 0
     let w : Vec := { fmt := 4, el := [0x4B80] ++ z ++ [0x3F80] ++ z ++ [0x3F80] ++ z ++ [0] ++ z }
     let a : Vec := { fmt := 4, el := List.replicate 32 0x3F80 }
     (macDot false w a).v = 0x4B800000 ∧ (macDot true w a).v = 0x4B800001) := by decide +kernel

/-- R84: KV4 codes 7, 14 and 8 under block scale 8 and page scale 0.0625 read as 3.5, −1 and −4. -/
theorem test_kv4_reads : (StoredVec.words { fmt := 0, el := [7, 14, 8], sc := [0x50], sp := 0x3D800000 })
    = [0x40600000, 0xBF800000, 0xC0800000] := by decide +kernel

/-- R112: ten rows over four pairs: three a unit, the last unit has row 9 alone. -/
theorem test_rows_of_units : unitOf [⟨2, 5, 4⟩] 10 9 = (some (2, 8), 0) ∧ unitOf [⟨2, 5, 4⟩] 10 8 = (some (2, 7), 2) := by
  decide +kernel

/-- Table 07.7: a window of 4 shows positions 7 to 10 to a query at 10; another segment is not shown. -/
theorem test_visible_keys : visible 1 4 10 7 0 0 = true ∧ visible 1 4 10 6 0 0 = false ∧ visible 0 0 10 11 0 0 = false ∧
    visible 2 0 10 11 0 0 = true ∧ visible 2 0 10 11 0 1 = false := by decide +kernel

/-- A crumb program of two records over pair 0 of Slice 0: EMBED of 4 BF16 elements at row 0, LOGITS of 2 rows at row 1;
token 1 at the end of the log, whose header lies at 64. -/
def bf (xs : List Nat) : List Byte := (xs.map (toBytes 2)).flatten
def crumbDev : Device :=
  { reqDev { state := .seated, session := 9, ctxValid := true, newLimit := 5, slot := true }
      { session := 9, held := true, live := true, logBase := 64, logLength := 1 } with
    recipes := [(0, { slot0 with
      info := { infoE with vocab := 2, groups := [[⟨0, 0, 1⟩]], mainRecords := 2 }
      crumb := toBytes 8 (0x03 + 4 * 2 ^ 20 + 4 * 2 ^ 24) ++ toBytes 8 (4 + 2 ^ 24) ++ toBytes 8 (5 * 2 ^ 32) ++ toBytes 8 0 ++
        toBytes 8 (0x28 + 4 * 2 ^ 20 + 4 * 2 ^ 24) ++ toBytes 8 (2 + 4 * 2 ^ 24) ++ toBytes 8 5 ++ toBytes 8 1 })]
    lp := mwrites 0 (mwrites 0 [] 64 (toBytes 8 4096)) 4096 (toBytes 4 1)
    loaf := mwrites 0 (mwrites 0 (mwrites 0 [] (loafAddr 0 1 0) (bf [0x4000, 0x3F80, 0, 0xBF80])) (loafAddr 0 0 128)
      (bf [0x3F80, 0x4000, 0x3F80, 0x3F80])) (loafAddr 0 1 128) (bf [0x3F80, 0xBF80, 0, 0x4040])
    kn := { seats := [(0, 0)], decoding := true } }

/-- R104, R108, R117: token 1's row (2, 1, 0, −1) lies at beat 1 and the logits' rows (1, 2, 1, 1) and (1, −1, 0, 3) at beats
2 and 3: the logits are 3 and −2. An uncorrectable error in the last one's row poisons them with detail 2 (R127). -/
theorem test_crumb_decode :
    ((crumbDev.decode [] []).1.dev.eng.logits.map (fun x => (x.vals, x.bad))) = [([0x40400000, 0xC0000000], 0)] ∧
    ((crumbDev.decode [⟨0, 1, 1, true⟩] []).1.dev.eng.logits.map (·.bad)) = [2] := by decide +kernel

end Sys2Proof.Tests
end

section
/-! PROOFS. The register file: what a store into bits of a word leaves, what a write of a register's fields leaves in
each of them (R9, R419), and what a store into one register does to the registers (R45, R417). -/

namespace Sys2Proof.Machine

/-! ## Bit ranges of a word (R7) -/

theorem bits_eq_div_mod (x hi lo : Nat) : bits x hi lo = x / 2 ^ lo % 2 ^ (hi + 1 - lo) := by
  rw [bits, Nat.shiftRight_eq_div_pow]

@[simp] theorem bits_mod_width (x hi lo : Nat) : bits x hi lo % 2 ^ (hi + 1 - lo) = bits x hi lo := by
  rw [bits_eq_div_mod, Nat.mod_mod]

/-- The part of a word below bit lo, and from bit lo on, fix the word's ranges on that side. -/
theorem bits_congr_mod {x y hi lo k : Nat} (hk : hi < k) (h : x % 2 ^ k = y % 2 ^ k) : bits x hi lo = bits y hi lo := by
  by_cases hlo : lo ≤ hi
  · have mod_shift (z : Nat) : bits z hi lo = z % 2 ^ k / 2 ^ lo % 2 ^ (hi + 1 - lo) := by
      rw [bits_eq_div_mod, show k = lo + (k - lo) by omega, Nat.pow_add, Nat.mod_mul_right_div_self,
        Nat.mod_mod_of_dvd _ (Nat.pow_dvd_pow 2 (by omega))]
    rw [mod_shift, mod_shift, h]
  · simp [bits_eq_div_mod, show hi + 1 - lo = 0 by omega, Nat.mod_one]

theorem bits_congr_div {x y hi lo k : Nat} (hk : k ≤ lo) (h : x / 2 ^ k = y / 2 ^ k) : bits x hi lo = bits y hi lo := by
  have div_shift (z : Nat) : bits z hi lo = z / 2 ^ k / 2 ^ (lo - k) % 2 ^ (hi + 1 - lo) := by
    rw [bits_eq_div_mod, Nat.div_div_eq_div_mul, ← Nat.pow_add, show k + (lo - k) = lo by omega]
  rw [div_shift, div_shift, h]

/-! ## A store into a range of bits -/

theorem setBits_div_lo {hi lo : Nat} (h : lo ≤ hi) (x v : Nat) :
    setBits x hi lo v / 2 ^ lo = x / 2 ^ (hi + 1) * 2 ^ (hi + 1 - lo) + v % 2 ^ (hi + 1 - lo) := by
  have split_top : 2 ^ (hi + 1) = 2 ^ lo * 2 ^ (hi + 1 - lo) := by rw [← Nat.pow_add]; congr 1; omega
  have regroup : setBits x hi lo v = x % 2 ^ lo +
      2 ^ lo * (x / 2 ^ (hi + 1) * 2 ^ (hi + 1 - lo) + v % 2 ^ (hi + 1 - lo)) := by
    simp only [setBits]
    rw [Nat.mul_add, Nat.mul_left_comm, ← split_top, Nat.mul_comm (2 ^ lo) (v % _)]
    omega
  rw [regroup, Nat.add_mul_div_left _ _ (Nat.two_pow_pos _), Nat.div_eq_of_lt (Nat.mod_lt _ (Nat.two_pow_pos _)), Nat.zero_add]

theorem setBits_mod_lo {hi lo : Nat} (h : lo ≤ hi) (x v : Nat) : setBits x hi lo v % 2 ^ lo = x % 2 ^ lo := by
  have below : 2 ^ lo ∣ x / 2 ^ (hi + 1) * 2 ^ (hi + 1) + v % 2 ^ (hi + 1 - lo) * 2 ^ lo :=
    Nat.dvd_add (Nat.dvd_mul_left_of_dvd (Nat.pow_dvd_pow 2 (by omega)) _) (Nat.dvd_mul_left _ _)
  obtain ⟨q, hq⟩ := below
  simp only [setBits]
  rw [hq, Nat.mul_add_mod, Nat.mod_mod]

theorem setBits_div_above {hi lo : Nat} (h : lo ≤ hi) (x v : Nat) :
    setBits x hi lo v / 2 ^ (hi + 1) = x / 2 ^ (hi + 1) := by
  have split_top : 2 ^ (hi + 1) = 2 ^ lo * 2 ^ (hi + 1 - lo) := by rw [← Nat.pow_add]; congr 1; omega
  calc setBits x hi lo v / 2 ^ (hi + 1)
      = setBits x hi lo v / 2 ^ lo / 2 ^ (hi + 1 - lo) := by rw [split_top, Nat.div_div_eq_div_mul]
    _ = x / 2 ^ (hi + 1) := by
        rw [setBits_div_lo h, Nat.mul_comm, Nat.mul_add_div (Nat.two_pow_pos _),
          Nat.div_eq_of_lt (Nat.mod_lt _ (Nat.two_pow_pos _)), Nat.add_zero]

theorem bits_setBits_same {hi lo : Nat} (h : lo ≤ hi) (x v : Nat) :
    bits (setBits x hi lo v) hi lo = v % 2 ^ (hi + 1 - lo) := by
  rw [bits_eq_div_mod, setBits_div_lo h, Nat.mul_add_mod_self_right, Nat.mod_mod]

theorem bits_setBits_above {hi lo hi' lo' : Nat} (h : lo ≤ hi) (above : hi < lo') (x v : Nat) :
    bits (setBits x hi lo v) hi' lo' = bits x hi' lo' :=
  bits_congr_div above (setBits_div_above h x v)

theorem bits_setBits_below {hi lo hi' lo' : Nat} (h : lo ≤ hi) (below : hi' < lo) (x v : Nat) :
    bits (setBits x hi lo v) hi' lo' = bits x hi' lo' :=
  bits_congr_mod below (setBits_mod_lo h x v)

/-- Storing what a range holds changes nothing. -/
theorem setBits_bits {hi lo : Nat} (h : lo ≤ hi) (x : Nat) : setBits x hi lo (bits x hi lo) = x := by
  have split_top : 2 ^ (hi + 1) = 2 ^ lo * 2 ^ (hi + 1 - lo) := by rw [← Nat.pow_add]; congr 1; omega
  have upper : setBits x hi lo (bits x hi lo) / 2 ^ lo = x / 2 ^ lo := by
    rw [setBits_div_lo h, bits_mod_width, bits_eq_div_mod, split_top, ← Nat.div_div_eq_div_mul, Nat.div_add_mod']
  rw [← Nat.div_add_mod (setBits x hi lo (bits x hi lo)) (2 ^ lo), upper, setBits_mod_lo h, Nat.div_add_mod]

/-! ## The layout of the registers -/

/-- The fields lie within 64 bits, by ascending bits, with no bit in two of them. -/
def laidOut : List RField → Bool
  | [] => true
  | f :: fs => f.lo ≤ f.hi && f.hi < 64 && fs.all (fun g => f.hi < g.lo) && laidOut fs

theorem laidOut_cons {f : RField} {fs : List RField} :
    laidOut (f :: fs) = true ↔ f.lo ≤ f.hi ∧ f.hi < 64 ∧ (∀ g ∈ fs, f.hi < g.lo) ∧ laidOut fs = true := by
  simp [laidOut, and_assoc]

/-- Laid out, and every field locked. -/
def laidOutLocked (fs : List RField) : Bool := laidOut fs && fs.all (·.locked)

theorem laidOutLocked_iff {fs : List RField} :
    laidOutLocked fs = true ↔ laidOut fs = true ∧ fs.all (·.locked) = true := Bool.and_eq_true_iff

theorem laidOutLocked_ite (c : Prop) [Decidable c] {x y : List RField} (hx : laidOutLocked x = true)
    (hy : laidOutLocked y = true) : laidOutLocked (if c then x else y) = true := by
  split
  · exact hx
  · exact hy

theorem ringFields_laidOutLocked (o : Nat) : laidOutLocked (ringFields o) = true := by
  unfold ringFields
  repeat' apply laidOutLocked_ite
  all_goals rfl

theorem engineFields_laidOutLocked (o : Nat) : laidOutLocked (engineFields o) = true := by
  unfold engineFields
  repeat' apply laidOutLocked_ite
  all_goals rfl

theorem fabricFields_laidOutLocked (o : Nat) : laidOutLocked (fabricFields o) = true := by
  unfold fabricFields
  repeat' apply laidOutLocked_ite
  all_goals rfl

theorem kndFields_laidOutLocked {o : Nat} (h : o ≠ 0x30) : laidOutLocked (kndFields o) = true := by
  unfold kndFields
  rw [if_neg h]
  repeat' apply laidOutLocked_ite
  all_goals rfl

/-- HIF_APERTURE alone holds a field that stays writable after the close (Table 18.2). -/
theorem regFields_laidOutLocked {o : Nat} (h : o ≠ 0x30) : laidOutLocked (regFields o) = true := by
  unfold regFields
  repeat' with_reducible apply laidOutLocked_ite
  · exact ringFields_laidOutLocked o
  · exact kndFields_laidOutLocked h
  · exact kndFields_laidOutLocked h
  · exact engineFields_laidOutLocked o
  · exact fabricFields_laidOutLocked o

theorem regFields_aperture : regFields 0x30 = [⟨10, 0, false, 578, 0, 2047, 1⟩] := rfl

theorem regFields_laidOut (o : Nat) : laidOut (regFields o) = true := by
  by_cases h : o = 0x30
  · rw [h, regFields_aperture]; rfl
  · exact (laidOutLocked_iff.mp (regFields_laidOutLocked h)).1

theorem regFields_locked {o : Nat} (h : o ≠ 0x30) : (regFields o).all (·.locked) = true :=
  (laidOutLocked_iff.mp (regFields_laidOutLocked h)).2

theorem ne_aperture_of_locked {o : Nat} {f : RField} (hf : f ∈ regFields o) (h : f.locked = true) : o ≠ 0x30 := by
  rintro rfl
  rw [regFields_aperture, List.mem_singleton] at hf
  simp [hf] at h

/-! ## A write field by field (R9, R419) -/

theorem RField.ok_iff (f : RField) (v : Nat) : f.ok v = true ↔ f.min ≤ v ∧ v ≤ f.max ∧ v % f.step = 0 := by
  simp [RField.ok, and_assoc]

/-- The word that a write of w to the bits [hi:lo] makes of old, before any field's rule. -/
def mergedWord (lo hi w old : Nat) : Nat :=
  if lo = 0 && hi = 63 then w
  else if lo = 0 then (old / 2 ^ 32) * 2 ^ 32 + w % 2 ^ 32
  else (w % 2 ^ 32) * 2 ^ 32 + old % 2 ^ 32

/-- May a write of the bits [hi:lo] put v in the field: it is open, covered and v in its range (R9, R419). -/
def RField.takes (f : RField) (closed : Bool) (lo hi v : Nat) : Bool :=
  !(closed && f.locked) && !decide (f.hi < lo ∨ hi < f.lo) && f.ok v

theorem writeFields_cons (closed : Bool) (lo hi w old : Nat) (f : RField) (fs : List RField) :
    writeFields closed lo hi w old (f :: fs) =
      if f.takes closed lo hi (bits (mergedWord lo hi w old) f.hi f.lo) = true then
        setBits (writeFields closed lo hi w old fs) f.hi f.lo (bits (mergedWord lo hi w old) f.hi f.lo)
      else writeFields closed lo hi w old fs := by
  rw [writeFields, RField.takes]
  cases closed && f.locked
  · by_cases covered : f.hi < lo ∨ hi < f.lo
    · simp [covered]
    · simp [covered, mergedWord]
  · rfl

/-- Bits of no field stand. -/
theorem bits_writeFields_below (closed : Bool) (lo hi w old hi' lo' : Nat) {fs : List RField}
    (hl : laidOut fs = true) (below : ∀ g ∈ fs, hi' < g.lo) :
    bits (writeFields closed lo hi w old fs) hi' lo' = bits old hi' lo' := by
  induction fs with
  | nil => rfl
  | cons f fs ih =>
    obtain ⟨hf, -, -, hl⟩ := laidOut_cons.mp hl
    have ih := ih hl fun g hg => below g (List.mem_cons_of_mem _ hg)
    rw [writeFields_cons]
    split
    · rw [bits_setBits_below hf (below f List.mem_cons_self), ih]
    · exact ih

/-- A field takes the written value when it is open, covered and in range, and keeps its own otherwise. -/
theorem bits_writeFields (closed : Bool) (lo hi w old : Nat) {fs : List RField} (hl : laidOut fs = true)
    {g : RField} (hg : g ∈ fs) :
    bits (writeFields closed lo hi w old fs) g.hi g.lo =
      if g.takes closed lo hi (bits (mergedWord lo hi w old) g.hi g.lo) = true then
        bits (mergedWord lo hi w old) g.hi g.lo
      else bits old g.hi g.lo := by
  induction fs with
  | nil => cases hg
  | cons f fs ih =>
    obtain ⟨hf, -, hlow, hl'⟩ := laidOut_cons.mp hl
    rw [writeFields_cons]
    rcases List.mem_cons.mp hg with rfl | hg
    · split
      · rw [bits_setBits_same hf, bits_mod_width]
      · exact bits_writeFields_below closed lo hi w old g.hi g.lo hl' hlow
    · rw [← ih hl' hg]
      split
      · exact bits_setBits_above hf (hlow g hg) _ _
      · rfl

/-- After the close a register of locked fields keeps its word (R9). -/
theorem writeFields_locked (lo hi w old : Nat) {fs : List RField} (h : fs.all (·.locked) = true) :
    writeFields true lo hi w old fs = old := by
  induction fs with
  | nil => rfl
  | cons f fs ih =>
    obtain ⟨hf, hfs⟩ : f.locked = true ∧ fs.all (·.locked) = true := by simpa using h
    rw [writeFields_cons, if_neg (by simp [RField.takes, hf]), ih hfs]

/-! ## A store into a register -/

/-- The word that a store leaves in its register: the fields' rules, then those of DMP_CTL and HIF_APERTURE. -/
def storedWord (e : Env) (o lo hi w : Nat) : Nat :=
  let old := regWord e o
  let new := writeFields e.closed lo hi w old (regFields o)
  let new := if o = 0xB0008 then dmpGuard old new else new
  if o = 0x30 && !apertureOk e (bits new 10 0) then old else new

theorem regStore_eq (e : Env) (o lo hi w : Nat) : regStore e o lo hi w =
    if storedWord e o lo hi w = regWord e o then e else { e with regs := tset e.regs o (storedWord e o lo hi w) } := rfl

@[simp] theorem regStore_closed (e : Env) (o lo hi w : Nat) : (regStore e o lo hi w).closed = e.closed := by
  rw [regStore_eq]; split <;> rfl

@[simp] theorem regStore_now (e : Env) (o lo hi w : Nat) : (regStore e o lo hi w).now = e.now := by
  rw [regStore_eq]; split <;> rfl

theorem regWord_regStore (e : Env) (o lo hi w o' : Nat) :
    regWord (regStore e o lo hi w) o' = if o' = o then storedWord e o lo hi w else regWord e o' := by
  rw [regStore_eq]
  by_cases ho : o' = o
  · subst ho
    rw [if_pos rfl]
    split
    · rename_i h; exact h.symm
    · simp [regWord]
  · rw [if_neg ho]
    split
    · rfl
    · simp [regWord, tfind_tset, ho]

@[simp] theorem regWord_tick (e : Env) (t o : Nat) : regWord (e.tick t) o = regWord e o := rfl

theorem storedWord_of_plain (e : Env) {o : Nat} (lo hi w : Nat) (h1 : o ≠ 0xB0008) (h2 : o ≠ 0x30) :
    storedWord e o lo hi w = writeFields e.closed lo hi w (regWord e o) (regFields o) := by
  simp [storedWord, h1, h2]

/-- Guarding a write of DMP_CTL that changes nothing changes nothing. -/
@[simp] theorem dmpGuard_self (x : Nat) : dmpGuard x x = x := by
  unfold dmpGuard
  split
  · rfl
  · rw [setBits_bits (by decide), setBits_bits (by decide)]

/-- After the close a store changes no register but HIF_APERTURE (R9). -/
theorem regStore_of_closed {e : Env} (he : e.closed = true) {o : Nat} (ho : o ≠ 0x30) (lo hi w : Nat) :
    regStore e o lo hi w = e := by
  rw [regStore_eq, if_pos]
  simp [storedWord, he, writeFields_locked _ _ _ _ (regFields_locked ho)]

end Sys2Proof.Machine
end

section
/-! PROOFS. Writes of BAR0: which store a write of a width and offset makes (R419), what BAR0 does to the registers, and
that every other command leaves them. -/

namespace Sys2Proof.Machine

/-! ## The store of a 64-bit or 32-bit write (R419) -/

/-- A write of a width and alignment that stored registers take. -/
def narrowWrite (o w : Nat) : Prop := (w = 8 ∧ o % 8 = 0) ∨ (w = 4 ∧ o % 4 = 0)

/-- The bits of a qword that such a write covers: all of them, or a half. -/
def isSpan (lo hi : Nat) : Prop := (lo = 0 ∧ hi = 63) ∨ (lo = 0 ∧ hi = 31) ∨ (lo = 32 ∧ hi = 63)

/-- A narrow write stores into its qword, over the span it covers. -/
theorem storeWrite_of_narrow {o w : Nat} (h : narrowWrite o w) (v : Nat) (e : Env) :
    ∃ lo hi x, isSpan lo hi ∧ storeWrite o w v e = regStore e (o / 8 * 8) lo hi x ∧
      ∀ old, mergedWord lo hi x old = writtenWord old o w v := by
  rcases h with ⟨rfl, ho⟩ | ⟨rfl, ho⟩
  · exact ⟨0, 63, v % 2 ^ 64, by simp [isSpan], by simp [storeWrite, ho], by simp [mergedWord, writtenWord]⟩
  · rcases (by omega : o % 8 = 0 ∨ o % 8 = 4) with ho | ho
    · exact ⟨0, 31, v % 2 ^ 32, by simp [isSpan], by simp [storeWrite, ho], by simp [mergedWord, writtenWord, ho]⟩
    · exact ⟨32, 63, v % 2 ^ 32, by simp [isSpan], by simp [storeWrite, ho], by simp [mergedWord, writtenWord, ho]⟩

/-- A write of another width or alignment stores nothing. -/
theorem storeWrite_of_not_narrow {o w : Nat} (h : ¬ narrowWrite o w) (v : Nat) (e : Env) :
    storeWrite o w v e = e := by
  obtain ⟨h8, h4⟩ := not_or.mp h
  have h40 : ¬ (w = 4 ∧ o % 8 = 0) := by omega
  have h44 : ¬ (w = 4 ∧ o % 8 = 4) := by omega
  simp [storeWrite, h8, h40, h44]

theorem not_narrow_of_refused {o w : Nat} (h : (w ≠ 8 ∧ w ≠ 4) ∨ o % w ≠ 0) : ¬ narrowWrite o w := by
  rintro (⟨rfl, ho⟩ | ⟨rfl, ho⟩) <;> omega

theorem mod_eq_zero_of_narrow {o w : Nat} (h : narrowWrite o w) : o % w = 0 := by
  rcases h with ⟨rfl, ho⟩ | ⟨rfl, ho⟩ <;> exact ho

@[simp] theorem storeWrite_closed (o w v : Nat) (e : Env) : (storeWrite o w v e).closed = e.closed := by
  by_cases h : narrowWrite o w
  · obtain ⟨lo, hi, x, -, heq, -⟩ := storeWrite_of_narrow h v e
    rw [heq, regStore_closed]
  · rw [storeWrite_of_not_narrow h]

@[simp] theorem storeWrite_now (o w v : Nat) (e : Env) : (storeWrite o w v e).now = e.now := by
  by_cases h : narrowWrite o w
  · obtain ⟨lo, hi, x, -, heq, -⟩ := storeWrite_of_narrow h v e
    rw [heq, regStore_now]
  · rw [storeWrite_of_not_narrow h]

theorem regWord_storeWrite_other {o o' : Nat} (h : o' ≠ o / 8 * 8) (w v : Nat) (e : Env) :
    regWord (storeWrite o w v e) o' = regWord e o' := by
  by_cases hn : narrowWrite o w
  · obtain ⟨lo, hi, x, -, heq, -⟩ := storeWrite_of_narrow hn v e
    rw [heq, regWord_regStore, if_neg h]
  · rw [storeWrite_of_not_narrow hn]

/-- A range that a span does not cover keeps its bits. -/
theorem bits_mergedWord_uncovered {lo hi : Nat} (hs : isSpan lo hi) {g : RField} (hg : g.hi < 64)
    (h : g.hi < lo ∨ hi < g.lo) (hle : g.lo ≤ g.hi) (w old : Nat) :
    bits (mergedWord lo hi w old) g.hi g.lo = bits old g.hi g.lo := by
  rcases hs with ⟨rfl, rfl⟩ | ⟨rfl, rfl⟩ | ⟨rfl, rfl⟩
  · omega
  · exact bits_congr_div (k := 32) (by omega) (by simp [mergedWord]; omega)
  · exact bits_congr_mod (k := 32) (by omega) (by simp [mergedWord])

theorem laidOut_mem {fs : List RField} (hl : laidOut fs = true) {g : RField} (hg : g ∈ fs) :
    g.lo ≤ g.hi ∧ g.hi < 64 := by
  induction fs with
  | nil => cases hg
  | cons f fs ih =>
    obtain ⟨hle, hlt, -, hl'⟩ := laidOut_cons.mp hl
    rcases List.mem_cons.mp hg with rfl | hg
    · exact ⟨hle, hlt⟩
    · exact ih hl' hg

/-- Over a span, a field takes the merged word's bits when it is open and they are in its range (R9, R419). -/
theorem bits_writeFields_span {lo hi : Nat} (hs : isSpan lo hi) (closed : Bool) (w old : Nat) {fs : List RField}
    (hl : laidOut fs = true) {g : RField} (hg : g ∈ fs) :
    bits (writeFields closed lo hi w old fs) g.hi g.lo =
      if (g.locked && closed) = false ∧ g.ok (bits (mergedWord lo hi w old) g.hi g.lo) = true then
        bits (mergedWord lo hi w old) g.hi g.lo
      else bits old g.hi g.lo := by
  obtain ⟨hle, hlt⟩ := laidOut_mem hl hg
  rw [bits_writeFields closed lo hi w old hl hg, RField.takes, Bool.and_comm g.locked]
  by_cases covered : g.hi < lo ∨ hi < g.lo
  · simp [bits_mergedWord_uncovered hs hlt covered hle]
  · cases closed && g.locked <;> simp [covered]

/-- A narrow write of a register without a rule of its own, field by field. -/
theorem bits_storeWrite {o w : Nat} (hn : narrowWrite o w) (h1 : o / 8 * 8 ≠ 0xB0008) (h2 : o / 8 * 8 ≠ 0x30) (v : Nat)
    (e : Env) {f : RField} (hf : f ∈ regFields (o / 8 * 8)) :
    bits (regWord (storeWrite o w v e) (o / 8 * 8)) f.hi f.lo =
      if (f.locked && e.closed) = false ∧
          f.ok (bits (writtenWord (regWord e (o / 8 * 8)) o w v) f.hi f.lo) = true then
        bits (writtenWord (regWord e (o / 8 * 8)) o w v) f.hi f.lo
      else bits (regWord e (o / 8 * 8)) f.hi f.lo := by
  obtain ⟨lo, hi, x, hs, heq, hm⟩ := storeWrite_of_narrow hn v e
  rw [heq, regWord_regStore, if_pos rfl, storedWord_of_plain e lo hi x h1 h2,
    bits_writeFields_span hs _ _ _ (regFields_laidOut _) hf, hm]

/-! ## What BAR0 does to the registers -/

/-- The registers that a write of BAR0 may leave: those before it, those of a close, those of a store into the channel
map or into one register. -/
def bar0Env (o w v : Nat) (e : Env) (d : Device) (e' : Env) : Prop :=
  e' = e ∨ e' = (effSetupClose v e d).1 ∨ e' = chanMapWrite o w v e ∨ ∃ o', e' = storeWrite o' w v e

theorem bar0Env_ite {o w v : Nat} {e : Env} {d : Device} (c : Prop) [Decidable c] {x y : Env × Device}
    (hx : bar0Env o w v e d x.1) (hy : bar0Env o w v e d y.1) : bar0Env o w v e d (if c then x else y).1 := by
  split
  · exact hx
  · exact hy

theorem effBar0_env (o w v : Nat) (e : Env) (d : Device) : bar0Env o w v e d (effBar0 o w v e d).1 := by
  have unchanged : bar0Env o w v e d e := .inl rfl
  have closes : bar0Env o w v e d (effSetupClose v e d).1 := .inr (.inl rfl)
  have chanMap : bar0Env o w v e d (chanMapWrite o w v e) := .inr (.inr (.inl rfl))
  have stores (o') : bar0Env o w v e d (storeWrite o' w v e) := .inr (.inr (.inr ⟨o', rfl⟩))
  unfold effBar0 effOutletWrite
  dsimp only
  repeat' with_reducible apply bar0Env_ite
  all_goals simp only [unchanged, closes, chanMap, stores]

/-- A register write that reaches the registers is one of BAR0. -/
theorem effRegisterWrite_env_cases (i3c : Bool) (bar o w v : Nat) (e : Env) (d : Device) :
    (effRegisterWrite i3c bar o w v e d).1 = e ∨
      (effRegisterWrite i3c bar o w v e d).1 = (effBar0 o w v e d).1 := by
  cases i3c with
  | true => exact .inl rfl
  | false =>
    unfold effRegisterWrite
    rw [if_neg Bool.false_ne_true]
    split
    · exact .inl rfl
    split
    · exact .inl rfl
    split
    · exact .inl rfl
    split
    · exact .inr rfl
    split
    · exact .inr rfl
    · exact .inl rfl

theorem effSetupClose_of_closed {e : Env} (he : e.closed = true) (v : Nat) (d : Device) :
    effSetupClose v e d = (e, d) := by
  simp [effSetupClose, he]

/-! ## The registers after the close (R9) -/

/-- Set-up stands as it was, and so does every register but HIF_APERTURE. -/
def sameButAperture (e e' : Env) : Prop := e'.closed = e.closed ∧ ∀ o, o ≠ 0x30 → regWord e' o = regWord e o

theorem sameButAperture.refl (e : Env) : sameButAperture e e := ⟨rfl, fun _ _ => rfl⟩

section Closed
variable {e : Env} (he : e.closed = true)
include he

theorem storeWrite_of_closed {o : Nat} (ho : o / 8 * 8 ≠ 0x30) (w v : Nat) : storeWrite o w v e = e := by
  by_cases hn : narrowWrite o w
  · obtain ⟨lo, hi, x, -, heq, -⟩ := storeWrite_of_narrow hn v e
    rw [heq, regStore_of_closed he ho]
  · exact storeWrite_of_not_narrow hn v e

theorem storeWrite_sameButAperture (o w v : Nat) : sameButAperture e (storeWrite o w v e) := by
  by_cases ho : o / 8 * 8 = 0x30
  · exact ⟨storeWrite_closed o w v e, fun o' ho' => regWord_storeWrite_other (ho ▸ ho') w v e⟩
  · rw [storeWrite_of_closed he ho]
    exact .refl e

theorem chanMapWrite_sameButAperture (o w v : Nat) : sameButAperture e (chanMapWrite o w v e) := by
  have map_locked (o' x) (ho' : o' ≠ 0x30) : regStore e o' 0 63 x = e := regStore_of_closed he ho' 0 63 x
  unfold chanMapWrite
  split
  · rw [map_locked 0x50020 _ (by decide), map_locked 0x50028 _ (by decide)]
    exact .refl e
  · split
    · exact storeWrite_sameButAperture he o 8 v
    · exact .refl e

theorem effBar0_sameButAperture (o w v : Nat) (d : Device) : sameButAperture e (effBar0 o w v e d).1 := by
  rcases effBar0_env o w v e d with h | h | h | ⟨o', h⟩
  · rw [h]; exact .refl e
  · rw [h, effSetupClose_of_closed he]; exact .refl e
  · rw [h]; exact chanMapWrite_sameButAperture he o w v
  · rw [h]; exact storeWrite_sameButAperture he o' w v

theorem effRegisterWrite_sameButAperture (i3c : Bool) (bar o w v : Nat) (d : Device) :
    sameButAperture e (effRegisterWrite i3c bar o w v e d).1 := by
  rcases effRegisterWrite_env_cases i3c bar o w v e d with h | h
  · rw [h]; exact .refl e
  · rw [h]; exact effBar0_sameButAperture he o w v d

theorem effAperture_sameButAperture (v : Nat) (d : Device) : sameButAperture e (effAperture v e d).1 := by
  unfold effAperture
  split
  · exact storeWrite_sameButAperture he _ _ _
  · exact .refl e

theorem effDmpCtl_sameButAperture (o w v : Nat) (d : Device) : sameButAperture e (effDmpCtl o w v e d).1 := by
  unfold effDmpCtl
  split
  · exact storeWrite_sameButAperture he _ _ _
  · exact .refl e

end Closed

/-! ## The commands and the registers -/

theorem env_of_act {s u : State} {t : Nat} {f : Env → Device → Device} (h : s.act t f = .next u) :
    u.env = s.env.tick t := by
  cases h; rfl

theorem env_of_actEnv {s u : State} {t : Nat} {f : Env → Device → Env × Device} (h : s.actEnv t f = .next u) :
    u.env = (f (s.env.tick t) s.dev).1 := by
  cases h; rfl

theorem effFixedRail_env (e : Env) (d : Device) : (effFixedRail e d).1 = e := by
  unfold effFixedRail; split <;> rfl

/-- A command that neither starts the device nor writes its registers moves the clock alone. -/
theorem exec_env_of_no_write {c : Instr} {s u : State} (hs : mayStart c = false) (hw : mayWriteRegs c = false)
    (h : exec c s = .next u) : ∃ t, u.env = s.env.tick t := by
  cases c with
  | powerOn | pinReset | softStart => simp [mayStart] at hs
  | setupClose | apertureWrite | dmpCtlWrite | registerWrite => simp [mayWriteRegs] at hw
  | powerLoss t => exact ⟨t, env_of_actEnv h⟩
  | fixedRailOutOfRange t => exact ⟨t, (env_of_actEnv h).trans (effFixedRail_env _ _)⟩
  | windowRead t o n unc =>
    by_cases hout : outside o n = true
    · simp [exec, execWindowRead, hout] at h
    · exact ⟨t, env_of_act ((if_neg hout).symm.trans h)⟩
  | windowWrite t o data =>
    by_cases hout : outside o data.length = true
    · simp [exec, execWindowWrite, hout] at h
    · exact ⟨t, env_of_act ((if_neg hout).symm.trans h)⟩
  | submissionDoorbell t | resyncDoorbell t | embed t | attest t | resync t => exact ⟨t, by cases h; rfl⟩
  | _ => exact ⟨_, env_of_act h⟩

/-- After the close every command but a start leaves set-up closed and every register but HIF_APERTURE. -/
theorem exec_sameButAperture {c : Instr} {s u : State} (he : s.env.closed = true) (hs : mayStart c = false)
    (h : exec c s = .next u) : sameButAperture s.env u.env := by
  have ticked (t : Nat) : (s.env.tick t).closed = true := he
  by_cases hw : mayWriteRegs c = true
  · cases c with
    | setupClose t v =>
      rw [env_of_actEnv h, effSetupClose_of_closed (ticked t)]
      exact .refl _
    | apertureWrite t v =>
      rw [env_of_actEnv h]
      exact effAperture_sameButAperture (ticked t) v s.dev
    | dmpCtlWrite t o w v =>
      rw [env_of_actEnv h]
      exact effDmpCtl_sameButAperture (ticked t) o w v s.dev
    | registerWrite t i3c bar o w v =>
      rw [env_of_actEnv h]
      exact effRegisterWrite_sameButAperture (ticked t) i3c bar o w v s.dev
    | _ => simp [mayWriteRegs] at hw
  · obtain ⟨t, ht⟩ := exec_env_of_no_write hs (by simpa using hw) h
    rw [ht]
    exact .refl _

/-- Settles O3: after the close no command but a start changes a register other than HIF_APERTURE, which holds no locked
field. -/
theorem lockedFieldsKeepTheirValues : Obligations.LockedFieldsKeepTheirValues := by
  intro c s u hclosed hstart hexec
  obtain ⟨same_closed, same_reg⟩ := exec_sameButAperture hclosed hstart hexec
  refine ⟨same_closed.trans hclosed, fun o f hf hlocked => ?_⟩
  rw [same_reg o (ne_aperture_of_locked hf hlocked)]

end Sys2Proof.Machine
end

section
/-! PROOFS. What a write of BAR0, of HIF_APERTURE and of DMP_CTL stores (R9, R45, R417, R419). -/

namespace Sys2Proof.Machine

/-! ## Writes of BAR0 that store and do no more -/

/-- The registers of BAR0 that a write stores into by the rules of fields: not the close, the enables, PEL_CHAN_MAP, a
NUMSTAT, a gate's registers, DMP_PIN_STAT or HTH_RESET. -/
def directReg (o : Nat) : Bool :=
  o < 0xF0000 && !([0, 8, 0x20, 0x30070, 0x40020, 0x50020, 0x50028, 0xB0018, 0xC0030].contains o)
    && !(0xA1000 ≤ o && o < 0xAA000 && 0x48 ≤ (o - 0xA1000) % 0x1000)

theorem plainReg_iff {o : Nat} : plainReg o = true ↔ directReg o = true ∧ o ≠ 0x30 ∧ o ≠ 0xB0008 := by
  simp [plainReg, directReg]
  omega

/-- Among an outlet's registers, those below its gate's control are stored. -/
theorem effOutletWrite_of_lt {r : Nat} (hr : r < 0x48) (p w v : Nat) (e : Env) (d : Device) :
    effOutletWrite p r w v e d = (storeWrite (0xA1000 + 0x1000 * p + r) w v e, d) := by
  have h400 : ¬ 0x400 ≤ r := by omega
  have h48 : r ≠ 0x48 := by omega
  have h50 : r ≠ 0x50 := by omega
  have h54 : r ≠ 0x54 := by omega
  simp [effOutletWrite, h400, h48, h50, h54]

theorem effBar0_of_directReg {o : Nat} (h : directReg (o / 8 * 8) = true) (w v : Nat) (e : Env) (d : Device) :
    effBar0 o w v e d = (storeWrite o w v e, d) := by
  simp only [directReg, List.contains_eq_mem, List.mem_cons, List.not_mem_nil, or_false, Bool.and_eq_true,
    Bool.not_eq_true', decide_eq_true_eq, decide_eq_false_iff_not, Bool.and_eq_false_iff, not_or] at h
  obtain ⟨⟨below, hclose, hstat, henable, hcrb, hovn, hmap, hmap', hpin, hreset⟩, hgate⟩ := h
  by_cases aligned : o % (if w = 0 then 1 else w) = 0
  · have h0 : o ≠ 0 := by omega
    have h8 : o ≠ 8 := by omega
    have h20 : o ≠ 0x20 := by omega
    have h30070 : o ≠ 0x30070 := by omega
    have h30074 : o ≠ 0x30074 := by omega
    have h40020 : o ≠ 0x40020 := by omega
    have h40024 : o ≠ 0x40024 := by omega
    have h50020 : o / 16 * 16 ≠ 0x50020 := by omega
    by_cases outlet : 0xA1000 ≤ o ∧ o < 0xAA000
    · have hr : (o - 0xA1000) % 0x1000 < 0x48 := by omega
      have ho : 0xA1000 + 0x1000 * ((o - 0xA1000) / 0x1000) + (o - 0xA1000) % 0x1000 = o := by omega
      simp [effBar0, aligned, h0, h8, h20, h30070, h30074, h40020, h40024, h50020, outlet, effOutletWrite_of_lt hr, ho]
    · have hB0018 : o ≠ 0xB0018 := by omega
      have hB001C : o ≠ 0xB001C := by omega
      have hC0030 : o ≠ 0xC0030 := by omega
      have hF0000 : o < 0xF0000 := by omega
      simp [effBar0, aligned, h0, h8, h20, h30070, h30074, h40020, h40024, h50020, outlet, hB0018, hB001C, hC0030, hF0000]
  · have refused : ¬ narrowWrite o w := fun hn => aligned (by
      rcases hn with ⟨rfl, ho⟩ | ⟨rfl, ho⟩ <;> exact ho)
    simp [effBar0, aligned, storeWrite_of_not_narrow refused]

/-! ## The commands -/

theorem exec_registerWrite (t : Nat) (i3c : Bool) (bar o w v : Nat) (s : State) :
    exec (.registerWrite t i3c bar o w v) s = s.actEnv t (effRegisterWrite i3c bar o w v) := rfl

theorem exec_apertureWrite (t v : Nat) (s : State) : exec (.apertureWrite t v) s = s.actEnv t (effAperture v) := rfl

theorem exec_dmpCtlWrite (t o w v : Nat) (s : State) :
    exec (.dmpCtlWrite t o w v) s = s.actEnv t (effDmpCtl o w v) := rfl

/-- The state after a store at offset o of BAR0. -/
def State.stored (s : State) (t o w v : Nat) : State := { s with env := storeWrite o w v (s.env.tick t) }

section Stored
variable (s : State) (t o w v : Nat)

@[simp] theorem stored_dev : (s.stored t o w v).dev = s.dev := rfl
@[simp] theorem stored_pending : (s.stored t o w v).pending = s.pending := rfl
@[simp] theorem stored_closed : (s.stored t o w v).env.closed = s.env.closed := by simp [State.stored]
@[simp] theorem stored_now : (s.stored t o w v).env.now = (s.env.tick t).now := by simp [State.stored]

theorem regWord_stored_other {o' : Nat} (h : o' ≠ o / 8 * 8) :
    regWord (s.stored t o w v).env o' = regWord s.env o' := by
  rw [State.stored, regWord_storeWrite_other h, regWord_tick]

variable {o w} in
theorem stored_of_not_narrow (h : ¬ narrowWrite o w) : s.stored t o w v = { s with env := s.env.tick t } := by
  rw [State.stored, storeWrite_of_not_narrow h]

end Stored

/-- A device that serves its registers stores a host's write of a direct register. -/
theorem exec_registerWrite_stores {s : State} (hup : s.dev.regsUp = true) {o : Nat}
    (ho : directReg (o / 8 * 8) = true) (t w v : Nat) :
    exec (.registerWrite t false 0 o w v) s = .next (s.stored t o w v) := by
  simp [exec_registerWrite, effRegisterWrite, hup, effBar0_of_directReg ho, State.stored]

/-- A device that serves no register writes, and is not in recovery, takes none. -/
theorem exec_registerWrite_deaf {s : State} (hup : s.dev.regsUp = false) (hrom : s.dev.mode ≠ .recovery)
    (t o w v : Nat) : exec (.registerWrite t false 0 o w v) s = .next { s with env := s.env.tick t } := by
  simp [exec_registerWrite, effRegisterWrite, hup, hrom]

/-- A write of another width or alignment of a direct register moves the clock alone, in every mode. -/
theorem exec_registerWrite_refused {o w : Nat} (ho : directReg (o / 8 * 8) = true) (hn : ¬ narrowWrite o w)
    (t v : Nat) (s : State) : exec (.registerWrite t false 0 o w v) s = .next { s with env := s.env.tick t } := by
  have none_stored : effBar0 o w v (s.env.tick t) s.dev = (s.env.tick t, s.dev) := by
    rw [effBar0_of_directReg ho, storeWrite_of_not_narrow hn]
  simp [exec_registerWrite, effRegisterWrite, none_stored]

theorem exec_apertureWrite_stores {s : State} (hup : s.dev.regsUp = true) (t v : Nat) :
    exec (.apertureWrite t v) s = .next (s.stored t 0x30 8 v) := by
  simp [exec_apertureWrite, effAperture, hup, State.stored]

theorem exec_apertureWrite_deaf {s : State} (hup : s.dev.regsUp = false) (t v : Nat) :
    exec (.apertureWrite t v) s = .next { s with env := s.env.tick t } := by
  simp [exec_apertureWrite, effAperture, hup]

theorem exec_dmpCtlWrite_stores {s : State} (hup : s.dev.regsUp = true) {o : Nat} (ho : o / 8 * 8 = 0xB0008)
    (t w v : Nat) : exec (.dmpCtlWrite t o w v) s = .next (s.stored t o w v) := by
  simp [exec_dmpCtlWrite, effDmpCtl, hup, ho, State.stored]

theorem exec_dmpCtlWrite_deaf {s : State} (hup : s.dev.regsUp = false) (t o w v : Nat) :
    exec (.dmpCtlWrite t o w v) s = .next { s with env := s.env.tick t } := by
  simp [exec_dmpCtlWrite, effDmpCtl, hup]

/-! ## HIF_APERTURE (R45) -/

theorem apertureOk_tick (e : Env) (t g : Nat) : apertureOk (e.tick t) g = apertureOk e g := rfl

/-- A 64-bit write of HIF_APERTURE puts v in place when the range at v GiB is allowed. -/
theorem aperture_storeWrite {v : Nat} (hv : v < 2 ^ 11) (e : Env) :
    reg (storeWrite 0x30 8 v e) 0x30 10 0 = if apertureOk e v then v else reg e 0x30 10 0 := by
  obtain ⟨lo, hi, x, hs, heq, hm⟩ := storeWrite_of_narrow (o := 0x30) (w := 8) (.inl ⟨rfl, rfl⟩) v e
  have written : bits (mergedWord lo hi x (regWord e 0x30)) 10 0 = v := by
    rw [hm]; simp [writtenWord, bits_eq_div_mod]; omega
  have placed : bits (writeFields e.closed lo hi x (regWord e 0x30) (regFields 0x30)) 10 0 = v := by
    have field := bits_writeFields_span hs e.closed x (regWord e 0x30) (regFields_laidOut 0x30)
      (g := ⟨10, 0, false, 578, 0, 2047, 1⟩) (by simp [regFields_aperture])
    have in_range : RField.ok ⟨10, 0, false, 578, 0, 2047, 1⟩ v = true := by
      simp [RField.ok_iff, Nat.mod_one]; omega
    simpa [written, in_range] using field
  rw [heq, reg, regWord_regStore, if_pos rfl, reg, storedWord]
  cases hok : apertureOk e v <;> simp [placed, hok]

/-! ## DMP_CTL (R417) -/

/-- After the close a write of any register but HIF_APERTURE moves the clock alone (R9). -/
theorem stored_of_closed {s : State} (he : s.env.closed = true) {o : Nat} (ho : o / 8 * 8 ≠ 0x30) (t w v : Nat) :
    s.stored t o w v = { s with env := s.env.tick t } := by
  rw [State.stored, storeWrite_of_closed (e := s.env.tick t) he ho]

/-- The fields warn and throttle of a word of DMP_CTL (Table 17.9). -/
def warnThrottle (x : Nat) : Nat × Nat := (bits x 22 16, bits x 29 23)

/-- The guard keeps both fields of the old word unless the new throttle is above the new warn. -/
theorem warnThrottle_dmpGuard (old new : Nat) :
    warnThrottle (dmpGuard old new) =
      if bits new 22 16 < bits new 29 23 then warnThrottle new else warnThrottle old := by
  unfold dmpGuard warnThrottle
  split
  · rfl
  · rw [bits_setBits_below (by decide) (by decide), bits_setBits_same (by decide), bits_setBits_same (by decide),
      bits_mod_width, bits_mod_width]

theorem bits_dmpGuard_other {hi lo : Nat} (h : hi < 16 ∨ 30 ≤ lo) (old new : Nat) :
    bits (dmpGuard old new) hi lo = bits new hi lo := by
  unfold dmpGuard
  split
  · rfl
  · rcases h with h | h
    · rw [bits_setBits_below (by decide) (by omega), bits_setBits_below (by decide) (by omega)]
    · rw [bits_setBits_above (by decide) (by omega), bits_setBits_above (by decide) (by omega)]

theorem dmpCtl_fields_other : ∀ f ∈ regFields 0xB0008, f.lo ≠ 16 → f.lo ≠ 23 → f.hi < 16 ∨ 30 ≤ f.lo := by decide

/-- A narrow write of DMP_CTL leaves the guarded word. -/
theorem regWord_storeWrite_dmpCtl {o w : Nat} (hn : narrowWrite o w) (ho : o / 8 * 8 = 0xB0008) (v : Nat) (e : Env) :
    ∃ new, regWord (storeWrite o w v e) 0xB0008 = dmpGuard (regWord e 0xB0008) new ∧
      ∀ f ∈ regFields 0xB0008, bits new f.hi f.lo =
        if (f.locked && e.closed) = false ∧ f.ok (bits (writtenWord (regWord e 0xB0008) o w v) f.hi f.lo) = true then
          bits (writtenWord (regWord e 0xB0008) o w v) f.hi f.lo
        else bits (regWord e 0xB0008) f.hi f.lo := by
  obtain ⟨lo, hi, x, hs, heq, hm⟩ := storeWrite_of_narrow hn v e
  refine ⟨writeFields e.closed lo hi x (regWord e 0xB0008) (regFields 0xB0008), ?_, fun f hf => ?_⟩
  · rw [heq, ho, regWord_regStore, if_pos rfl]
    simp [storedWord]
  · rw [bits_writeFields_span hs _ _ _ (regFields_laidOut _) hf, hm]

end Sys2Proof.Machine
end

section
/-! PROOFS. Register writes as their statement has them. -/

namespace Sys2Proof.Machine

/-- A narrow write of a plain register, to a device that serves its registers (R9, R419). -/
theorem registerWrite_plain_stores {s : State} {o w : Nat} (hplain : plainReg (o / 8 * 8) = true)
    (hup : s.dev.regsUp = true) (hn : narrowWrite o w) (t v : Nat) :
    ∃ u, exec (.registerWrite t false 0 o w v) s = .next u ∧ u.dev = s.dev ∧ u.pending = s.pending ∧
      u.env.closed = s.env.closed ∧ u.env.now = (s.env.tick t).now ∧
      (∀ f ∈ regFields (o / 8 * 8), bits (regWord u.env (o / 8 * 8)) f.hi f.lo =
        if (f.locked && s.env.closed) = false ∧
            f.ok (bits (writtenWord (regWord s.env (o / 8 * 8)) o w v) f.hi f.lo) = true then
          bits (writtenWord (regWord s.env (o / 8 * 8)) o w v) f.hi f.lo
        else bits (regWord s.env (o / 8 * 8)) f.hi f.lo) ∧
      (∀ o', o' ≠ o / 8 * 8 → regWord u.env o' = regWord s.env o') := by
  obtain ⟨direct, not_aperture, not_dmpCtl⟩ := plainReg_iff.mp hplain
  exact ⟨s.stored t o w v, exec_registerWrite_stores hup direct t w v, rfl, rfl, by simp, by simp,
    fun f hf => bits_storeWrite hn not_dmpCtl not_aperture v (s.env.tick t) hf,
    fun o' ho' => regWord_stored_other s t o w v ho'⟩

/-- Any other write of a plain register moves the clock alone. -/
theorem registerWrite_plain_refused {s : State} {o w : Nat} (hplain : plainReg (o / 8 * 8) = true)
    (h : (w ≠ 8 ∧ w ≠ 4) ∨ o % w ≠ 0 ∨ (s.dev.regsUp = false ∧ s.dev.mode ≠ .recovery)) (t v : Nat) :
    exec (.registerWrite t false 0 o w v) s = .next { s with env := s.env.tick t } := by
  have direct := (plainReg_iff.mp hplain).1
  rcases h with h | h | ⟨hdown, hrom⟩
  · exact exec_registerWrite_refused direct (not_narrow_of_refused (.inl h)) t v s
  · exact exec_registerWrite_refused direct (not_narrow_of_refused (.inr h)) t v s
  · exact exec_registerWrite_deaf hdown hrom t o w v

/-- APERTURE_WRITE moves HIF_APERTURE when the range is allowed, as the write of its register does (R45). -/
theorem apertureWrite_stores {s : State} (hup : s.dev.regsUp = true) {v : Nat} (hv : v < 2 ^ 11) (t : Nat) :
    ∃ u, exec (.apertureWrite t v) s = .next u ∧ u.dev = s.dev ∧ u.env.closed = s.env.closed ∧
      u.env.now = (s.env.tick t).now ∧
      reg u.env 0x30 10 0 = (if apertureOk s.env v then v else reg s.env 0x30 10 0) ∧
      (∀ o', o' ≠ 0x30 → regWord u.env o' = regWord s.env o') ∧
      exec (.registerWrite t false 0 0x30 8 v) s = .next u :=
  ⟨s.stored t 0x30 8 v, exec_apertureWrite_stores hup t v, rfl, by simp, by simp,
    aperture_storeWrite hv (s.env.tick t), fun _ ho' => regWord_stored_other s t 0x30 8 v ho',
    exec_registerWrite_stores hup rfl t 8 v⟩

/-- What a narrow write of DMP_CTL leaves in the open register: m is the word written (R417). -/
theorem dmpCtl_storeWrite_open {e : Env} (he : e.closed = false) {o w : Nat} (hn : narrowWrite o w)
    (ho : o / 8 * 8 = 0xB0008) {v m nw nt : Nat} (hm : m = writtenWord (regWord e 0xB0008) o w v)
    (hw : nw = if 60 ≤ bits m 22 16 ∧ bits m 22 16 ≤ 100 then bits m 22 16 else warnAt e)
    (ht : nt = if 70 ≤ bits m 29 23 ∧ bits m 29 23 ≤ 103 then bits m 29 23 else throttleAt e) :
    (warnAt (storeWrite o w v e), throttleAt (storeWrite o w v e)) =
        (if nw < nt then (nw, nt) else (warnAt e, throttleAt e)) ∧
      ∀ f ∈ regFields 0xB0008, f.lo ≠ 16 → f.lo ≠ 23 → bits (regWord (storeWrite o w v e) 0xB0008) f.hi f.lo =
        if f.ok (bits m f.hi f.lo) = true then bits m f.hi f.lo else bits (regWord e 0xB0008) f.hi f.lo := by
  obtain ⟨new, hword, hfields⟩ := regWord_storeWrite_dmpCtl hn ho v e
  simp only [he, Bool.and_false, true_and, ← hm] at hfields
  have new_warn : bits new 22 16 = nw := by
    have field := hfields (rwlR 22 16 95 60 100) (by decide)
    simpa [hw, RField.ok_iff, rwlR, Nat.mod_one, warnAt, reg] using field
  have new_throttle : bits new 29 23 = nt := by
    have field := hfields (rwlR 29 23 100 70 103) (by decide)
    simpa [ht, RField.ok_iff, rwlR, Nat.mod_one, throttleAt, reg] using field
  refine ⟨?_, fun f hf h16 h23 => ?_⟩
  · calc (warnAt (storeWrite o w v e), throttleAt (storeWrite o w v e))
        = warnThrottle (dmpGuard (regWord e 0xB0008) new) := by rw [← hword]; rfl
      _ = if nw < nt then (nw, nt) else (warnAt e, throttleAt e) := by
        rw [warnThrottle_dmpGuard, new_warn, new_throttle, warnThrottle, new_warn, new_throttle]; rfl
  · rw [hword, bits_dmpGuard_other (dmpCtl_fields_other f hf h16 h23), hfields f hf]

/-- Any other write of DMP_CTL moves the clock alone. -/
theorem dmpCtlWrite_refused {s : State} {o w : Nat} (ho : o / 8 * 8 = 0xB0008)
    (h : (w ≠ 8 ∧ w ≠ 4) ∨ o % w ≠ 0 ∨ s.dev.regsUp = false) (t v : Nat) :
    exec (.dmpCtlWrite t o w v) s = .next { s with env := s.env.tick t } := by
  cases hup : s.dev.regsUp with
  | false => exact exec_dmpCtlWrite_deaf hup t o w v
  | true =>
    have hn : ¬ narrowWrite o w := not_narrow_of_refused (by simpa [hup] using h)
    rw [exec_dmpCtlWrite_stores hup ho, stored_of_not_narrow s t v hn]

/-- Settles O8: plain registers, then HIF_APERTURE, then DMP_CTL. -/
theorem registerWritesStoreFields : Obligations.RegisterWritesStoreFields := by
  refine ⟨?_, ?_, ?_⟩
  · rintro t o w v m s e rfl hplain
    refine ⟨?_, fun h => registerWrite_plain_refused hplain h t v⟩
    rintro hup hn rfl
    exact registerWrite_plain_stores hplain hup hn t v
  · rintro t v s e rfl
    exact ⟨fun hup hv => apertureWrite_stores hup hv t, fun hdown => exec_apertureWrite_deaf hdown t v⟩
  · rintro t o w v m nw nt s e rfl ho
    refine ⟨fun hup hn hm hw ht => ?_, fun h => dmpCtlWrite_refused ho h t v⟩
    have not_aperture : o / 8 * 8 ≠ 0x30 := by omega
    refine ⟨s.stored t o w v, exec_dmpCtlWrite_stores hup ho t w v, rfl, by simp, by simp, fun hclosed => ?_,
      fun hopen => dmpCtl_storeWrite_open (e := s.env.tick t) hopen hn ho hm hw ht,
      fun o' ho' => regWord_stored_other s t o w v (ho ▸ ho'), exec_registerWrite_stores hup (by rw [ho]; rfl) t w v⟩
    rw [stored_of_closed hclosed not_aperture t w v, tick_regs]

end Sys2Proof.Machine
end

section
/-! PROOFS. The window, the mailbox, the host link (R21, R45, R212, R418). -/

namespace Sys2Proof.Machine

/-! ## Window reads -/

theorem exec_windowRead {o n : Nat} (h : outside o n = false) (t : Nat) (unc : Bool) (s : State) :
    exec (.windowRead t o n unc) s = s.act t (effWindowRead o n unc) := by
  simp [exec, execWindowRead, h]

theorem exec_windowRead_outside {o n : Nat} (h : outside o n = true) (t : Nat) (unc : Bool) (s : State) :
    exec (.windowRead t o n unc) s = .fault .outsideWindow := by
  simp [exec, execWindowRead, h]

theorem exec_windowWrite {o : Nat} {data : List Byte} (h : outside o data.length = false) (t : Nat) (s : State) :
    exec (.windowWrite t o data) s = s.act t effWindowWrite := by
  simp [exec, execWindowWrite, h]

theorem exec_mailboxCommand (t opcode : Nat) (p : List Byte) (s : State) :
    exec (.mailboxCommand t opcode p) s = s.act t (effMailbox opcode p) := rfl

theorem exec_hostLinkDown (t : Nat) (s : State) : exec (.hostLinkDown t) s = s.act t effHostLinkDown := rfl

theorem exec_hostLinkUp (t m r : Nat) (s : State) : exec (.hostLinkUp t m r) s = s.act t (effHostLinkUp m r) := rfl

theorem outside_eq_false {o n : Nat} (hend : o + n ≤ 64 * 2 ^ 30) (ho : o < 64 * 2 ^ 30) : outside o n = false := by
  have end_within : ¬ windowBytes < o + n := Nat.not_lt.mpr hend
  have start_within : ¬ windowBytes ≤ o := Nat.not_le.mpr ho
  simp [outside, end_within, start_within]

theorem outside_eq_true {o n : Nat} (h : 64 * 2 ^ 30 < o + n) : outside o n = true := by
  have past_end : windowBytes < o + n := h
  simp [outside, past_end]

/-- While a job is being saved a read waits (R212). -/
theorem effWindowRead_saving {d : Device} (h : d.saving = true) (o n : Nat) (unc : Bool) (e : Env) :
    effWindowRead o n unc e d = d := by
  simp [effWindowRead, h]

/-- A read leaves its answer, and may draw a free value. -/
theorem effWindowRead_frame (o n : Nat) (unc : Bool) (e : Env) (d : Device) :
    ∃ f a, effWindowRead o n unc e d = { d with free := f, hif := { d.hif with answer := a } } := by
  unfold effWindowRead
  split
  · exact ⟨d.free, d.hif.answer, rfl⟩
  dsimp only
  split
  · exact ⟨d.free + 1, _, rfl⟩
  · exact ⟨d.free, _, rfl⟩

section Answer
variable {e : Env} {d : Device} {o n : Nat} (hup : d.regsUp = true) (hsave : d.saving = false)
include hup hsave

theorem effWindowRead_clean (h : ∀ i, i < n → d.lpPoisoned (windowAddr e (o + i)) = false) :
    (effWindowRead o n false e d).hif.answer =
      { data := (upto n).map (fun i => d.lpByte e (windowAddr e (o + i))), poison := false } := by
  have clean : ((upto n).map (fun i => windowAddr e (o + i))).any d.lpPoisoned = false := by
    simpa [upto] using h
  simp [effWindowRead, hup, hsave, clean, Function.comp_def]

theorem effWindowRead_poisoned (h : ∃ i, i < n ∧ d.lpPoisoned (windowAddr e (o + i)) = true) :
    (effWindowRead o n false e d).hif.answer.poison = true := by
  have poisoned : ((upto n).map (fun i => windowAddr e (o + i))).any d.lpPoisoned = true := by
    simpa [upto] using h
  simp [effWindowRead, hup, hsave, poisoned, Device.draw]

end Answer

/-- A read within the window answers its bytes, or poison, and leaves memories and requests (R45). -/
theorem windowRead_answers {s : State} (hup : s.dev.regsUp = true) (hsave : s.dev.saving = false) {o n : Nat}
    (hin : outside o n = false) (t : Nat) :
    ∃ u, exec (.windowRead t o n false) s = .next u ∧
      u.dev.lp = s.dev.lp ∧ u.dev.host = s.dev.host ∧ u.dev.reqs = s.dev.reqs ∧
      ((∀ i, i < n → s.dev.lpPoisoned (windowAddr (s.env.tick t) (o + i)) = false) →
        u.dev.hif.answer.poison = false ∧
        u.dev.hif.answer.data = (upto n).map (fun i => s.dev.lpByte (s.env.tick t) (windowAddr (s.env.tick t) (o + i)))) ∧
      ((∃ i, i < n ∧ s.dev.lpPoisoned (windowAddr (s.env.tick t) (o + i)) = true) → u.dev.hif.answer.poison = true) := by
  obtain ⟨f, a, frame⟩ := effWindowRead_frame o n false (s.env.tick t) s.dev
  refine ⟨_, exec_windowRead hin t false s, by simp [frame], by simp [frame], by simp [frame], fun h => ?_, fun h => ?_⟩
  · have answer := effWindowRead_clean hup hsave h
    exact ⟨congrArg Answer.poison answer, congrArg Answer.data answer⟩
  · exact effWindowRead_poisoned hup hsave h

/-! ## Window writes, the mailbox, the host link -/

theorem effWindowWrite_of_up {d : Device} (h : d.regsUp = true) (e : Env) :
    effWindowWrite e d = { d with hif := { d.hif with winDrops := sat lim64 (d.hif.winDrops + 1) } } := by
  simp [effWindowWrite, h]

theorem effMailbox_of_up {d : Device} (h : d.regsUp = true) (opcode : Nat) (p : List Byte) (e : Env) :
    effMailbox opcode p e d = { d with
      free := d.free + 1
      hif := { d.hif with mailbox := [opcode, Config.mailboxAnswer d.free opcode] } } := by
  simp [effMailbox, h, Device.draw]

/-- With no completion ring, none is held: the link's return notes width and rate alone (R21, Table 18.3). -/
theorem effHostLinkUp_of_no_cq {d : Device} (hp : d.powered = true) (hcq : d.cq = []) {m r : Nat} (hm : m < 16)
    (hr : r < 8) (e : Env) :
    effHostLinkUp m r e d = { d with hif := { d.hif with linkUp := true, modules := m, rate := r } } := by
  simp [effHostLinkUp, hp, hcq, Nat.mod_eq_of_lt hm, Nat.mod_eq_of_lt hr]

/-- Settles O50: the window's reads by case of its range, of a save and of poison, then its writes, the mailbox and the
link. -/
theorem windowMailboxAndHostLink : Obligations.WindowMailboxAndHostLink := by
  refine ⟨?_, ?_⟩
  · rintro t o n s e rfl
    refine ⟨fun _ hsave hend ho => ?_, fun hup hsave hend ho => ?_, fun h => ?_, fun data hup hend ho => ?_,
      fun opcode p hup => ?_⟩
    · rw [exec_windowRead (outside_eq_false hend ho), act_eq, effWindowRead_saving hsave]
    · exact windowRead_answers hup hsave (outside_eq_false hend ho) t
    · exact exec_windowRead_outside (outside_eq_true h) t false s
    · rw [exec_windowWrite (outside_eq_false hend ho), act_eq, effWindowWrite_of_up hup]
    · rw [exec_mailboxCommand, act_eq, effMailbox_of_up hup]
  · rintro t m r s e rfl
    refine ⟨rfl, fun hp _ hm hr hcq => ?_⟩
    rw [exec_hostLinkUp, act_eq, effHostLinkUp_of_no_cq hp hcq hm hr]

end Sys2Proof.Machine
end

section
/-! PROOFS. Releasing page homes (R185, R229, R241, R247, Table 09.9): it touches the memories, the frames and the tables
of the Peel and of Pemos, and of the contexts it only takes the released entries out of their lists. -/

namespace Sys2Proof.Machine

/-- u is d but for what page homes live in: LPDDR5X, frames and list frames, shared blocks, the Peel's and Pemos's
tables. -/
def Device.sameButHomes (d u : Device) : Prop :=
  ∃ lp bad frames lists blocks peel pem, u = { d with
    lp := lp, lpBad := bad, frames := frames, lists := lists, blocks := blocks, peel := peel, pem := pem }

theorem Device.sameButHomes.refl (d : Device) : d.sameButHomes d := ⟨_, _, _, _, _, _, _, rfl⟩

theorem Device.sameButHomes.trans {d u v : Device} : d.sameButHomes u → u.sameButHomes v → d.sameButHomes v := by
  rintro ⟨_, _, _, _, _, _, _, rfl⟩ ⟨_, _, _, _, _, _, _, rfl⟩
  exact ⟨_, _, _, _, _, _, _, rfl⟩

theorem Device.sameButHomes.reqs {d u : Device} : d.sameButHomes u → u.reqs = d.reqs := by
  rintro ⟨_, _, _, _, _, _, _, rfl⟩; rfl

theorem Device.sameButHomes.ctxs {d u : Device} : d.sameButHomes u → u.ctxs = d.ctxs := by
  rintro ⟨_, _, _, _, _, _, _, rfl⟩; rfl

theorem Device.sameButHomes.ctx {d u : Device} (h : d.sameButHomes u) (c : Nat) : u.ctx c = d.ctx c := by
  rw [Device.ctx, h.ctxs, Device.ctx]

theorem sameButHomes_foldl {α : Type} {f : Device → α → Device} (step : ∀ (d : Device) a, d.sameButHomes (f d a))
    (d : Device) (l : List α) : d.sameButHomes (l.foldl f d) :=
  List.foldlRecOn (motive := d.sameButHomes) l f (.refl d) fun u h a _ => h.trans (step u a)

/-! ## Homes -/

theorem releaseFrame_sameButHomes (d : Device) (r pi slot : Nat) : d.sameButHomes (d.releaseFrame r pi slot) :=
  ⟨_, _, _, _, _, _, _, rfl⟩

theorem tier1Free_sameButHomes (d : Device) (a : Nat) : d.sameButHomes (d.tier1Free a) := by
  unfold Device.tier1Free
  split
  · exact .refl d
  · exact ⟨_, _, _, _, _, _, _, rfl⟩

theorem releaseHome_sameButHomes (d : Device) (r : Nat) (p : Page) : d.sameButHomes (d.releaseHome r p) := by
  unfold Device.releaseHome
  split
  · exact .refl d
  split
  · exact releaseFrame_sameButHomes ..
  split
  · exact tier1Free_sameButHomes ..
  · exact ⟨_, _, _, _, _, _, _, rfl⟩

/-! ## Moves and stagings -/

theorem loseOps_sameButHomes (d : Device) (mine : FabOp → Bool) : d.sameButHomes (d.loseOps mine) :=
  ⟨_, _, _, _, _, _, _, rfl⟩

theorem cancelMoves_sameButHomes (d : Device) (which : Move → Bool) : d.sameButHomes (d.cancelMoves which) := by
  unfold Device.cancelMoves
  refine ((sameButHomes_foldl (fun d m => ?_) d _).trans (loseOps_sameButHomes ..)).trans ⟨_, _, _, _, _, _, _, rfl⟩
  split
  · split
    · exact releaseFrame_sameButHomes ..
    split
    · exact tier1Free_sameButHomes ..
    · exact .refl d
  · exact .refl d

theorem dropStagings_sameButHomes (d : Device) (which : Nat → Nat → Nat → Bool) :
    d.sameButHomes (d.dropStagings which) :=
  (loseOps_sameButHomes d _).trans ⟨_, _, _, _, _, _, _, rfl⟩

theorem detach_sameButHomes (d : Device) (c : Nat) (ps : List Page) : d.sameButHomes (d.detach c ps) :=
  (cancelMoves_sameButHomes d _).trans (dropStagings_sameButHomes ..)

/-! ## References and list frames -/

theorem dropGone_sameButHomes (d : Device) : d.sameButHomes d.dropGone :=
  .trans ⟨_, _, _, _, _, _, _, rfl⟩
    (sameButHomes_foldl (fun d _ => sameButHomes_foldl (fun d _ => releaseFrame_sameButHomes d ..) d _) ..)

theorem recount_sameButHomes (d : Device) : d.sameButHomes d.recount :=
  (dropGone_sameButHomes d).trans ⟨_, _, _, _, _, _, _, rfl⟩

/-! ## Entries released -/

theorem dropPages_of_filter_nil {x : Context} {which : Page → Bool} (h : x.pages.filter which = []) :
    x.dropPages which = x := by
  have keeps : x.pages.filter (fun p => !which p) = x.pages :=
    List.filter_eq_self.mpr fun p hp => by simpa using List.filter_eq_nil_iff.mp h p hp
  rw [Context.dropPages, keeps]

/-- The device once the homes of a context's entries are released, their moves and stagings gone (R185, R229). -/
def Device.homesReleased (d : Device) (c : Nat) (ps : List Page) : Device :=
  ps.foldl (fun u p => u.releaseHome (d.ctx c).recipe p) (d.detach c ps)

theorem homesReleased_sameButHomes (d : Device) (c : Nat) (ps : List Page) : d.sameButHomes (d.homesReleased c ps) :=
  (detach_sameButHomes d c ps).trans (sameButHomes_foldl (fun u p => releaseHome_sameButHomes u _ p) _ ps)

theorem releasePages_of_none {d : Device} {c : Nat} {which : Page → Bool} (h : (d.ctx c).pages.filter which = []) :
    d.releasePages c which = d := by
  simp [Device.releasePages, Device.swapPages, h]

theorem releasePages_of_some {d : Device} {c : Nat} {which : Page → Bool} (h : (d.ctx c).pages.filter which ≠ []) :
    d.releasePages c which = ((d.homesReleased c ((d.ctx c).pages.filter which)).modCtx c
      (fun x => x.dropPages which)).recount := by
  simp only [Device.releasePages, Device.swapPages, List.isEmpty_eq_false_iff.mpr h, Bool.false_and, List.foldl_nil,
    Device.homesReleased]
  rfl

@[simp] theorem releasePages_reqs (d : Device) (c : Nat) (which : Page → Bool) :
    (d.releasePages c which).reqs = d.reqs := by
  by_cases h : (d.ctx c).pages.filter which = []
  · rw [releasePages_of_none h]
  · rw [releasePages_of_some h, (recount_sameButHomes _).reqs, modCtx_eq, setCtx_reqs,
      (homesReleased_sameButHomes ..).reqs]

theorem ctx_releasePages (d : Device) (c j : Nat) (which : Page → Bool) :
    (d.releasePages c which).ctx j = if j = c then (d.ctx c).dropPages which else d.ctx j := by
  by_cases h : (d.ctx c).pages.filter which = []
  · rw [releasePages_of_none h, dropPages_of_filter_nil h]
    split
    next hj => rw [hj]
    next => rfl
  · rw [releasePages_of_some h, (recount_sameButHomes _).ctx, modCtx_eq, ctx_setCtx,
      (homesReleased_sameButHomes ..).ctx, (homesReleased_sameButHomes ..).ctx]

/-! ## Demotion (R68) -/

@[simp] theorem dropAll_reqs (d : Device) (c : Nat) : (d.dropAll c).reqs = d.reqs := by
  simp [Device.dropAll]

theorem ctx_dropAll (d : Device) (c j : Nat) : (d.dropAll c).ctx j =
    if j = c then { (d.ctx c).dropPages (fun _ => true) with valid := 0, prefixLen := 0 } else d.ctx j := by
  simp only [Device.dropAll, modCtx_eq, ctx_setCtx, ctx_releasePages, if_true]
  split <;> rfl

@[simp] theorem demote_reqs (d : Device) (c : Nat) (record : Bool) : (d.demote c record).reqs = d.reqs := by
  simp [Device.demote]

theorem ctx_demote (d : Device) (c j : Nat) (record : Bool) : (d.demote c record).ctx j =
    if j = c then { (d.ctx c).dropPages (fun _ => true) with
      valid := 0, prefixLen := 0, demoting := true, noRecord := !record } else d.ctx j := by
  have kneader_apart (u : Device) (k : Kneader) : ({ u with kn := k } : Device).ctx j = u.ctx j := rfl
  simp only [Device.demote, kneader_apart, modCtx_eq, ctx_setCtx, ctx_dropAll, if_true]
  split <;> rfl

end Sys2Proof.Machine
end

section
/-! PROOFS. CANCEL, PARK and MODIFY (R14, R32, R60, R64, R65, R194, R284). -/

namespace Sys2Proof.Machine

/-! ## A descriptor taken, a descriptor completed -/

theorem exec_cancel (t ring : Nat) (s : State) : exec (.cancel t ring) s = s.act t (onDesc ring 0x02 effCancel) := rfl

theorem exec_park (t ring : Nat) (s : State) : exec (.park t ring) s = s.act t (onDesc ring 0x03 effPark) := rfl

theorem exec_modify (t ring : Nat) (s : State) : exec (.modify t ring) s = s.act t (onDesc ring 0x04 effModify) := rfl

theorem act_onDesc_of_take {s : State} {t ring op : Nat} {f : Fetched} {d : Device}
    (h : s.dev.take (s.env.tick t) ring op = some (f, d)) (eff : Env → Device → Fetched → Device) :
    s.act t (onDesc ring op eff) = .next { s with env := s.env.tick t, dev := eff (s.env.tick t) d f } := by
  rw [act_eq, onDesc_some eff h]

theorem take_reqs {e : Env} {d d' : Device} {ring op : Nat} {f : Fetched} (h : d.take e ring op = some (f, d')) :
    d'.reqs = d.reqs := by
  obtain ⟨_, _, rfl⟩ := take_frame h; rfl

theorem take_lp {e : Env} {d d' : Device} {ring op : Nat} {f : Fetched} (h : d.take e ring op = some (f, d')) :
    d'.lp = d.lp := by
  obtain ⟨_, _, rfl⟩ := take_frame h; rfl

theorem take_req {e : Env} {d d' : Device} {ring op : Nat} {f : Fetched} (h : d.take e ring op = some (f, d'))
    (j : Nat) : d'.req j = d.req j := by
  rw [Device.req, take_reqs h, Device.req]

@[simp] theorem completeD_req (d : Device) (e : Env) (f : Fetched) (st det res j : Nat) :
    (d.completeD e f st det res).req j = d.req j := by
  rw [Device.req, completeD_reqs, Device.req]

@[simp] theorem completeD_ctx (d : Device) (e : Env) (f : Fetched) (st det res c : Nat) :
    (d.completeD e f st det res).ctx c = d.ctx c := by
  rw [Device.ctx, completeD_ctxs, Device.ctx]

/-! ## Changes applied -/

theorem named_of_going {d : Device} {i : Nat} (h : (d.req i).going = true) : d.named i (d.req i).incarnation = true := by
  simp [Device.named, h]

/-- The request a MODIFY leaves (R65). -/
def Request.modified (r : Request) (f : Fetched) : Request :=
  { r with priority := if bit (f.w 3) 3 then bits (f.w 3) 2 0 else r.priority
           deadline := if bit (f.w 3) 4 then f.w 2 else r.deadline }

/-- A MODIFY changes the request named, and of its context at most the class (R65). -/
theorem modifyReq_cases (d : Device) (f : Fetched) (i : Nat) :
    d.modifyReq f i = d.setReq i ((d.req i).modified f) ∨
    ∃ c, d.modifyReq f i = (d.setReq i ((d.req i).modified f)).setCtx c
      { d.ctx c with cls := bits (f.w 3) 2 0 } := by
  by_cases h : (((d.setReq i ((d.req i).modified f)).req i).ctxValid && bit (f.w 3) 3) = true
  · exact .inr ⟨_, if_pos h⟩
  · exact .inl (if_neg h)

theorem req_modifyReq (d : Device) (f : Fetched) (i j : Nat) :
    (d.modifyReq f i).req j = if j = i then (d.req i).modified f else d.req j := by
  obtain h | ⟨c, h⟩ := modifyReq_cases d f i
  · rw [h, req_setReq]
  · rw [h, setCtx_req, req_setReq]

@[simp] theorem modifyReq_lp (d : Device) (f : Fetched) (i : Nat) : (d.modifyReq f i).lp = d.lp := by
  obtain h | ⟨c, h⟩ := modifyReq_cases d f i
  · rw [h, setReq_lp]
  · rw [h, setCtx_lp, setReq_lp]

@[simp] theorem parkCtx_reqs (d : Device) (f : Fetched) : (d.parkCtx f).reqs = d.reqs := by
  unfold Device.parkCtx
  split
  · rfl
  · dsimp only
    split
    · simp
    split <;> simp

/-- What PARK leaves of an idle session's resident context: unpinned, parked, and with demote now being demoted, its
token log kept (R284, R68). -/
theorem parkCtx_idle {d : Device} {f : Fetched} {c : Nat} (hc : d.ctxOf f.session = some c)
    (idle : (d.ctx c).live = false) :
    ((d.parkCtx f).ctx c).pinned = false ∧ ((d.parkCtx f).ctx c).parked = true ∧
      ((d.parkCtx f).ctx c).demoting = ((d.ctx c).demoting || bit (f.w 2) 0) ∧
      ((d.parkCtx f).ctx c).logLength = (d.ctx c).logLength := by
  cases now : bit (f.w 2) 0 with
  | false => simp [Device.parkCtx, hc, now]
  | true => simp [Device.parkCtx, hc, now, idle, ctx_demote, Context.dropPages]

/-! ## Effects of the descriptors -/

section Effects
variable {e : Env} {d : Device} {f : Fetched} (own : d.foreign e f = false)
include own

theorem effCancel_of_none (h : d.target f = none) : effCancel e d f = d.completeD e f 0 1 0 := by
  simp [effCancel, own, h]

theorem effPark_of_none (out : d.inHandoff f.session = false) (h : d.target f = none) :
    effPark e d f = (d.parkCtx f).completeD e f 0 1 0 := by
  simp [effPark, own, out, h]

variable {i : Nat} (h : d.target f = some i) (going : (d.req i).going = true)
include h going

theorem effCancel_later (wait : (d.req i).cancelLater = true) :
    effCancel e d f = d.later (.cancel f i (d.req i).incarnation) := by
  simp [effCancel, own, h, going, wait]

theorem effCancel_now (now : (d.req i).cancelLater = false) :
    effCancel e d f = (d.endReq e i 0x32 0 0).completeD e f 0 0 0 := by
  simp [effCancel, own, h, now, Device.applyChange, named_of_going going, Device.cancelReq]

theorem effModify_later (seated : (d.req i).state = .seated) :
    effModify e d f = d.later (.modify f i (d.req i).incarnation) := by
  simp [effModify, own, h, going, seated]

theorem effModify_now (unseated : (d.req i).state ≠ .seated) :
    effModify e d f = (d.modifyReq f i).completeD e f 0 0 0 := by
  simp [effModify, own, h, unseated, Device.applyChange, named_of_going going]

end Effects

/-- Settles O20: each descriptor by its target and by what the request named is doing. -/
theorem cancelParkModifyTakeEffect : Obligations.CancelParkModifyTakeEffect := by
  refine ⟨?_, ?_, ?_⟩
  · rintro t ring s e f d rfl taken own
    rw [exec_cancel, act_onDesc_of_take taken]
    refine ⟨fun i target going => ⟨fun now => ?_, fun wait => ?_⟩, fun target => ?_⟩
    · rw [effCancel_now own target going now]
    · rw [effCancel_later own target going wait, Device.later]
    · rw [effCancel_of_none own target]
  · rintro t ring c s e f d rfl taken own out target resident idle
    have unchanged : ((d.parkCtx f).completeD (s.env.tick t) f 0 1 0).reqs = s.dev.reqs := by
      rw [completeD_reqs, parkCtx_reqs, take_reqs taken]
    rw [exec_park, act_onDesc_of_take taken, effPark_of_none own out target]
    obtain ⟨pinned, parked, demoting, logLength⟩ := parkCtx_idle resident idle
    exact ⟨_, rfl, by simpa using pinned, by simpa using parked, by simpa using demoting, by simpa using logLength,
      unchanged⟩
  · rintro t ring i s e f d rfl taken own target going
    rw [exec_modify, act_onDesc_of_take taken]
    refine ⟨fun unseated => ?_, fun seated => ?_⟩
    · rw [effModify_now own target going unseated]
      have this_request : ((d.modifyReq f i).completeD (s.env.tick t) f 0 0 0).req i = (d.req i).modified f := by
        rw [completeD_req, req_modifyReq, if_pos rfl]
      refine ⟨_, rfl, congrArg Request.priority this_request, congrArg Request.deadline this_request,
        by rw [this_request, Request.modified], fun j other => ?_, ?_⟩
      · rw [completeD_req, req_modifyReq, if_neg other, take_req taken]
      · rw [completeD_lp, modifyReq_lp, take_lp taken]
    · rw [effModify_later own target going seated, Device.later]

end Sys2Proof.Machine
end

section
/-! PROOFS. Completions (R24, R28, R31, R38): the qwords of an entry as host memory holds them, and what a completion
leaves when it is written and when it is held. -/

namespace Sys2Proof.Machine

/-! ## Qwords in a byte memory -/

theorem mwrites_append (d : Byte) (m : Memory) (a : Nat) (xs ys : List Byte) :
    mwrites d m a (xs ++ ys) = mwrites d (mwrites d m a xs) (a + xs.length) ys := by
  induction xs generalizing m a with
  | nil => rfl
  | cons x xs ih => simp only [List.cons_append, mwrites, ih, List.length_cons]; congr 1; omega

theorem mreads_congr {d : Byte} {m m' : Memory} {a n : Nat}
    (h : ∀ b, a ≤ b → b < a + n → mread d m b = mread d m' b) : mreads d m a n = mreads d m' a n := by
  induction n generalizing a with
  | zero => rfl
  | succ n ih =>
    rw [mreads, mreads, h a (by omega) (by omega), ih fun b hlo hhi => h b (by omega) (by omega)]

theorem rd_mwrites_above (m : Memory) {a b n : Nat} (h : a + n ≤ b) (bs : List Byte) :
    rd (mwrites 0 m b bs) a n = rd m a n := by
  refine congrArg ofBytes (mreads_congr fun x _ hx => ?_)
  rw [mread_mwrites, if_neg (by omega)]

/-- Qwords written one after the other are read back. -/
theorem rd_mwrites_qwords (m : Memory) (a : Nat) (ws : List Nat) {k : Nat} (hk : k < ws.length) :
    rd (mwrites 0 m a (ws.flatMap (toBytes 8))) (a + 8 * k) 8 = ws[k] % 2 ^ 64 := by
  induction ws generalizing m a k with
  | nil => cases hk
  | cons w ws ih =>
    rw [List.flatMap_cons, mwrites_append, length_toBytes]
    cases k with
    | zero => rw [rd_mwrites_above _ (by omega)]; exact rd_wr_same m a 8 w
    | succ k =>
      rw [show a + 8 * (k + 1) = a + 8 + 8 * k by omega, ih _ _ (Nat.lt_of_succ_lt_succ hk), List.getElem_cons_succ]

theorem toBytes_succ_last (n v : Nat) : toBytes (n + 1) v = toBytes n v ++ [BitVec.ofNat 8 (v / 256 ^ n)] := by
  induction n generalizing v with
  | zero => simp [toBytes, BitVec.toNat_eq]
  | succ n ih => rw [toBytes, ih, toBytes, Nat.div_div_eq_div_mul, Nat.pow_succ', List.cons_append]

theorem toBytes_add_mul_pow (n v x : Nat) : toBytes n (v + 256 ^ n * x) = toBytes n v := by
  induction n generalizing v with
  | zero => rfl
  | succ n ih =>
    rw [toBytes, toBytes, Nat.pow_succ', Nat.mul_assoc, Nat.add_mul_mod_self_left,
      Nat.add_mul_div_left _ _ (by decide), ih]

/-- The phase is bit 63 of an entry's last qword (R24). -/
theorem withPhase_append_toBytes (p : Bool) (bs : List Byte) {v : Nat} (h : v < 2 ^ 63) :
    withPhase p (bs ++ toBytes 8 v) = bs ++ toBytes 8 (v + 2 ^ 63 * b2n p) := by
  have low : toBytes 7 (v + 2 ^ 63 * b2n p) = toBytes 7 v := by
    rw [show 2 ^ 63 * b2n p = 256 ^ 7 * (128 * b2n p) by omega, toBytes_add_mul_pow]
  have last : BitVec.ofNat 8 (v / 256 ^ 7) % 128 + (if p then 128 else 0)
      = BitVec.ofNat 8 ((v + 2 ^ 63 * b2n p) / 256 ^ 7) := by
    cases p <;> simp [b2n, BitVec.toNat_eq] <;> omega
  rw [toBytes_succ_last 7 v, toBytes_succ_last 7 (v + _), low, ← last, ← List.append_assoc, ← List.append_assoc,
    withPhase, List.dropLast_concat, List.getLastD_concat]

/-! ## The qwords of a completion entry (Table 02.8) -/

/-- The four qwords of a completion entry in a ring of phase p. -/
def Completion.qwords (c : Completion) (head : Nat) (p : Bool) : List Nat :=
  [c.cookie % 2 ^ 32 + c.request.elim (2 ^ 52) (· * 2 ^ 32) + c.status * 2 ^ 56,
    head + c.ring * 2 ^ 16 + c.reason * 2 ^ 24 + c.detail * 2 ^ 32, c.result, c.quality % 2 ^ 63 + 2 ^ 63 * b2n p]

theorem withPhase_bytes (p : Bool) (c : Completion) (head : Nat) :
    withPhase p (c.bytes head) = (c.qwords head p).flatMap (toBytes 8) := by
  rw [Completion.bytes, withPhase_append_toBytes p _ (Nat.mod_lt _ (Nat.two_pow_pos 63))]
  cases hr : c.request <;> simp [Completion.qwords, hr]

/-! ## An entry written to a ring -/

theorem message_ring (d : Device) (v : Nat) (k : RingKind) (n : Nat) : (d.message v).ring k n = d.ring k n := by
  obtain ⟨_, h⟩ := message_frame d v
  rw [h]; rfl

theorem interrupt_host (d : Device) (e : Env) (k : RingKind) (n : Nat) : (d.interrupt e k n).host = d.host := by
  obtain ⟨_, _, _, _, h⟩ := interrupt_frame d e k n
  rw [h]

/-- A ring's message empties its list of pending entries or leaves the ring (R44). -/
theorem interrupt_ring (d : Device) (e : Env) (k : RingKind) (n : Nat) :
    ∃ pend, (d.interrupt e k n).ring k n = { d.ring k n with pend := pend } := by
  unfold Device.interrupt
  dsimp only
  split
  · exact ⟨_, message_ring d _ k n⟩
  · exact ⟨[], by rw [ring_setRing_same, message_ring]⟩

/-- A ring after one more entry: index and phase move on (R24), and the pending entries are pend. -/
def DevRing.advance (r : DevRing) (size : Nat) (pend : List (Nat × Nat)) : DevRing :=
  { r with next := if r.next + 1 == size then 0 else r.next + 1
           phase := if r.next + 1 == size then !r.phase else r.phase
           pend := pend }

section PutEntry
variable (d : Device) (e : Env) (k : RingKind) (n : Nat) (bs : List Byte) (counted urgent : Bool)

/-- The device with an entry written and its ring moved on, before any message. -/
def Device.entered (pend : List (Nat × Nat)) : Device :=
  (d.hostWrite (devBase e k n + devEntry k * (d.ring k n).next) (withPhase (d.ring k n).phase bs)).setRing k n
    ((d.ring k n).advance (devSize e k n) pend)

theorem putEntry_eq : ∃ pend message : _, d.putEntry e k n bs counted urgent =
    if message = true then (d.entered e k n bs pend).interrupt e k n else d.entered e k n bs pend :=
  ⟨_, _, rfl⟩

theorem entered_host (pend : List (Nat × Nat)) : (d.entered e k n bs pend).host =
    mwrites 0 d.host (devBase e k n + devEntry k * (d.ring k n).next) (withPhase (d.ring k n).phase bs) :=
  setRing_host ..

theorem putEntry_host : (d.putEntry e k n bs counted urgent).host =
    mwrites 0 d.host (devBase e k n + devEntry k * (d.ring k n).next) (withPhase (d.ring k n).phase bs) := by
  obtain ⟨pend, message, h⟩ := putEntry_eq d e k n bs counted urgent
  rw [h]
  split
  · rw [interrupt_host, entered_host]
  · exact entered_host ..

theorem putEntry_ring : ∃ pend,
    (d.putEntry e k n bs counted urgent).ring k n = (d.ring k n).advance (devSize e k n) pend := by
  obtain ⟨pend, message, h⟩ := putEntry_eq d e k n bs counted urgent
  rw [h]
  split
  · obtain ⟨pend', h'⟩ := interrupt_ring (d.entered e k n bs pend) e k n
    exact ⟨pend', by rw [h', Device.entered, ring_setRing_same]; rfl⟩
  · exact ⟨pend, ring_setRing_same ..⟩

theorem putEntry_inflight : (d.putEntry e k n bs counted urgent).inflight = d.inflight := by
  obtain ⟨_, _, _, _, _, h⟩ := putEntry_frame d e k n bs counted urgent
  rw [h]

end PutEntry

/-! ## A completion without a request entry, written or held (R28, R31) -/

theorem hasRoom_iff (d : Device) (e : Env) (ring : Nat) : d.hasRoom e ring ↔
    ((d.ring .cq (sqCq e ring)).held.isEmpty && d.canPut e .cq (sqCq e ring)) = true := by
  simp [Device.hasRoom]

section Complete
variable {e : Env} {d : Device} {c : Completion}

theorem complete_of_room (room : d.hasRoom e c.ring) : d.complete e c = d.writeCompletion e c :=
  if_pos ((hasRoom_iff ..).mp room)

theorem complete_of_no_room (full : ¬ d.hasRoom e c.ring) : d.complete e c = d.setRing .cq (sqCq e c.ring)
    { d.ring .cq (sqCq e c.ring) with held := (d.ring .cq (sqCq e c.ring)).held ++ [c] } :=
  if_neg (mt (hasRoom_iff ..).mpr full)

theorem finish_of_none (hc : c.request = none) (d : Device) :
    d.finish e c = { d with inflight := d.inflight.filter (fun x => x.seq != c.seq) } := by
  simp [Device.finish, hc]

variable (hc : c.request = none) (room : d.hasRoom e c.ring)
include hc room

theorem complete_host : (d.complete e c).host =
    mwrites 0 d.host (devBase e .cq (sqCq e c.ring) + 32 * (d.ring .cq (sqCq e c.ring)).next)
      (withPhase (d.ring .cq (sqCq e c.ring)).phase (c.bytes (d.sqr c.ring).head)) := by
  rw [complete_of_room room, Device.writeCompletion, finish_of_none hc]
  exact putEntry_host ..

theorem complete_inflight : (d.complete e c).inflight = d.inflight.filter (fun x => x.seq != c.seq) := by
  rw [complete_of_room room, Device.writeCompletion, finish_of_none hc]
  exact congrArg (List.filter _) (putEntry_inflight ..)

theorem complete_ring : ∃ pend, (d.complete e c).ring .cq (sqCq e c.ring) =
    (d.ring .cq (sqCq e c.ring)).advance (devSize e .cq (sqCq e c.ring)) pend := by
  rw [complete_of_room room, Device.writeCompletion, finish_of_none hc]
  exact putEntry_ring d e .cq _ _ _ _

/-- The entry as host memory holds it, qword by qword. -/
theorem complete_entry {n a : Nat} (hn : n = sqCq e c.ring) (ha : a = devBase e .cq n + 32 * (d.ring .cq n).next)
    {k : Nat} (hk : k < 4) : (d.complete e c).hostNat (a + 8 * k) 8 =
      (c.qwords (d.sqr c.ring).head (d.ring .cq n).phase).getD k 0 % 2 ^ 64 := by
  subst hn ha
  have hk' : k < (c.qwords (d.sqr c.ring).head (d.ring .cq (sqCq e c.ring)).phase).length := hk
  rw [Device.hostNat, complete_host hc room, withPhase_bytes, rd_mwrites_qwords _ _ _ hk', List.getD_eq_getElem?_getD,
    List.getElem?_eq_getElem hk', Option.getD_some]

end Complete

end Sys2Proof.Machine
end

section
/-! PROOFS. Doorbells (R25, R26, R29): a submission ring's tail, a device-produced ring's head. -/

namespace Sys2Proof.Machine

theorem exec_submissionDoorbell (t ring w v : Nat) (vis : List (Nat × Byte)) (s : State) :
    exec (.submissionDoorbell t ring w v vis) s = s.act t (fun e d => effSubmission ring w v e (d.visible vis)) := rfl

theorem exec_completionDoorbell (t n w v : Nat) (s : State) :
    exec (.completionDoorbell t n w v) s = s.act t (effCompletionHead n w v) := rfl

theorem exec_tokenStreamDoorbell (t n w v : Nat) (s : State) :
    exec (.tokenStreamDoorbell t n w v) s = s.act t (effHead .ts n w (v % 2 ^ 16)) := rfl

theorem exec_eventDoorbell (t w v : Nat) (s : State) :
    exec (.eventDoorbell t w v) s = s.act t (effHead .eq 0 w (v % 2 ^ 16)) := rfl

/-! ## Tails -/

section Tails
variable {d : Device} (heard : d.heard = true) (alive : d.mode ≠ .halted) {ring : Nat}
  (on : (d.sqr ring).enabled = true) {e : Env} {v : Nat}
include heard alive on

theorem effSubmission_below (h : v % 65536 < sqSize e ring) :
    effSubmission ring 4 v e d = d.setSq ring { d.sqr ring with tail := v % 65536, stopped := false } := by
  simp [effSubmission, heard, alive, on, Nat.not_le.mpr h]

theorem effSubmission_beyond (h : sqSize e ring ≤ v % 65536) :
    effSubmission ring 4 v e d = d.setSq ring { d.sqr ring with bad := true } := by
  simp [effSubmission, heard, alive, on, h]

end Tails

/-! ## Heads -/

/-- A head within what is pending becomes the ring's last head; any other one sets bad doorbell alone (R25). -/
theorem moveHead_ring (e : Env) (d : Device) (k : RingKind) (n v : Nat) :
    if v < devSize e k n ∧
        (v + devSize e k n - (d.ring k n).lastHead) % devSize e k n ≤ (d.ring k n).used (devSize e k n)
    then ((d.moveHead e k n v).ring k n).lastHead = v ∧ ((d.moveHead e k n v).ring k n).bad = (d.ring k n).bad
    else (d.moveHead e k n v).ring k n = { d.ring k n with bad := true } := by
  unfold Device.moveHead
  split
  next fits => simp [Nat.not_le.mpr fits.1, Nat.not_lt.mpr fits.2]
  next outside =>
    have refused : v ≥ devSize e k n ∨
        (v + devSize e k n - (d.ring k n).lastHead) % devSize e k n > (d.ring k n).used (devSize e k n) := by omega
    simp [refused]

@[simp] theorem moveHead_held (e : Env) (d : Device) (k : RingKind) (n v : Nat) :
    ((d.moveHead e k n v).ring k n).held = (d.ring k n).held := by
  unfold Device.moveHead
  dsimp only
  split <;> rw [ring_setRing_same]

section Heads
variable {d : Device} (heard : d.heard = true) {n : Nat} {e : Env}
include heard

theorem effHead_of_enabled {k : RingKind} (on : (d.ring k n).enabled = true) (v : Nat) :
    effHead k n 4 v e d = d.moveHead e k n v := by
  simp [effHead, heard, on]

/-- A completion ring that holds nothing back has nothing to write once its head has moved (R28). -/
theorem effCompletionHead_of_none_held (on : (d.ring .cq n).enabled = true) (free : (d.ring .cq n).held = []) {v : Nat}
    (hv : v < 2 ^ 20) : effCompletionHead n 4 v e d = d.moveHead e .cq n v := by
  rw [effCompletionHead, Nat.mod_eq_of_lt hv, effHead_of_enabled heard on]
  simp [free, Device.flushHeld]

end Heads

/-- Settles O11: the tail below and beyond its ring's size, then the head of each kind of device-produced ring. -/
theorem doorbellsMoveTailsAndHeads : Obligations.DoorbellsMoveTailsAndHeads := by
  refine ⟨?_, ?_⟩
  · rintro t ring v vis s e rfl heard alive on
    rw [exec_submissionDoorbell, act_eq]
    exact ⟨fun h => by rw [effSubmission_below (d := s.dev.visible vis) heard alive on h]; rfl,
      fun h => by rw [effSubmission_beyond (d := s.dev.visible vis) heard alive on h]; rfl⟩
  · rintro t n v s e rfl heard
    refine ⟨fun on free hv => ?_, fun on hv => ?_, fun on hv => ?_⟩
    · rw [exec_completionDoorbell, act_eq, effCompletionHead_of_none_held heard on free hv]
      exact ⟨_, rfl, moveHead_host .., moveHead_ring ..⟩
    · rw [exec_tokenStreamDoorbell, act_eq, Nat.mod_eq_of_lt hv, effHead_of_enabled heard on]
      exact ⟨_, rfl, moveHead_host .., moveHead_ring ..⟩
    · rw [exec_eventDoorbell, act_eq, Nat.mod_eq_of_lt hv, effHead_of_enabled (k := .eq) heard on]
      exact ⟨_, rfl, moveHead_host .., moveHead_ring (s.env.tick t) s.dev .eq 0 v⟩

end Sys2Proof.Machine
end

section
/-! PROOFS. Descriptors (R29, R30, R447): the form checks in their order, what holds a descriptor back, NOP, and the
completion of a failed fetch. -/

namespace Sys2Proof.Machine

theorem exec_nop (t ring : Nat) (s : State) : exec (.nop t ring) s = s.act t (onDesc ring 0x00 effNop) := rfl

theorem exec_descriptorFetchFailed (t ring : Nat) (s : State) :
    exec (.descriptorFetchFailed t ring) s = s.act t (effFetchFailed ring) := rfl

/-! ## Form checks (R447) -/

/-- The checks that a descriptor of a ring meets, in their order. -/
theorem form_of_ring {f : Fetched} {n : Nat} (h : f.ring = some n) (e : Env) : f.form e =
    if opClass f.op = none then some 1
    else if sqPriv e n = false ∧ f.needsPriv = true then some 5
    else if sqPriv e n = false ∧ f.tenant ≠ sqTenant e n then some 6
    else if f.rsvdBad = true then some 2
    else if f.misaligned = true then some 4
    else if f.outOfRange = true then some 3 else none := by
  simp [Fetched.form, h]

/-! ## What holds a descriptor back (R30) -/

theorem takeFirst_sat {α : Type} {p : α → Bool} {l r : List α} {x : α} (h : takeFirst p l = some (x, r)) :
    p x = true := by
  induction l generalizing r with
  | nil => cases h
  | cons y l ih =>
    rw [takeFirst] at h
    split at h
    next hy => cases h; exact hy
    next =>
      split at h
      next hl => cases h; exact ih hl
      next => cases h

/-- An earlier descriptor of the ring in flight blocks a fenced one, and a started class M one blocks every one. -/
theorem mayStart_eq_false {d : Device} {f : Fetched} {y : InFlight} (hy : y ∈ d.inflight) (earlier : y.seq < f.seq)
    (blocks : f.fence = true ∨ (y.started = true ∧ opClass y.op = some .m)) : d.mayStart y.ring f = false := by
  refine List.all_eq_false.mpr ⟨y, hy, ?_⟩
  rcases blocks with fence | ⟨started, classM⟩
  · simp [Nat.ne_of_lt earlier, Nat.le_of_lt earlier, fence]
  · simp [Nat.ne_of_lt earlier, Nat.le_of_lt earlier, started, classM]

theorem take_none_of_not_mayStart {e : Env} {d : Device} {ring op : Nat} {f : Fetched} {rest : List Fetched}
    (next : takeFirst (fun g => g.ring == some ring) d.fetched = some (f, rest)) (h : d.mayStart ring f = false) :
    d.take e ring op = none := by
  simp [Device.take, next, h]

/-- Settles O14: the checks by the order of the form's definition, then what holds a descriptor back. -/
theorem formChecksAndFencesHoldBack : Obligations.FormChecksAndFencesHoldBack := by
  refine ⟨fun e f n ring => ?_, ?_⟩
  · rw [form_of_ring ring]
    refine ⟨fun unknown => by simp [unknown], fun known unpriv needs => by simp [known, unpriv, needs],
      fun known unpriv needs tenant => by simp [known, unpriv, needs, tenant], fun known allowed => ?_⟩
    have privilege : ¬ (sqPriv e n = false ∧ f.needsPriv = true) := by
      rcases allowed with priv | ⟨needs, _⟩
      · simp [priv]
      · simp [needs]
    have tenant : ¬ (sqPriv e n = false ∧ f.tenant ≠ sqTenant e n) := by
      rcases allowed with priv | ⟨_, own⟩
      · simp [priv]
      · simp [own]
    rw [if_neg known, if_neg privilege, if_neg tenant]
    exact ⟨fun rsvd => by simp [rsvd], fun rsvd mis => by simp [rsvd, mis], fun rsvd mis => by simp [rsvd, mis]⟩
  · rintro e d ring op f rest y hy rfl earlier next blocks
    exact take_none_of_not_mayStart next (mayStart_eq_false hy earlier blocks)

/-! ## The completion of a descriptor (R38) -/

/-- The completion of a descriptor of a ring without a request entry (Table 02.8). -/
def Fetched.completion (f : Fetched) (ring status detail result : Nat) : Completion :=
  ⟨f.seq, ring, f.cookie, none, status, 0, detail, result, 0, f.quiet⟩

theorem completeD_of_ring {f : Fetched} {ring : Nat} (h : f.ring = some ring) (d : Device) (e : Env) (st det res : Nat) :
    d.completeD e f st det res = d.complete e (f.completion ring st det res) := by
  have first : f.q.headD 0 = f.w 0 := by rw [Fetched.w]; cases f.q <;> rfl
  simp only [Device.completeD, h, first]
  rfl

@[simp] theorem completion_request (f : Fetched) (ring st det res : Nat) :
    (f.completion ring st det res).request = none := rfl

@[simp] theorem completion_ring (f : Fetched) (ring st det res : Nat) : (f.completion ring st det res).ring = ring := rfl

@[simp] theorem completion_seq (f : Fetched) (ring st det res : Nat) : (f.completion ring st det res).seq = f.seq := rfl

theorem cookie_lt (f : Fetched) : f.cookie < 2 ^ 32 := Nat.mod_lt _ (Nat.two_pow_pos _)

/-- DONE with no reason, detail or result leaves cookie, "no request entry", head, ring and phase. -/
theorem completion_done_qwords (f : Fetched) (ring head : Nat) (p : Bool) :
    (f.completion ring 0 0 0).qwords head p = [f.cookie + 2 ^ 52, head + ring * 2 ^ 16, 0, 2 ^ 63 * b2n p] := by
  simpa [Completion.qwords, Fetched.completion] using cookie_lt f

/-! ## NOP (Table 02.4) -/

theorem take_ring {e : Env} {d d' : Device} {ring op : Nat} {f : Fetched} (h : d.take e ring op = some (f, d')) :
    f.ring = some ring := by
  simp only [Device.take] at h
  split at h
  · cases h
  · split at h
    · cases h
    next first =>
      split at h
      · cases h; simpa using takeFirst_sat first
      · cases h

section Taken
variable {e : Env} {d d' : Device} {ring op : Nat} {f : Fetched} (h : d.take e ring op = some (f, d'))
include h

theorem take_ctxs : d'.ctxs = d.ctxs := by
  obtain ⟨_, _, rfl⟩ := take_frame h; rfl

theorem take_sqr (n : Nat) : d'.sqr n = d.sqr n := by
  obtain ⟨_, _, rfl⟩ := take_frame h; rfl

theorem take_cqRing (n : Nat) : d'.ring .cq n = d.ring .cq n := by
  obtain ⟨_, _, rfl⟩ := take_frame h; rfl

theorem take_hasRoom (e' : Env) (n : Nat) : d'.hasRoom e' n ↔ d.hasRoom e' n := by
  obtain ⟨_, _, rfl⟩ := take_frame h; exact Iff.rfl

end Taken

/-- The entry of a descriptor that completes DONE with nothing to say (Table 02.8). -/
theorem complete_done_entry {e : Env} {d : Device} {f : Fetched} {ring : Nat} (room : d.hasRoom e ring)
    (hring : ring < 256) (hhead : (d.sqr ring).head < 65536) {n a : Nat} (hn : n = sqCq e ring)
    (ha : a = devBase e .cq n + 32 * (d.ring .cq n).next) {u : Device}
    (hu : u = d.complete e (f.completion ring 0 0 0)) :
    bits (u.hostNat a 8) 31 0 = f.cookie ∧ bits (u.hostNat a 8) 63 32 = 2 ^ 20 ∧
      u.hostNat (a + 8) 8 = (d.sqr ring).head + ring * 2 ^ 16 ∧ u.hostNat (a + 16) 8 = 0 ∧
      bits (u.hostNat (a + 24) 8) 62 0 = 0 ∧ bit (u.hostNat (a + 24) 8) 63 = (d.ring .cq n).phase := by
  subst hu
  have cookie := cookie_lt f
  have q0 := complete_entry (completion_request f ring 0 0 0) room hn ha (k := 0) (by decide)
  have q1 := complete_entry (completion_request f ring 0 0 0) room hn ha (k := 1) (by decide)
  have q2 := complete_entry (completion_request f ring 0 0 0) room hn ha (k := 2) (by decide)
  have q3 := complete_entry (completion_request f ring 0 0 0) room hn ha (k := 3) (by decide)
  simp only [completion_done_qwords, completion_ring, List.getD_cons_zero, List.getD_cons_succ, Nat.mul_zero,
    Nat.add_zero] at q0 q1 q2 q3
  rw [q0, q1, q2, q3]
  refine ⟨?_, ?_, ?_, Nat.zero_mod _, ?_, ?_⟩
  · rw [bits_eq_div_mod]; omega
  · rw [bits_eq_div_mod]; omega
  · omega
  · cases (d.ring .cq n).phase <;> simp [bits, b2n]
  · cases (d.ring .cq n).phase <;> simp [bit, b2n]

/-- What NOP leaves when its ring takes its completion. -/
theorem exec_nop_written {t ring : Nat} {s : State} {f : Fetched} {d : Device}
    (taken : s.dev.take (s.env.tick t) ring 0 = some (f, d)) (room : s.dev.hasRoom (s.env.tick t) ring)
    (hring : ring < 256) (hhead : (s.dev.sqr ring).head < 65536) :
    ∃ u, exec (.nop t ring) s = .next u ∧ u.dev.reqs = s.dev.reqs ∧ u.dev.ctxs = s.dev.ctxs ∧ u.dev.lp = s.dev.lp ∧
      (∀ x ∈ u.dev.inflight, x.seq ≠ f.seq) ∧
      (∀ n a : Nat, n = sqCq (s.env.tick t) ring → a = devBase (s.env.tick t) .cq n + 32 * (s.dev.ring .cq n).next →
        bits (u.dev.hostNat a 8) 31 0 = f.cookie ∧ bits (u.dev.hostNat a 8) 63 32 = 2 ^ 20 ∧
        u.dev.hostNat (a + 8) 8 = (s.dev.sqr ring).head + ring * 2 ^ 16 ∧ u.dev.hostNat (a + 16) 8 = 0 ∧
        bits (u.dev.hostNat (a + 24) 8) 62 0 = 0 ∧
        bit (u.dev.hostNat (a + 24) 8) 63 = (s.dev.ring .cq n).phase) := by
  have plain := completion_request f ring 0 0 0
  rw [exec_nop, act_onDesc_of_take taken, effNop, completeD_of_ring (take_ring taken)]
  rw [← take_hasRoom taken] at room
  rw [← take_sqr taken] at hhead
  refine ⟨_, rfl, ?_, ?_, ?_, fun x hx => ?_, fun n a hn ha => ?_⟩
  · rw [complete_reqs _ _ _ plain, take_reqs taken]
  · rw [complete_ctxs _ _ _ plain, take_ctxs taken]
  · rw [complete_lp _ _ _ plain, take_lp taken]
  · rw [complete_inflight plain room, List.mem_filter] at hx
    simpa using hx.2
  · rw [← take_cqRing taken] at ha
    rw [← take_sqr taken, ← take_cqRing taken]
    exact complete_done_entry room hring hhead hn ha rfl

/-- Settles O15: NOP by whether its ring has one that may start, then a completion held and a completion written. -/
theorem nopCompletesDone : Obligations.NopCompletesDone := by
  refine ⟨?_, fun e d c none => ⟨fun full => ?_, fun room => ?_⟩⟩
  · rintro t ring s e rfl
    refine ⟨fun f d taken => ⟨?_, exec_nop_written taken⟩, fun idle => ?_⟩
    · rw [exec_nop, act_onDesc_of_take taken]; rfl
    · rw [exec_nop, act_eq, onDesc_none effNop idle]
  · rw [complete_of_no_room full, ring_setRing_same]
    exact ⟨setRing_host .., setRing_inflight .., rfl, rfl⟩
  · obtain ⟨pend, moved⟩ := complete_ring none room
    rw [complete_inflight none room, moved]
    refine ⟨room.1, fun x hx => by simpa using (List.mem_filter.mp hx).2, complete_host none room, ?_⟩
    simp [DevRing.advance]

/-! ## A failed fetch (R29) -/

/-- The completion of a failed fetch from a ring. -/
def failedFetch (seq ring : Nat) : Completion := ⟨seq, ring, 0, none, 0x20, 0, 0x000B, 0, 0, false⟩

/-- The device as a failed fetch from a ring leaves it, before its completion. -/
def Device.fetchStopped (d : Device) (ring : Nat) : Device :=
  { d.setSq ring { d.sqr ring with stopped := true, bad := true } with nextSeq := d.nextSeq + 1 }

theorem effFetchFailed_of_canFetch {e : Env} {d : Device} {ring : Nat} (can : d.canFetch e ring = true) :
    effFetchFailed ring e d = (d.fetchStopped ring).complete e (failedFetch d.nextSeq ring) := by
  simp [effFetchFailed, can, failedFetch, Device.fetchStopped]

theorem fetchStopped_sqr (d : Device) (ring : Nat) :
    (d.fetchStopped ring).sqr ring = { d.sqr ring with stopped := true, bad := true } :=
  tget_tset_same ..

/-- Bits 63:32 of the entry's second qword: the detail, and what ring and head carry into it past their own fields. -/
theorem failedFetch_detail {e : Env} {d : Device} {ring : Nat} (can : d.canFetch e ring = true)
    (room : d.hasRoom e ring) {n a : Nat} (hn : n = sqCq e ring) (ha : a = devBase e .cq n + 32 * (d.ring .cq n).next) :
    bits ((effFetchFailed ring e d).hostNat (a + 8) 8) 63 32 =
      (0x000B + ((d.sqr ring).head + ring * 2 ^ 16) / 2 ^ 32) % 2 ^ 32 := by
  have q1 := complete_entry (d := d.fetchStopped ring) (c := failedFetch d.nextSeq ring) rfl room hn ha (k := 1)
    (by decide)
  have head : ((d.fetchStopped ring).sqr ring).head = (d.sqr ring).head := by rw [fetchStopped_sqr]
  simp only [Completion.qwords, failedFetch, List.getD_cons_zero, List.getD_cons_succ, head] at q1
  rw [effFetchFailed_of_canFetch can, failedFetch, q1, bits_eq_div_mod]
  omega

/-- A head within its field, of one of the 256 rings, carries nothing into the detail (R29). -/
theorem failedFetch_detail_of_inRange {e : Env} {d : Device} {ring : Nat} (can : d.canFetch e ring = true)
    (room : d.hasRoom e ring) (hring : ring < 256) (hhead : (d.sqr ring).head < 65536) {n a : Nat}
    (hn : n = sqCq e ring) (ha : a = devBase e .cq n + 32 * (d.ring .cq n).next) :
    bits ((effFetchFailed ring e d).hostNat (a + 8) 8) 63 32 = 0x000B := by
  rw [failedFetch_detail can room hn ha]
  omega

/-- Set-up closed; ring 0 and its completion ring enabled, the head at 2^32, past the 16 bits of its field. -/
def farHead : State := ⟨{ closed := true },
  { sq := [(0, { enabled := true, head := 2 ^ 32 })], cq := [(0, { enabled := true })] }, []⟩

/-- Refutes O13: the statement does not bound ring and head, and what passes their fields in the entry's second qword
(Table 02.8) carries into the detail: from ring 0 with its head at 2^32 a failed fetch completes with detail 0x000C.
With both in range the clause on the detail holds: `failedFetch_detail_of_inRange`. -/
theorem not_fetchTakesDescriptor : ¬ Obligations.FetchTakesDescriptor := by
  rintro ⟨-, failed⟩
  have can : farHead.dev.canFetch (farHead.env.tick 0) 0 = true := by decide
  have room : farHead.dev.hasRoom (farHead.env.tick 0) 0 := (hasRoom_iff ..).mpr (by decide)
  obtain ⟨-, u, run, -, -, -, -, -, entry, -⟩ := failed 0 0 farHead _ rfl can
  obtain ⟨-, -, -, detail⟩ := entry room _ _ rfl rfl
  rw [exec_descriptorFetchFailed, act_eq] at run
  cases run
  rw [failedFetch_detail can room rfl rfl] at detail
  exact absurd detail (by decide)

end Sys2Proof.Machine
end

section
/-! PROOFS. RESYNC (R47, R48, R390, R392, R429): its doorbell, its command, the boundary that answers it. -/

namespace Sys2Proof.Machine

theorem exec_resyncDoorbell (t w a : Nat) (vis : List (Nat × Byte)) (s : State) :
    exec (.resyncDoorbell t w a vis) s = s.act t (fun e d => effResyncDoorbell w a e (d.visible vis)) := rfl

theorem exec_resync (t ring : Nat) (s : State) : exec (.resync t ring) s = s.act t (fun e d =>
    if d.mode == .recovery && !d.hif.linkUp then d else onDesc ring 0x3F effResync e d) := rfl

/-! ## The doorbell -/

/-- The descriptor that a resync doorbell names. -/
def Device.resyncAt (d : Device) (a : Nat) : Fetched :=
  ⟨none, d.nextSeq, (upto 8).map (fun i => d.hostNat (a + 8 * i) 8)⟩

theorem fetchResync_eq (e : Env) (d : Device) (a : Nat) : d.fetchResync e a =
    if ((d.resyncAt a).op == 0x3F && ((d.resyncAt a).form e).isNone) = true then
      { d with resync := d.resync ++ [d.resyncAt a] }
    else d.hostWrite ((d.resyncAt a).w 2) (toBytes 8 (bits ((d.resyncAt a).w 3) 31 0 + 0x20 * 2 ^ 32)) := rfl

theorem fetchResync_valid {e : Env} {d : Device} {a : Nat} (op : (d.resyncAt a).op = 0x3F)
    (good : (d.resyncAt a).form e = none) : d.fetchResync e a = { d with resync := d.resync ++ [d.resyncAt a] } := by
  rw [fetchResync_eq, if_pos (by simp only [op, good, beq_self_eq_true, Option.isNone_none, Bool.and_self])]

theorem fetchResync_invalid {e : Env} {d : Device} {a : Nat}
    (bad : (d.resyncAt a).op ≠ 0x3F ∨ (d.resyncAt a).form e ≠ none) : d.fetchResync e a =
      d.hostWrite ((d.resyncAt a).w 2) (toBytes 8 (bits ((d.resyncAt a).w 3) 31 0 + 0x20 * 2 ^ 32)) := by
  have invalid : ¬ ((d.resyncAt a).op == 0x3F && ((d.resyncAt a).form e).isNone) = true := by
    rw [Bool.and_eq_true, beq_iff_eq, Option.isNone_iff_eq_none]
    exact fun ⟨op, good⟩ => bad.elim (· op) (· good)
  rw [fetchResync_eq, if_neg invalid]

theorem effResyncDoorbell_ignored {e : Env} {d : Device} {w a : Nat}
    (h : w ≠ 8 ∨ a % 64 ≠ 0 ∨ e.closed = false ∨ d.heard = false ∨ d.mode ≠ .running) :
    effResyncDoorbell w a e d = d := by
  rcases h with h | h | h | h | h <;> simp [effResyncDoorbell, h]

section Served
variable {e : Env} {d : Device} {a : Nat} (closed : e.closed = true) (heard : d.heard = true) (runs : d.mode = .running)
  (aligned : a % 64 = 0)
include closed heard runs aligned

theorem effResyncDoorbell_idle (idle : d.resync = []) : effResyncDoorbell 8 a e d = d.fetchResync e a := by
  simp [effResyncDoorbell, closed, heard, runs, aligned, idle]

theorem effResyncDoorbell_busy (busy : d.resync ≠ []) :
    effResyncDoorbell 8 a e d = { d with resyncDb := some a } := by
  simp [effResyncDoorbell, closed, heard, runs, aligned, busy]

end Served

/-! ## The command -/

/-- Where it is not kept back by recovery mode's link, RESYNC runs on the descriptor taken. -/
theorem exec_resync_of_take {t ring : Nat} {s : State} {f : Fetched} {d : Device}
    (taken : s.dev.take (s.env.tick t) ring 0x3F = some (f, d)) (link : d.mode = .recovery → d.hif.linkUp = true) :
    exec (.resync t ring) s = .next { s with env := s.env.tick t, dev := effResync (s.env.tick t) d f } := by
  have not_kept_back : ¬ (s.dev.mode == .recovery && !s.dev.hif.linkUp) = true := by
    obtain ⟨_, _, rfl⟩ := take_frame taken
    simpa using link
  rw [exec_resync, act_eq, if_neg not_kept_back, onDesc_some effResync taken]

theorem exec_resync_idle {t ring : Nat} {s : State}
    (h : s.dev.take (s.env.tick t) ring 0x3F = none ∨ (s.dev.mode = .recovery ∧ s.dev.hif.linkUp = false)) :
    exec (.resync t ring) s = .next { s with env := s.env.tick t } := by
  rw [exec_resync, act_eq]
  rcases h with none_taken | ⟨rom, down⟩
  · rw [onDesc_none effResync none_taken, ite_self]
  · simp [rom, down]

/-! ## The boundary -/

/-- An answer ends in its completion, the RESYNCs that wait and the doorbell kept as they were. -/
theorem writeSummary_eq (e : Env) (d : Device) (f : Fetched) : ∃ (u : Device) (status : Nat),
    d.writeSummary e f = u.completeD e f status 0 summaryLen ∧ u.resync = d.resync ∧ u.resyncDb = d.resyncDb := by
  unfold Device.writeSummary Device.draw
  dsimp only
  exact ⟨_, _, rfl, hostWrite_resync .., hostWrite_resyncDb ..⟩

@[simp] theorem writeSummary_resync (e : Env) (d : Device) (f : Fetched) : (d.writeSummary e f).resync = d.resync := by
  obtain ⟨u, status, h, stands, -⟩ := writeSummary_eq e d f
  rw [h, completeD_resync, stands]

@[simp] theorem writeSummary_resyncDb (e : Env) (d : Device) (f : Fetched) :
    (d.writeSummary e f).resyncDb = d.resyncDb := by
  obtain ⟨u, status, h, -, stands⟩ := writeSummary_eq e d f
  rw [h, completeD_resyncDb, stands]

/-- The answers of a boundary, in order. -/
def Device.summaries (e : Env) (d : Device) (fs : List Fetched) : Device := fs.foldl (fun d f => d.writeSummary e f) d

theorem summaries_waiting (e : Env) (d : Device) (fs : List Fetched) :
    (d.summaries e fs).resync = d.resync ∧ (d.summaries e fs).resyncDb = d.resyncDb :=
  List.foldlRecOn (motive := fun u : Device => u.resync = d.resync ∧ u.resyncDb = d.resyncDb) fs _ ⟨rfl, rfl⟩
    fun _ h _ _ => by simpa using h

theorem snapshot_down {d : Device} (h : d.hif.linkUp = false) (e : Env) : d.snapshot e = d := by
  simp [Device.snapshot, h]

section Up
variable {e : Env} {d : Device} (up : d.hif.linkUp = true)
include up

theorem snapshot_no_doorbell (h : d.resyncDb = none) :
    d.snapshot e = ({ d with resync := [] } : Device).summaries e d.resync := by
  have none_kept := (summaries_waiting e { d with resync := [] } d.resync).2.trans h
  rw [Device.summaries] at none_kept
  simp [Device.snapshot, Device.summaries, up, none_kept]

theorem snapshot_doorbell (h : d.resync = []) {a : Nat} (kept : d.resyncDb = some a) :
    d.snapshot e = ({ d with resyncDb := none } : Device).fetchResync e a := by
  simp only [Device.snapshot, up, h, List.foldl_nil, kept]
  simp [← h]

end Up

/-- A device that runs answers with the summary, its header last, and the completion; where a migration has failed, with
status 0x63 (R392). -/
theorem writeSummary_running {d : Device} (runs : d.mode = .running) (e : Env) (f : Fetched) {st : Nat}
    (hst : st = if d.hearth.resyncMigration then 0x63 else 0) : d.writeSummary e f =
      ((({ d with free := d.free + 1, hearth := { d.hearth with resyncMigration := false } } : Device).hostWrite
        (f.w 2 + 8) (({ d with free := d.free + 1 } : Device).summary e d.free)).hostWrite (f.w 2)
        (toBytes 8 (bits (f.w 3) 31 0 + st * 2 ^ 32))).completeD e f st 0 summaryLen := by
  subst hst
  simp [Device.writeSummary, Device.draw, runs]

/-- Settles O12: the doorbell, the command, the command kept back, the boundary. -/
theorem resyncIsFetchedAndAnswered : Obligations.ResyncIsFetchedAndAnswered := by
  refine ⟨?_, ?_, ?_, ?_⟩
  · rintro t a w vis s e d rfl rfl
    rw [exec_resyncDoorbell, act_eq]
    refine ⟨?_, fun ignored => ?_⟩
    · rintro closed heard runs rfl aligned
      refine ⟨?_, fun busy => ?_⟩
      · intro f hf idle
        obtain rfl : f = (s.dev.visible vis).resyncAt a := hf
        rw [effResyncDoorbell_idle (e := s.env.tick t) (d := s.dev.visible vis) closed heard runs aligned idle]
        refine ⟨fun op good => ?_, fun bad => ?_⟩
        · rw [fetchResync_valid op good, visible_resync, idle, List.nil_append]
        · rw [fetchResync_invalid bad]
      · rw [effResyncDoorbell_busy (e := s.env.tick t) (d := s.dev.visible vis) closed heard runs aligned busy]
    · rw [effResyncDoorbell_ignored (e := s.env.tick t) (d := s.dev.visible vis) ignored]
  · rintro t ring s e f d rfl taken
    refine ⟨fun serves => ?_, fun rom link => ?_⟩
    · rw [exec_resync_of_take taken fun rom => absurd rom serves]
      simp [effResync, serves]
    · rw [exec_resync_of_take taken fun _ => link]
      simp [effResync, rom]
  · rintro t ring s e rfl idle
    exact exec_resync_idle idle
  · refine fun e d => ⟨fun down => snapshot_down down e, fun up free => ?_,
      fun up free runs f d1 st one hst hd1 => ?_, fun up idle a kept => snapshot_doorbell up idle kept⟩
    · rw [snapshot_no_doorbell up free]
      exact (summaries_waiting ..).1
    · rw [snapshot_no_doorbell up free, one, hd1]
      exact writeSummary_running (d := { d with resync := [] }) runs e f hst

end Sys2Proof.Machine
end

section
/-! PROOFS. Standing and blocks of an ADMITTED request (R37, R56–R58), the Mill's quanta (R302). -/

namespace Sys2Proof.Machine

theorem exec_directoryRecordRead (t i : Nat) (s : State) :
    exec (.directoryRecordRead t i) s = s.act t (effDirectoryRead i) := rfl

theorem exec_inputReadFailed (t i : Nat) (s : State) :
    exec (.inputReadFailed t i) s = s.act t (effInputReadFailed i) := rfl

theorem exec_millIntakeQuantum (t : Nat) (s : State) : exec (.millIntakeQuantum t) s = s.act t effMillQuantum := rfl

/-! ## A request's state, and its context -/

/-- The wait that ends is charged to its tenant; of the request its entry into the present state moves on (R216). -/
theorem charge_eq (e : Env) (d : Device) (i : Nat) : ∃ u : Device, u.reqs = d.reqs ∧
    d.charge e i = u.setReq i { u.req i with since := e.now } := by
  refine ⟨_, ?_, rfl⟩
  split
  · exact modTenant_reqs ..
  · split
    · exact modTenant_reqs ..
    · rfl

theorem req_charge_same (e : Env) (d : Device) (i : Nat) : (d.charge e i).req i = { d.req i with since := e.now } := by
  obtain ⟨u, stands, h⟩ := charge_eq e d i
  rw [h, req_setReq_same, Device.req, stands, Device.req]

theorem req_setState_same (e : Env) (d : Device) (i : Nat) (st : ReqState) : ∃ since last,
    (d.setState e i st).req i = { d.req i with state := st, since := since, lastToken := last } := by
  rw [Device.setState, modReq_eq, req_setReq_same, req_charge_same]
  exact ⟨_, _, rfl⟩

/-- Binding a request to a context changes of the request its context and how that stood. -/
theorem req_bindCtx_same (d : Device) (i c : Nat) : ∃ prior,
    (d.bindCtx i c).req i = { d.req i with ctxValid := true, context := c, prior := prior } := by
  simp only [Device.bindCtx, Device.bindLive, modReq_eq, modCtx_eq, setCtx_req, req_setReq_same]
  exact ⟨_, rfl⟩

@[simp] theorem bindCtx_host (d : Device) (i c : Nat) : (d.bindCtx i c).host = d.host := by
  simp [Device.bindCtx, Device.bindLive]

@[simp] theorem bindCtx_lp (d : Device) (i c : Nat) : (d.bindCtx i c).lp = d.lp := by
  simp [Device.bindCtx, Device.bindLive]

/-! ## The reads of ADMITTED (R37, R56) -/

/-- The request with its input read: bound, its text to be taken in or its words staged, its sampling and seed set. -/
def Request.read (r : Request) (mill : List Byte) (parts : List Part) (sm : Sampling) (seed : Nat) : Request :=
  { r with
    bound := true
    parts := if partsText parts > 0 then parts else []
    textLeft := partsText parts
    staged := (if partsText parts > 0 then ([], 0) else stageParts mill parts).1
    sampling := { sm with seed := seed }
    stopSlot := !sm.stops.isEmpty }

/-- The device with a request's input read: one with text goes to the Mill. -/
def Device.inputRead (e : Env) (d : Device) (i : Nat) (r : Request) (text : Bool) : Device :=
  if text then (d.setReq i r).setState e i .intake else d.setReq i r

theorem inputRead_input (e : Env) (d : Device) (i : Nat) (r : Request) (text : Bool) {u : Device}
    (hu : u = d.inputRead e i r text) : (u.req i).bound = r.bound ∧
      (u.req i).state = (if text then .intake else r.state) ∧ (u.req i).textLeft = r.textLeft ∧
      (u.req i).staged = r.staged ∧ u.host = d.host ∧ u.lp = d.lp := by
  subst hu
  cases text with
  | false =>
    rw [Device.inputRead, if_neg (by decide), req_setReq_same]
    exact ⟨rfl, rfl, rfl, rfl, rfl, rfl⟩
  | true =>
    obtain ⟨since, last, h⟩ := req_setState_same e (d.setReq i r) i .intake
    rw [Device.inputRead, if_pos rfl, h, req_setReq_same, setState_host, setState_lp]
    exact ⟨rfl, rfl, rfl, rfl, rfl, rfl⟩

/-- A bound request's input is as it was read: its context alone is new. -/
theorem bound_input {u w : Device} {i : Nat} (h : w = u ∨ ∃ c, w = u.bindCtx i c) :
    (w.req i).bound = (u.req i).bound ∧ (w.req i).state = (u.req i).state ∧ (w.req i).textLeft = (u.req i).textLeft ∧
      (w.req i).staged = (u.req i).staged ∧ w.host = u.host ∧ w.lp = u.lp := by
  rcases h with rfl | ⟨c, rfl⟩
  · exact ⟨rfl, rfl, rfl, rfl, rfl, rfl⟩
  · obtain ⟨prior, h⟩ := req_bindCtx_same u i c
    rw [h, bindCtx_host, bindCtx_lp]
    exact ⟨rfl, rfl, rfl, rfl, rfl, rfl⟩

/-- The seed is the block's own or a free value (R252, log 17). -/
theorem seed_draw (d : Device) (given : Bool) (own : Nat) : ∃ (seed free : Nat),
    (if given = true then (own, d) else (Config.randomSeed d.draw.1 % 2 ^ 64, d.draw.2)) =
      (seed, ({ d with free := free } : Device)) := by
  cases given <;> exact ⟨_, _, rfl⟩

section Reads
variable {e : Env} {d : Device} {i : Nat} (serves : d.serving e = true) (admitted : (d.req i).state = .admitted)
  (unbound : (d.req i).bound = false) (free : d.mustWait e (d.req i) = false)
include serves admitted unbound free

/-- A check of the log length that fails (R37). -/
theorem effDirectoryRead_wrong_length (check : bit ((d.req i).desc.getD 7 0) 23 = true)
    (session : (d.req i).session ≠ 0)
    (differs : bits ((d.req i).desc.getD 7 0) 22 0 ≠ d.standing e (d.req i).session) :
    effDirectoryRead i e d = d.refuseReq e i 0x20 9 := by
  have wrong : (bit ((d.req i).desc.getD 7 0) 23 &&
      bits ((d.req i).desc.getD 7 0) 22 0 != d.standing e (d.req i).session) = true := by
    rw [check]
    simpa using differs
  simp only [effDirectoryRead]
  rw [if_neg (by simp [serves, admitted, unbound, free]), if_neg (by simp [session]), if_pos wrong]

section Sound
variable (unchecked : bit ((d.req i).desc.getD 7 0) 23 = false) {rs : RecipeSlot} {sm : Sampling}
  (recipe : d.recipe (d.req i).recipe = some rs) {ss : List Span}
  (hss : ss = d.spans ((d.req i).desc.getD 4 0) (bits ((d.req i).desc.getD 5 0) 15 0))
  (sound : d.inputFault rs.mill ss = none)
  (sampling : d.samplingAt ((d.req i).desc.getD 6 0) (d.info (d.req i).recipe).vocab = .inr sm) (stops : sm.stops = [])
include unchecked recipe hss sound sampling stops

/-- Sound blocks without stop strings: the input is read, and a session's context is bound where it has one. -/
theorem effDirectoryRead_sound : ∃ (free seed : Nat) (u : Device),
    u = ({ d with free := free } : Device).inputRead e i ((d.req i).read rs.mill (d.inputParts ss) sm seed)
      (ss.any (fun x => decide (x.type ≤ 1))) ∧
    (effDirectoryRead i e d = u ∨ ∃ c, effDirectoryRead i e d = u.bindCtx i c) := by
  subst hss
  simp only [effDirectoryRead]
  rw [if_neg (by simp [serves, admitted, unbound, free])]
  simp only [unchecked, recipe, sound, sampling, Bool.false_and, Bool.false_eq_true, if_false]
  rw [if_neg (by simp [stops])]
  obtain ⟨seed, drawn, h⟩ := seed_draw d (d.seedGiven ((d.req i).desc.getD 6 0)) sm.seed
  rw [h]
  refine ⟨drawn, seed, _, rfl, ?_⟩
  split
  · exact .inr ⟨_, rfl⟩
  · exact .inl rfl

/-- What the request and the memories are then. -/
theorem effDirectoryRead_binds {u : Device} (hu : u = effDirectoryRead i e d) : (u.req i).bound = true ∧
    (u.req i).state = (if ss.any (fun x => decide (x.type ≤ 1)) then .intake else .admitted) ∧
    (u.req i).textLeft = partsText (d.inputParts ss) ∧
    (u.req i).staged = (if partsText (d.inputParts ss) = 0 then (stageParts rs.mill (d.inputParts ss)).1 else []) ∧
    u.host = d.host ∧ u.lp = d.lp := by
  obtain ⟨drawn, seed, v, hv, result⟩ :=
    effDirectoryRead_sound serves admitted unbound free unchecked recipe hss sound sampling stops
  obtain ⟨bound, state, textLeft, staged, host, lp⟩ := bound_input (hu ▸ result)
  obtain ⟨bound', state', textLeft', staged', host', lp'⟩ := inputRead_input _ _ _ _ _ hv
  refine ⟨bound.trans bound', state.trans (state'.trans ?_), textLeft.trans textLeft', staged.trans (staged'.trans ?_),
    host.trans host', lp.trans lp'⟩
  · simp only [Request.read, admitted]
  · simp only [Request.read, Nat.pos_iff_ne_zero, ne_eq, ite_not]
    split <;> rfl

end Sound

end Reads

/-! ## A refusal after admission (R58) -/

theorem logFreeBlock_sameButHomes (d : Device) (a : Nat) : d.sameButHomes (d.logFreeBlock a) := by
  unfold Device.logFreeBlock
  split
  · exact .refl d
  · exact ⟨_, _, _, _, _, _, _, rfl⟩

theorem logRelease_sameButHomes (d : Device) (base : Nat) : d.sameButHomes (d.logRelease base) := by
  unfold Device.logRelease
  split
  · exact .refl d
  · exact (sameButHomes_foldl logFreeBlock_sameButHomes d _).trans (logFreeBlock_sameButHomes ..)

@[simp] theorem demoted_reqs (d : Device) (e : Env) (c : Nat) : (d.demoted e c).reqs = d.reqs := by
  unfold Device.demoted
  dsimp only
  rw [Device.vacate, setCtx_reqs]
  split
  · exact (logRelease_sameButHomes ..).reqs
  · split
    · rfl
    · obtain ⟨_, _, h⟩ := dirWrite_frame d e ((d.ctx c).record (d.dirRead e (d.ctx c).session))
      rw [h]

@[simp] theorem dropLive_reqs (d : Device) (e : Env) (i : Nat) : (d.dropLive e i).reqs = d.reqs := by
  unfold Device.dropLive
  dsimp only
  split
  · rfl
  · split
    · simp
    · split <;> simp

@[simp] theorem unbind_reqs (d : Device) (i : Nat) : (d.unbind i).reqs = d.reqs := by
  unfold Device.unbind
  dsimp only
  split <;> rfl

/-- The entry that a request leaves (R51, Table 03.1). -/
def Request.freed (r : Request) : Request :=
  { r with state := .free, stopSlot := false, parts := [], staged := [], kept := [], slot := false, out := {} }

theorem req_freeReq_same (d : Device) (e : Env) (i : Nat) : (d.freeReq e i).req i = (d.req i).freed := by
  have stands : (d.dropLive e i).req i = d.req i := by rw [Device.req, dropLive_reqs, Device.req]
  calc (d.freeReq e i).req i = ((d.dropLive e i).setReq i ((d.dropLive e i).req i).freed).req i := rfl
    _ = (d.req i).freed := by rw [req_setReq_same, stands]

theorem req_refuseReq_same (d : Device) (e : Env) (i st det : Nat) : (d.refuseReq e i st det).req i = (d.req i).freed := by
  have stands : (d.unbind i).req i = d.req i := by rw [Device.req, unbind_reqs, Device.req]
  rw [Device.refuseReq, Device.req, complete_reqs _ _ _ rfl]
  exact (req_freeReq_same ..).trans (congrArg _ stands)

theorem effInputReadFailed_refuses {e : Env} {d : Device} {i : Nat} (serves : d.serving e = true)
    (reads : (d.req i).state = .admitted ∨ (d.req i).state = .intake) :
    effInputReadFailed i e d = d.refuseReq e i 0x20 0x000A := by
  rcases reads with h | h <;> simp [effInputReadFailed, serves, h]

/-! ## The Mill (R302) -/

theorem stageText_eq (d : Device) (i : Nat) : ∃ n, d.stageText i = (d.noteReplaced n).setReq i { d.req i with
    parts := [], staged := (stageParts (d.millOf (d.req i).recipe) (d.req i).parts).1 } :=
  ⟨(stageParts (d.millOf (d.req i).recipe) (d.req i).parts).2, rfl⟩

/-- The device once the Mill has taken in a quantum of a request's text. -/
def Device.takenIn (d : Device) (order i : Nat) : Device :=
  ({ d with mill := { d.mill with lastServed := order } } : Device).setReq i
    { d.req i with textLeft := (d.req i).textLeft - 2 ^ 20 }

theorem effMillQuantum_request {e : Env} {d : Device} (serves : d.serving e = true) {order i : Nat}
    (next : nextServed d.mill.lastServed d.millWaiters = some (order, true, i)) : effMillQuantum e d =
      if (d.req i).textLeft ≤ 2 ^ 20 then (d.takenIn order i).stageText i else d.takenIn order i := by
  have left : ((d.takenIn order i).req i).textLeft = (d.req i).textLeft - 2 ^ 20 :=
    by rw [Device.takenIn, req_setReq_same]
  have done : ((d.takenIn order i).req i).textLeft = 0 ↔ (d.req i).textLeft ≤ 2 ^ 20 := by
    rw [left, Nat.sub_eq_zero_iff_le]
  simp only [← done]
  simp only [effMillQuantum, serves, next]
  rfl

/-- A quantum that ends a text leaves it tokenised. -/
theorem takenIn_stageText (d : Device) (order i : Nat) : ∃ n, (d.takenIn order i).stageText i =
    ((d.takenIn order i).noteReplaced n).setReq i { d.req i with
      textLeft := (d.req i).textLeft - 2 ^ 20, parts := []
      staged := (stageParts (d.millOf (d.req i).recipe) (d.req i).parts).1 } := by
  obtain ⟨n, h⟩ := stageText_eq (d.takenIn order i) i
  have taken : (d.takenIn order i).req i = { d.req i with textLeft := (d.req i).textLeft - 2 ^ 20 } := req_setReq_same ..
  have tables (x : Nat) : (d.takenIn order i).millOf x = d.millOf x := rfl
  rw [taken, tables] at h
  exact ⟨n, h⟩

/-- Settles O17: the reads of ADMITTED by whether the check of the length fails, a failed read, a quantum by whether it
ends the text. -/
theorem standingBindsRequest : Obligations.StandingBindsRequest := by
  refine ⟨?_, ?_, ?_⟩
  · rintro t i s e r rfl rfl serves admitted unbound free
    rw [exec_directoryRecordRead, act_eq]
    refine ⟨fun check session differs => ?_, fun unchecked rs sm recipe sound sampling stops => ?_⟩
    · rw [effDirectoryRead_wrong_length serves admitted unbound free check session differs]
    · obtain ⟨bound, state, textLeft, staged, host, lp⟩ :=
        effDirectoryRead_binds serves admitted unbound free unchecked recipe rfl sound sampling stops rfl
      exact ⟨_, rfl, bound, ⟨state, textLeft, staged⟩, host, lp⟩
  · rintro t i s e rfl serves reads
    rw [exec_inputReadFailed, act_eq, effInputReadFailed_refuses serves reads]
    exact ⟨_, rfl, rfl, by rw [req_refuseReq_same]; rfl, by rw [req_refuseReq_same]; rfl⟩
  · rintro t i order s e rfl serves next
    rw [exec_millIntakeQuantum, act_eq, effMillQuantum_request serves next]
    have others (j : Nat) (other : j ≠ i) : (s.dev.takenIn order i).req j = s.dev.req j := by
      rw [Device.takenIn, req_setReq, if_neg other]; rfl
    refine ⟨_, rfl, ?_⟩
    split
    next ends =>
      obtain ⟨n, h⟩ := takenIn_stageText s.dev order i
      rw [h, req_setReq_same]
      exact ⟨rfl, rfl, fun _ => ⟨rfl, rfl⟩, fun j other => by rw [req_setReq, if_neg other]; exact others j other⟩
    next goes_on =>
      exact ⟨rfl, by rw [Device.takenIn, req_setReq_same], fun ends => absurd ends goes_on, others⟩

end Sys2Proof.Machine
end

section
/-! PROOFS. GENERATE (R51, R53, R55): the admission checks of Table 03.4, the entry that an admitted request takes. -/

namespace Sys2Proof.Machine

theorem exec_generate (t ring : Nat) (s : State) :
    exec (.generate t ring) s = s.act t (onDesc ring 0x01 effGenerate) := rfl

theorem take_host {e : Env} {d d' : Device} {ring op : Nat} {f : Fetched} (h : d.take e ring op = some (f, d')) :
    d'.host = d.host := by
  obtain ⟨_, _, rfl⟩ := take_frame h; rfl

/-! ## The admission checks (Table 03.4) -/

theorem admissionFault_of_text {d : Device} {f : Fetched}
    (long : textOver (d.spans (f.w 4) (bits (f.w 5) 15 0)) = true) : d.admissionFault f = some (0x20, 3) := by
  simp only [Device.admissionFault, long, if_true]

section Checks
variable {d : Device} {f : Fetched} (text : textOver (d.spans (f.w 4) (bits (f.w 5) 15 0)) = false)
include text

theorem admissionFault_of_recipe {x : Nat × Nat} (fault : d.recipeFault f.recipe = some x) :
    d.admissionFault f = some x := by
  simp [Device.admissionFault, text, fault]

variable (recipe : d.recipeFault f.recipe = none)
include recipe

theorem admissionFault_of_adapter {k : Nat} (fault : d.adapterFault f.recipe f.adapter f.version = .inl k) :
    d.admissionFault f = some (0x23, k) := by
  simp [Device.admissionFault, text, recipe, fault]

variable (adapter : ∃ v, d.adapterFault f.recipe f.adapter f.version = .inr v)
include adapter

theorem admissionFault_of_epoch {k : Nat} (fault : d.epochFault (bits (f.w 3) 15 0) = some k) :
    d.admissionFault f = some (0x22, k) := by
  obtain ⟨v, adapter⟩ := adapter
  simp [Device.admissionFault, text, recipe, adapter, fault]

/-- The checks after the epoch's, in their order: tenant, session, handles, entries. -/
theorem admissionFault_after_epoch (epoch : d.epochFault (bits (f.w 3) 15 0) = none) : d.admissionFault f =
    if (d.tenant f.tenant).held then some (0x13, 0)
    else if d.sessionBusy f.session then some (0x20, 7)
    else if d.handleFault f then some (0x20, 0x000C)
    else if d.fresh ≥ Config.requestEntries && d.freed.isEmpty then some (0x10, 0) else none := by
  obtain ⟨v, adapter⟩ := adapter
  simp only [Device.admissionFault, text, recipe, adapter, epoch]
  rfl

end Checks

/-! ## The entry taken (R51, R53) -/

theorem allocReq_of_fresh {d : Device} (h : d.fresh < Config.requestEntries) :
    d.allocReq = some (d.fresh, { d with fresh := d.fresh + 1 }) := if_pos h

/-- Entry i becomes a new request's, the next in admission order (R55). -/
def Device.enter (e : Env) (d : Device) (i : Nat) (f : Fetched) : Device :=
  let u := d.setReq i (newRequest e d f (d.req i) d.kn.order)
  { u with kn := { u.kn with order := u.kn.order + 1 } }

theorem req_enter_same (e : Env) (d : Device) (i : Nat) (f : Fetched) :
    (d.enter e i f).req i = newRequest e d f (d.req i) d.kn.order := req_setReq_same ..

/-- A session's resident context is bound to its request i, or only unparked while its record write is under way. -/
def Device.bindResident (d : Device) (session i : Nat) : Device :=
  match d.ctxOf session with
  | some c => if (d.ctx c).demoting then d.setCtx c { d.ctx c with parked := false } else d.bindLive i c
  | none => d

theorem bindResident_cases (d : Device) (session i : Nat) : d.bindResident session i = d ∨
    ∃ c, d.bindResident session i = d.setCtx c { d.ctx c with parked := false } ∨
      d.bindResident session i = d.bindLive i c := by
  unfold Device.bindResident
  split
  · split
    · exact .inr ⟨_, .inl rfl⟩
    · exact .inr ⟨_, .inr rfl⟩
  · exact .inl rfl

theorem effGenerate_of_admitted (e : Env) {d : Device} {f : Fetched} (sound : d.admissionFault f = none)
    (room : d.fresh < Config.requestEntries) : effGenerate e d f =
      (({ d with fresh := d.fresh + 1 } : Device).enter e d.fresh f).bindResident f.session d.fresh := by
  simp only [effGenerate, sound, allocReq_of_fresh room]
  rfl

/-- Binding the resident context changes of the request its context and how that stood. -/
theorem req_bindLive_same (d : Device) (i c : Nat) : ∃ prior,
    (d.bindLive i c).req i = { d.req i with ctxValid := true, context := c, prior := prior } := by
  simp only [Device.bindLive, modReq_eq, modCtx_eq, setCtx_req, req_setReq_same]
  exact ⟨_, rfl⟩

/-- A resident context changes of its request what names it, and neither host memory nor the entries not yet used. -/
theorem bindResident_entry (d : Device) (session i : Nat) : (d.bindResident session i).fresh = d.fresh ∧
    (d.bindResident session i).host = d.host ∧ ∃ valid context prior, (d.bindResident session i).req i =
      { d.req i with ctxValid := valid, context := context, prior := prior } := by
  obtain h | ⟨c, h | h⟩ := bindResident_cases d session i
  · rw [h]
    exact ⟨rfl, rfl, _, _, _, rfl⟩
  · rw [h, setCtx_req]
    exact ⟨rfl, rfl, _, _, _, rfl⟩
  · obtain ⟨prior, bound⟩ := req_bindLive_same d i c
    rw [h, bound]
    exact ⟨rfl, rfl, _, _, _, rfl⟩

theorem effGenerate_of_fault (e : Env) {d : Device} {f : Fetched} {x : Nat × Nat}
    (fault : d.admissionFault f = some x) : effGenerate e d f = d.completeD e f x.1 x.2 0 := by
  simp only [effGenerate, fault]

/-- Settles O16: GENERATE by whether a check fails, then the checks one after the other. -/
theorem generateAdmits : Obligations.GenerateAdmits := by
  refine ⟨?_, fun d f => ?_⟩
  · rintro t ring s e f d rfl taken
    rw [exec_generate, act_onDesc_of_take taken]
    refine ⟨fun sound room => ?_, fun x fault => by rw [effGenerate_of_fault _ fault]⟩
    rw [effGenerate_of_admitted _ sound room]
    obtain ⟨fresh, host, valid, context, prior, entry⟩ := bindResident_entry
      (({ d with fresh := d.fresh + 1 } : Device).enter (s.env.tick t) d.fresh f) f.session d.fresh
    refine ⟨_, rfl, fresh, host.trans (take_host (d' := d) taken), ?_⟩
    rw [entry, req_enter_same]
    exact ⟨rfl, rfl, rfl, rfl, rfl, rfl, rfl, rfl, rfl⟩
  · refine ⟨admissionFault_of_text, fun text _ => admissionFault_of_recipe text,
      fun text recipe _ => admissionFault_of_adapter text recipe,
      fun text recipe adapter => ⟨fun _ => admissionFault_of_epoch text recipe adapter, fun epoch => ?_⟩⟩
    rw [admissionFault_after_epoch text recipe adapter epoch]
    exact ⟨fun held => by simp [held], fun free busy => by simp [free, busy],
      fun free idle handle => by simp [free, idle, handle],
      fun free idle handle room => by simp [free, idle, handle, Nat.not_le.mpr room]⟩

end Sys2Proof.Machine
end

section
/-! PROOFS. COMMIT (R57, R59, R202) and a demotion's record write (R68). -/

namespace Sys2Proof.Machine

theorem exec_commit (t i : Nat) (s : State) : exec (.commit t i) s = s.act t (effCommit i) := rfl

theorem exec_demotionRecordWritten (t c : Nat) (s : State) :
    exec (.demotionRecordWritten t c) s = s.act t (effDemotionWritten c) := rfl

/-! ## COMMIT -/

theorem exec_commit_of_mayCommit {t i : Nat} {s : State} (may : s.dev.mayCommit (s.env.tick t) i = true) :
    exec (.commit t i) s = .next { s with
      env := s.env.tick t, dev := (s.dev.commitReq (s.env.tick t) i).fillOven (s.env.tick t) } := by
  rw [exec_commit, act_eq, effCommit, if_pos may]

/-- An empty input needs a log to go on from (R57). -/
theorem commitReq_of_empty {e : Env} {d : Device} {i : Nat} (first : d.standing e (d.req i).session = 0)
    (empty : (d.req i).staged = []) : d.commitReq e i = d.refuseReq e i 0x20 3 := by
  simp [Device.commitReq, first, empty]

section Placed
variable {e : Env} {d d0 d1 : Device} {i : Nat}
  (input : ¬ (d.standing e (d.req i).session = 0 ∧ (d.req i).staged = []))
  (context : d.contextFor e i = some d0) (pinned : d1 = d0.pinAt e i)
include input context pinned

/-- A log that would pass the longest ends the request (Table 03.7). -/
theorem commitReq_of_too_long
    (long : Config.maxLog < (d1.ctx (d1.req i).context).logLength + (d.req i).staged.length) :
    d.commitReq e i = d1.endReq e i 0 3 0 := by
  subst pinned
  simp only [Device.commitReq, context]
  rw [if_neg (by simpa using input), if_pos long]

/-- An input that fits is appended whole, and the request placed (R57, R59). -/
theorem commitReq_of_fits {x : Context} (hx : x = d1.ctx (d1.req i).context)
    (fits : x.logLength + (d.req i).staged.length < Config.maxLog) (intime : pastDeadline e (d.req i) = false)
    {b : Nat} {d2 : Device}
    (ensured : d1.logEnsure e x.logBase (x.logLength + (d.req i).staged.length) = some (b, d2)) :
    d.commitReq e i = ((((d2.logPut b x.logLength (d.req i).staged).modCtx (d1.req i).context (fun y =>
        { y with logBase := b, logLength := x.logLength + (d.req i).staged.length })).modReq i (fun r =>
        { r with staged := [] })).placeReq e i x.logLength).markRevived i b x.logLength (d.req i).staged := by
  subst pinned hx
  simp only [Device.commitReq, context]
  rw [if_neg (by simpa using input), if_neg (by omega), if_neg (by simp [intime])]
  simp only [ensured]
  rw [if_neg (by omega)]

end Placed

/-! ## A demotion's record write (R68) -/

theorem Device.sameButHomes.host {d u : Device} : d.sameButHomes u → u.host = d.host := by
  rintro ⟨_, _, _, _, _, _, _, rfl⟩; rfl

theorem dirWrite_sameButHomes (d : Device) (e : Env) (r : DirRec) : d.sameButHomes (d.dirWrite e r) := by
  obtain ⟨_, _, h⟩ := dirWrite_frame d e r
  exact ⟨_, _, _, _, _, _, _, h⟩

/-- The record is written, or an anonymous context's log freed (log 13), then the entry is unused. -/
theorem demoted_eq (d : Device) (e : Env) (c : Nat) : ∃ u, d.sameButHomes u ∧ d.demoted e c = u.vacate c := by
  refine ⟨_, ?_, rfl⟩
  split
  · exact logRelease_sameButHomes ..
  split
  · exact .refl d
  · exact dirWrite_sameButHomes ..

theorem ctx_demoted (d : Device) (e : Env) (c j : Nat) : (d.demoted e c).ctx j =
    if j = c then { incarnation := (d.ctx c).incarnation } else d.ctx j := by
  obtain ⟨u, same, h⟩ := demoted_eq d e c
  rw [h, Device.vacate, ctx_setCtx, same.ctx, same.ctx]

@[simp] theorem demoted_host (d : Device) (e : Env) (c : Nat) : (d.demoted e c).host = d.host := by
  obtain ⟨u, same, h⟩ := demoted_eq d e c
  rw [h, Device.vacate, setCtx_host, same.host]

theorem effDemotionWritten_of_demoting {e : Env} {d : Device} {c : Nat} (serves : d.serving e = true)
    (demoting : (d.ctx c).demoting = true) : effDemotionWritten c e d = d.demoted e c := by
  simp [effDemotionWritten, serves, demoting]

/-- Settles O18: an input that fits, one that is empty, one that is too long; then the record write. -/
theorem commitAppendsOrRefuses : Obligations.CommitAppendsOrRefuses := by
  refine ⟨?_, ?_, ?_⟩
  · rintro t i b s e d0 d1 d2 r x rfl rfl may input context pinned hx fits intime ensured
    rw [exec_commit_of_mayCommit may, commitReq_of_fits input context pinned hx fits intime ensured]
  · rintro t i s e rfl may
    rw [exec_commit_of_mayCommit may]
    refine ⟨fun first empty => by rw [commitReq_of_empty first empty], fun d0 d1 staged context pinned long => ?_⟩
    rw [commitReq_of_too_long (fun h => staged h.2) context pinned long]
  · rintro t c s e rfl serves demoting
    rw [exec_demotionRecordWritten, act_eq, effDemotionWritten_of_demoting serves demoting]
    exact ⟨_, rfl, by rw [ctx_demoted, if_pos rfl], fun j other => by rw [ctx_demoted, if_neg other],
      demoted_reqs .., demoted_host ..⟩

end Sys2Proof.Machine
end

section
/-! PROOFS. The end of a request (R27, R61, R62), deadlines and wait bounds (R63, R64, R186). -/

namespace Sys2Proof.Machine

theorem exec_deadlineMissed (t i : Nat) (s : State) :
    exec (.deadlineMissed t i) s = s.act t (effDeadlineMissed i) := rfl

theorem exec_pagesExhausted (t i : Nat) (s : State) :
    exec (.pagesExhausted t i) s = s.act t (effPagesExhausted i) := rfl

/-! ## What the steps of an end leave -/

theorem req_charge_other (e : Env) (d : Device) {i j : Nat} (h : j ≠ i) : (d.charge e i).req j = d.req j := by
  obtain ⟨u, stands, charged⟩ := charge_eq e d i
  rw [charged, req_setReq, if_neg h, Device.req, stands, Device.req]

theorem req_setState_other (e : Env) (d : Device) {i j : Nat} (st : ReqState) (h : j ≠ i) :
    (d.setState e i st).req j = d.req j := by
  rw [Device.setState, modReq_eq, req_setReq, if_neg h, req_charge_other e d h]

/-- The last record closed: of the requests, the output of this one changes (R314). -/
theorem req_finishOut (e : Env) (d : Device) (i : Nat) : ∃ out, ∀ j,
    (d.finishOut e i).req j = if j = i then { d.req i with out := out } else d.req j := by
  by_cases closed : (d.req i).out.finished = true
  · refine ⟨(d.req i).out, fun j => ?_⟩
    rw [Device.finishOut, if_pos closed]
    split
    next h => rw [h]
    next => rfl
  · refine ⟨((d.req i).out.finish (d.req i).tokenMode e.now (d.req i).genStart (d.req i).logged).1, fun j => ?_⟩
    rw [Device.finishOut, if_neg closed, Device.req, emit_reqs]
    exact req_setReq ..

/-- u has d's requests and seats, and its host memory and LPDDR5X. -/
structure Device.sameRequests (d u : Device) : Prop where
  reqs : u.reqs = d.reqs
  seats : u.kn.seats = d.kn.seats
  host : u.host = d.host
  lp : u.lp = d.lp

theorem Device.sameRequests.refl (d : Device) : d.sameRequests d := ⟨rfl, rfl, rfl, rfl⟩

theorem Device.sameRequests.trans {d u v : Device} (h : d.sameRequests u) (k : u.sameRequests v) : d.sameRequests v :=
  ⟨k.reqs.trans h.reqs, k.seats.trans h.seats, k.host.trans h.host, k.lp.trans h.lp⟩

theorem Device.sameRequests.req {d u : Device} (h : d.sameRequests u) (j : Nat) : u.req j = d.req j := by
  rw [Device.req, h.reqs, Device.req]

theorem dropDeficit_sameRequests (d : Device) (t : Nat) : d.sameRequests (d.dropDeficit t) := by
  unfold Device.dropDeficit
  split
  · exact .refl d
  · exact ⟨rfl, rfl, rfl, rfl⟩

/-- The entry of a request that has ended: how it ended, and nothing held for it (R61). -/
def Request.ended (r : Request) (status reason detail : Nat) : Request :=
  { r with endStatus := status, reason := reason, detail := detail, chunk := none, slot := false, kept := []
           parts := [], staged := [], waitFrom := none, ending := none, reserved := false }

/-- The device with request i's entry ended and its seat released; its stagings and last record are still to go. -/
def Device.leave (e : Env) (d : Device) (i status reason detail : Nat) : Device :=
  ((d.setState e i (if status = 0 then .done else .failed)).modReq i (fun r =>
    r.ended status reason (if status = 0 then doneDetail (d.req i) detail else detail))).unseat i

theorem req_leave_same (e : Env) (d : Device) (i status reason detail : Nat) : ∃ since last det,
    (d.leave e i status reason detail).req i =
      { (d.req i).ended status reason det with
        state := if status = 0 then .done else .failed, since := since, lastToken := last } := by
  obtain ⟨since, last, h⟩ := req_setState_same e d i (if status = 0 then .done else .failed)
  refine ⟨since, last, if status = 0 then doneDetail (d.req i) detail else detail, ?_⟩
  refine (req_setReq_same (d.setState e i _) i _).trans ?_
  rw [h]
  rfl

theorem req_leave_other (e : Env) (d : Device) {i j : Nat} (status reason detail : Nat) (h : j ≠ i) :
    (d.leave e i status reason detail).req j = d.req j := by
  refine (req_setReq ..).trans ?_
  rw [if_neg h, req_setState_other e d _ h]

theorem leave_unseated (e : Env) (d : Device) (i status reason detail : Nat) :
    ∀ x ∈ (d.leave e i status reason detail).kn.seats, x.2 ≠ i := by
  intro x hx
  simpa using (List.mem_filter.mp hx).2

@[simp] theorem leave_host (e : Env) (d : Device) (i status reason detail : Nat) :
    (d.leave e i status reason detail).host = d.host :=
  setState_host d e i (if status = 0 then .done else .failed)

@[simp] theorem leave_lp (e : Env) (d : Device) (i status reason detail : Nat) :
    (d.leave e i status reason detail).lp = d.lp :=
  setState_lp d e i (if status = 0 then .done else .failed)

/-- The request's context was last used now, and its stagings are dropped (R61, Table 03.3). -/
def Device.leaveCtx (e : Env) (d : Device) (r : Request) : Device :=
  if r.ctxValid then
    (d.dropStagings (fun c _ _ => c == r.context)).modCtx r.context (fun c => { c with lastUse := e.now })
  else d

/-- Ends with GRAMMAR_DEAD are counted (Table 12.11). -/
def Device.countDead (d : Device) (status : Nat) : Device :=
  if status = 0x30 then { d with mill := { d.mill with dead := sat lim32 (d.mill.dead + 1) } } else d

theorem leaveCtx_sameRequests (e : Env) (d : Device) (r : Request) : d.sameRequests (d.leaveCtx e r) := by
  unfold Device.leaveCtx
  split
  · exact ⟨rfl, rfl, rfl, rfl⟩
  · exact .refl d

theorem countDead_sameRequests (d : Device) (status : Nat) : d.sameRequests (d.countDead status) := by
  unfold Device.countDead
  split
  · exact ⟨rfl, rfl, rfl, rfl⟩
  · exact .refl d

/-- A request no longer waits to grow. -/
def Device.dropTries (d : Device) (i : Nat) : Device :=
  { d with kn := { d.kn with growTries := d.kn.growTries.filter (· != i) } }

theorem dropTries_sameRequests (d : Device) (i : Nat) : d.sameRequests (d.dropTries i) := ⟨rfl, rfl, rfl, rfl⟩

/-- A live request leaves, what served it is dropped, and its last record is closed. -/
theorem endReq_of_going {d : Device} {i : Nat} (going : (d.req i).going = true) (e : Env) (status reason detail : Nat) :
    d.endReq e i status reason detail = (((((d.leave e i status reason detail).dropTries i).leaveCtx e
      (d.req i)).countDead status).dropDeficit (d.req i).tenant).finishOut e i := by
  simp only [Device.endReq, going]
  rfl

theorem endReq_closes {d : Device} {i : Nat} (going : (d.req i).going = true) (e : Env) (status reason detail : Nat) :
    ∃ u, (d.leave e i status reason detail).sameRequests u ∧ d.endReq e i status reason detail = u.finishOut e i :=
  ⟨_, .trans (.trans (.trans (dropTries_sameRequests ..) (leaveCtx_sameRequests ..)) (countDead_sameRequests ..))
    (dropDeficit_sameRequests ..), endReq_of_going going ..⟩

/-- What an end leaves of the request. -/
theorem req_endReq_same {d : Device} {i : Nat} (going : (d.req i).going = true) (e : Env) (status reason detail : Nat) :
    ∃ since last det out, (d.endReq e i status reason detail).req i = { (d.req i).ended status reason det with
      state := if status = 0 then .done else .failed, since := since, lastToken := last, out := out } := by
  obtain ⟨u, same, h⟩ := endReq_closes going e status reason detail
  obtain ⟨out, requests⟩ := req_finishOut e u i
  obtain ⟨since, last, det, left⟩ := req_leave_same e d i status reason detail
  refine ⟨since, last, det, out, ?_⟩
  rw [h, requests, if_pos rfl, same.req, left]

/-- What an end leaves of the rest: the other requests, the memories, and the seats without its own. -/
theorem endReq_others {d : Device} {i : Nat} (going : (d.req i).going = true) (e : Env) (status reason detail : Nat)
    {u : Device} (hu : u = d.endReq e i status reason detail) :
    (∀ x ∈ u.kn.seats, x.2 ≠ i) ∧ (∀ j, j ≠ i → u.req j = d.req j) ∧ u.host = d.host ∧ u.lp = d.lp := by
  obtain ⟨v, same, h⟩ := endReq_closes going e status reason detail
  obtain ⟨out, requests⟩ := req_finishOut e v i
  rw [hu, h, finishOut_kn, same.seats, finishOut_host, same.host, leave_host, finishOut_lp, same.lp, leave_lp]
  refine ⟨leave_unseated e d i status reason detail, fun j other => ?_, rfl, rfl⟩
  rw [requests, if_neg other, same.req, req_leave_other e d _ _ _ other]

/-! ## Checks (R63, R64, R186) -/

section Checkable
variable {e : Env} {d : Device} {i : Nat}

theorem effDeadlineMissed_of_unchecked (no : d.checkable e i = false) : effDeadlineMissed i e d = d := by
  simp [effDeadlineMissed, no]

theorem effPagesExhausted_of_unchecked (no : d.checkable e i = false) : effPagesExhausted i e d = d := by
  simp [effPagesExhausted, no]

theorem pastDeadline_iff {r : Request} : pastDeadline e r = true ↔ r.deadline ≠ 0 ∧ r.deadline < e.now := by
  simp [pastDeadline]

theorem effDeadlineMissed_of_intime (intime : (d.req i).deadline = 0 ∨ e.now ≤ (d.req i).deadline) :
    effDeadlineMissed i e d = d := by
  have notPast : pastDeadline e (d.req i) = false := by
    rw [Bool.eq_false_iff, Ne, pastDeadline_iff]
    omega
  simp [effDeadlineMissed, notPast]

variable (checks : d.checkable e i = true)
include checks

/-- A wait for frames has its own bound, a wait for a fetch has not. -/
theorem effDeadlineMissed_of_past (past : pastDeadline e (d.req i) = true)
    (free : (d.req i).waitFrom = none ∨ (d.req i).state = .waitFetch) :
    effDeadlineMissed i e d = d.endReq e i 0x31 0 1 := by
  have noBound : ((d.req i).waitFrom.isSome && (d.req i).state != .waitFetch) = false := by
    rcases free with h | h <;> simp [h]
  simp [effDeadlineMissed, checks, past, noBound]

theorem effPagesExhausted_of_waiting {w : Nat} (waits : (d.req i).waitFrom = some w)
    (frames : (d.req i).state ≠ .waitFetch) : effPagesExhausted i e d =
      if waitBound e (d.req i) w < e.now then d.endReq e i 0x12 0 (d.req i).waitKind else d := by
  simp [effPagesExhausted, Request.outwaited, checks, waits, frames]

end Checkable

/-- Settles O19: what an end leaves, then a check of each kind before its time and past it, and one that is not due. -/
theorem endedRequestsHoldNothing : Obligations.EndedRequestsHoldNothing := by
  refine ⟨?_, ?_, ?_⟩
  · intro e d i status reason detail going
    obtain ⟨unseated, others, host, lp⟩ := endReq_others going e status reason detail rfl
    obtain ⟨since, last, det, out, left⟩ := req_endReq_same going e status reason detail
    dsimp only
    rw [left]
    exact ⟨rfl, rfl, rfl, rfl, rfl, rfl, unseated, others, host, lp, rfl⟩
  · rintro t i s e r rfl rfl checks
    rw [exec_deadlineMissed, exec_pagesExhausted, act_eq, act_eq]
    refine ⟨fun deadline past free => ?_, fun intime => ?_, fun w waits frames => ?_⟩
    · rw [effDeadlineMissed_of_past checks (pastDeadline_iff.mpr ⟨deadline, past⟩) free]
    · rw [effDeadlineMissed_of_intime intime]
    · rw [effPagesExhausted_of_waiting checks waits frames]
      exact ⟨fun past => by rw [if_pos past], fun intime => by rw [if_neg (Nat.not_lt.mpr intime)]⟩
  · rintro t i s e rfl no
    rw [exec_deadlineMissed, exec_pagesExhausted, act_eq, act_eq, effDeadlineMissed_of_unchecked no,
      effPagesExhausted_of_unchecked no]
    exact ⟨rfl, rfl⟩

end Sys2Proof.Machine
end

section
/-! PROOFS. Clears of status registers (R100, R407), the I3C address (R437), the MSI-X unmask (R44). -/

namespace Sys2Proof.Machine

theorem exec_numstatClear (t : Nat) (oven : Bool) (v : Nat) (s : State) :
    exec (.numstatClear t oven v) s = s.act t (effNumstatClear oven v) := rfl

theorem exec_pinStatClear (t : Nat) (i3c : Bool) (v : Nat) (s : State) :
    exec (.pinStatClear t i3c v) s = s.act t (effPinStatClear i3c v) := rfl

theorem exec_i3cDynamicAddress (t a : Nat) (s : State) :
    exec (.i3cDynamicAddress t a) s = s.act t (effI3cAddress a) := rfl

theorem exec_msixUnmask (t v : Nat) (s : State) : exec (.msixUnmask t v) s = s.act t (effMsixUnmask v) := rfl

/-! ## The clears and the I3C address -/

section Clears
variable (e : Env) {d : Device} {v : Nat}

theorem effNumstatClear_of_set (up : d.regsUp = true) (set : bit v 63 = true) (oven : Bool) :
    effNumstatClear oven v e d = if oven then { d with health := { d.health with ovnSat := 0, ovnNan := 0 } }
      else { d with health := { d.health with crbSat := 0, crbNan := 0 } } := by
  simp [effNumstatClear, up, set]

theorem effPinStatClear_of_set {i3c : Bool} (up : (if i3c then d.i3cUp else d.regsUp) = true)
    (set : bit v 48 = true) :
    effPinStatClear i3c v e d = { d with dmp := { d.dmp with pulses := [], storm := [] } } := by
  simp [effPinStatClear, up, set]

theorem effI3cAddress_of_up (up : d.i3cUp = true) {a : Nat} (seven_bits : a < 128) :
    effI3cAddress a e d = { d with hif := { d.hif with i3cAddr := some a } } := by
  rw [effI3cAddress, if_pos up, Nat.mod_eq_of_lt seven_bits]

end Clears

/-! ## The MSI-X unmask -/

/-- u is d but for its device-produced rings. -/
def Device.sameButRings (d u : Device) : Prop := ∃ cq ts eq, u = { d with cq := cq, ts := ts, eq := eq }

theorem Device.sameButRings.refl (d : Device) : d.sameButRings d := ⟨_, _, _, rfl⟩

theorem Device.sameButRings.trans {d u v : Device} : d.sameButRings u → u.sameButRings v → d.sameButRings v := by
  rintro ⟨_, _, _, rfl⟩ ⟨_, _, _, rfl⟩
  exact ⟨_, _, _, rfl⟩

theorem setRing_sameButRings (d : Device) (k : RingKind) (n : Nat) (r : DevRing) :
    d.sameButRings (d.setRing k n r) := by
  cases k <;> exact ⟨_, _, _, rfl⟩

/-- A ring of vector v has no entry pending any more: the vector's message covers them. -/
def Device.coverRing (e : Env) (v : Nat) (k : RingKind) (d : Device) (n : Nat) : Device :=
  if devVector e k n == v then d.setRing k n { d.ring k n with pend := [] } else d

theorem coverRing_sameButRings (d : Device) (e : Env) (v : Nat) (k : RingKind) (n : Nat) :
    d.sameButRings (d.coverRing e v k n) := by
  unfold Device.coverRing
  split
  · exact setRing_sameButRings ..
  · exact .refl d

/-- Every ring of vector v has nothing pending any more. -/
def Device.coverRings (e : Env) (v : Nat) (d : Device) : Device :=
  let d := (d.cq.map (·.1)).foldl (Device.coverRing e v .cq) d
  let d := (d.ts.map (·.1)).foldl (Device.coverRing e v .ts) d
  d.coverRing e v .eq 0

theorem coverRings_sameButRings (d : Device) (e : Env) (v : Nat) : d.sameButRings (d.coverRings e v) := by
  have fold (d : Device) (k : RingKind) (ns : List Nat) : d.sameButRings (ns.foldl (Device.coverRing e v k) d) :=
    List.foldlRecOn (motive := d.sameButRings) ns _ (.refl d) fun u h n _ => h.trans (coverRing_sameButRings u e v k n)
  exact ((fold ..).trans (fold ..)).trans (coverRing_sameButRings ..)

/-- The device with the mask of vector v cleared. -/
def Device.clearMask (d : Device) (v : Nat) : Device :=
  { d with hif := { d.hif with msixTable := tset d.hif.msixTable (4 * v + 3) 0 } }

/-- The device with vector v no longer pending. -/
def Device.takePending (d : Device) (v : Nat) : Device :=
  { d with hif := { d.hif with msixPending := d.hif.msixPending.filter (· != v) } }

/-- The device with one more message sent on vector v. -/
def Device.sendMessage (d : Device) (v : Nat) : Device :=
  { d with hif := { d.hif with msixSent := tset d.hif.msixSent v (tget 0 d.hif.msixSent v + 1) } }

theorem clearMask_masked (d : Device) (v : Nat) : (d.clearMask v).masked v = false := by
  rw [Device.masked, Device.clearMask, tget_tset_same]
  rfl

theorem message_of_not_masked {d : Device} {v : Nat} (h : d.masked v = false) : d.message v = d.sendMessage v :=
  if_neg (by simp [h])

theorem unmask_eq (d : Device) (e : Env) (v : Nat) : d.unmask e v =
    if (!d.hif.msixPending.contains v) = true then d.clearMask v
    else (((d.clearMask v).takePending v).message v).coverRings e v := rfl

theorem unmask_of_not_pending {d : Device} {v : Nat} (idle : d.hif.msixPending.contains v = false) (e : Env) :
    d.unmask e v = d.clearMask v := by
  rw [unmask_eq, idle]
  rfl

/-- A pending message goes out, once. -/
theorem unmask_of_pending {d : Device} {v : Nat} (pending : d.hif.msixPending.contains v = true) (e : Env) :
    d.unmask e v = (((d.clearMask v).takePending v).sendMessage v).coverRings e v := by
  have unmasked : ((d.clearMask v).takePending v).masked v = false := clearMask_masked d v
  rw [unmask_eq, pending, message_of_not_masked unmasked]
  rfl

theorem effMsixUnmask_of_heard {d : Device} (heard : d.heard = true) (alive : d.mode ≠ .halted) {v : Nat}
    (listed : v < 2048) (e : Env) : effMsixUnmask v e d = d.unmask e v := by
  have within : ¬ v ≥ 2048 := Nat.not_le.mpr listed
  simp [effMsixUnmask, heard, alive, within]

theorem takePending_contains (d : Device) (v : Nat) : (d.takePending v).hif.msixPending.contains v = false := by
  simp [Device.takePending]

/-- Settles O9: each clear, the I3C address, then the unmask of a vector without and with a pending message. -/
theorem statusClearsAndAddresses : Obligations.StatusClearsAndAddresses := by
  refine ⟨?_, ?_, ?_⟩
  · rintro t v s e rfl
    refine ⟨fun up set => ?_, fun i3c up set => ?_⟩
    · rw [exec_numstatClear, exec_numstatClear, act_eq, act_eq, effNumstatClear_of_set _ up set,
        effNumstatClear_of_set _ up set]
      exact ⟨rfl, rfl⟩
    · rw [exec_pinStatClear, act_eq, effPinStatClear_of_set _ up set]
  · intro t a s up seven_bits
    rw [exec_i3cDynamicAddress, act_eq, effI3cAddress_of_up _ up seven_bits]
  · intro t v s heard alive listed
    rw [exec_msixUnmask, act_eq, effMsixUnmask_of_heard heard alive listed]
    refine ⟨_, rfl, ?_⟩
    cases pending : s.dev.hif.msixPending.contains v
    case false =>
      rw [unmask_of_not_pending pending]
      exact ⟨clearMask_masked .., pending, rfl, rfl, nofun, fun _ => rfl⟩
    case true =>
      rw [unmask_of_pending pending]
      obtain ⟨_, _, _, covered⟩ :=
        coverRings_sameButRings (((s.dev.clearMask v).takePending v).sendMessage v) (s.env.tick t) v
      rw [covered]
      exact ⟨clearMask_masked s.dev v, takePending_contains s.dev v, rfl, rfl, fun _ => tget_tset_same .., nofun⟩

end Sys2Proof.Machine
end

section
/-! PROOFS. The end of a decode (R100, R124, R194), a token appended (R12, R204, R267, R268), the end of a budget period
(R204). -/

namespace Sys2Proof.Machine

theorem exec_decodeEnd (t : Nat) (ecc : List EccReport) (store : List Nat) (s : State) :
    exec (.decodeEnd t ecc store) s = s.act t (effDecodeEnd ecc store) := rfl

theorem exec_budgetPeriodEnd (t : Nat) (s : State) : exec (.budgetPeriodEnd t) s = s.act t effBudgetPeriodEnd := rfl

/-! ## DECODE_END -/

section DecodeEnd
variable {e : Env} {d : Device} {p : Pass} {xs : List Drafted} {store : List Nat} (serves : d.serving e = true)
  (decoding : d.kn.decoding = true)
include serves decoding

/-- A decode waits for a streamed tensor. -/
theorem effDecodeEnd_of_blocked {ecc : List EccReport} (decoded : d.decode ecc store = (p, xs))
    (blocked : p.blocked = true) : effDecodeEnd ecc store e d = d := by
  simp [effDecodeEnd, serves, decoding, decoded, blocked]

/-- A decode without error: numeric events, every seat's step, the tensors let go. -/
theorem effDecodeEnd_of_clean (decoded : d.decode [] store = (p, xs)) (ready : p.blocked = false) {d1 d2 : Device}
    (stepped : d1 = (d.kn.seats.map (·.2)).foldl (fun d i => d.stepSeq e [] p xs i)
      ((d.ranBy p.dev).numeric true p.sats p.nans))
    (ended : d2 = d1.endUse e (.step d1.kn.step) p.used) (runs : d2.mode = .running) :
    effDecodeEnd [] store e d = { d2 with kn := { d2.kn with decoding := false } } := by
  have noReport (u : Device) : u.eccReports e [] = u := rfl
  have noBank : badBanks [] = [] := rfl
  have kneader : ((d.ranBy p.dev).numeric true p.sats p.nans).kn = d.kn := rfl
  simp only [effDecodeEnd, serves, decoding, decoded, ready, noReport, noBank, kneader, ← stepped, ← ended, runs]
  rfl

end DecodeEnd

/-! ## A token appended -/

/-- Making room in a log, and writing words to it, touches what page homes live in and no more. The search for a block
becomes a variable first: its bounds multiply by 2 ^ 30, and the kernel must not evaluate them. -/
theorem logAlloc_sameButHomes {e : Env} {d u : Device} {len a : Nat} (h : d.logAlloc e len = some (a, u)) :
    d.sameButHomes u := by
  obtain ⟨alloc, unfolded⟩ : ∃ f, f = @Device.logAlloc := ⟨_, rfl⟩
  obtain ⟨search, searches⟩ : ∃ f, f = @lowestFree := ⟨_, rfl⟩
  rw [← unfolded] at h
  delta Device.logAlloc at unfolded
  rw [← searches] at unfolded
  subst unfolded
  dsimp only at h
  split at h
  · cases h
  · simp only [Option.some.injEq, Prod.mk.injEq] at h
    obtain ⟨-, rfl⟩ := h
    exact ⟨_, _, _, _, _, _, _, rfl⟩

theorem lpStore_sameButHomes (d : Device) (a n v : Nat) : d.sameButHomes (d.lpStore a n v) :=
  ⟨_, _, _, _, _, _, _, rfl⟩

theorem logEnsure_sameButHomes {e : Env} {d u : Device} {base n b : Nat} (h : d.logEnsure e base n = some (b, u)) :
    d.sameButHomes u := by
  suffices kept : ∀ x ∈ d.logEnsure e base n, d.sameButHomes x.2 from kept (b, u) h
  refine List.foldlRecOn (motive := fun st : Option (Nat × Device) => ∀ x ∈ st, d.sameButHomes x.2) _ _ ?_ ?_
  · rintro ⟨a, v⟩ start
    split at start
    · exact logAlloc_sameButHomes start
    · cases start
      exact .refl d
  · rintro (_ | ⟨a, v⟩) kept k - x hx
    · cases hx
    have kept : d.sameButHomes v := kept (a, v) rfl
    dsimp only at hx
    split at hx
    · cases hx
      exact kept
    split at hx
    next => cases hx
    next ext w alloc =>
      cases hx
      exact (kept.trans (logAlloc_sameButHomes alloc)).trans (lpStore_sameButHomes ..)

theorem logPut_sameButHomes (d : Device) (base p : Nat) (ws : List Nat) : d.sameButHomes (d.logPut base p ws) :=
  List.foldlRecOn (motive := fun s : Device × Nat => d.sameButHomes s.1) ws _ (.refl d) fun _ h _ _ =>
    h.trans (lpStore_sameButHomes ..)

theorem Device.sameButHomes.tenant {d u : Device} (n : Nat) : d.sameButHomes u → u.tenant n = d.tenant n := by
  rintro ⟨_, _, _, _, _, _, _, rfl⟩; rfl

theorem Device.sameButHomes.req {d u : Device} (h : d.sameButHomes u) (i : Nat) : u.req i = d.req i := by
  rw [Device.req, h.reqs, Device.req]

theorem appendToken_of_stopped {d : Device} {i : Nat} (stopped : (d.req i).stop ≠ 0) (e : Env) (tok : Nat) :
    d.appendToken e i tok = d := by
  simp [Device.appendToken, stopped]

/-- u has d's requests, contexts and Kneader. -/
structure Device.sameTables (d u : Device) : Prop where
  reqs : u.reqs = d.reqs
  ctxs : u.ctxs = d.ctxs
  kn : u.kn = d.kn

namespace Device.sameTables
variable {d u v : Device}

theorem trans (h : d.sameTables u) (k : u.sameTables v) : d.sameTables v :=
  ⟨k.reqs.trans h.reqs, k.ctxs.trans h.ctxs, k.kn.trans h.kn⟩

theorem req (h : d.sameTables u) (i : Nat) : u.req i = d.req i := by rw [Device.req, h.reqs, Device.req]
theorem ctx (h : d.sameTables u) (c : Nat) : u.ctx c = d.ctx c := by rw [Device.ctx, h.ctxs, Device.ctx]
theorem tenant (h : d.sameTables u) (n : Nat) : u.tenant n = d.tenant n := by rw [Device.tenant, h.kn, Device.tenant]

theorem modReq (h : d.sameTables u) (i : Nat) (f : Request → Request) : (d.modReq i f).sameTables (u.modReq i f) := by
  refine ⟨?_, h.ctxs, h.kn⟩
  rw [modReq_eq, modReq_eq, Device.setReq, Device.setReq, h.req, h.reqs]

end Device.sameTables

theorem emit_sameTables (e : Env) (d : Device) (i : Nat) (rs : List Rec) : d.sameTables (d.emit e i rs) :=
  ⟨emit_reqs .., emit_ctxs .., emit_kn ..⟩

theorem replaced_sameTables (d : Device) (tokenMode : Bool) (n : Nat) :
    d.sameTables (if tokenMode then d else d.noteReplaced n) := by
  cases tokenMode <;> exact ⟨rfl, rfl, rfl⟩

/-- A token appended, once its word is in the log, is counted by the context (f), the tenant (g) and the request (h). -/
theorem appendToken_counts {e : Env} {d v : Device} {i b : Nat} {r : Request} {x : Context} (hr : r = d.req i)
    (hx : x = d.ctx r.context) (going : r.stop = 0) (tok : Nat)
    (ensured : d.logEnsure e x.logBase (x.logLength + 1) = some (b, v)) :
    ∃ (u : Device) (f : Context → Context) (g : Tenant → Tenant) (h : Request → Request), d.sameButHomes u ∧
      (∀ x, (f x).logLength = x.logLength + 1) ∧ (∀ n, (g n).used = n.used + 1) ∧
      (∀ q, (h q).logged = r.logged + 1 ∧ (h q).lastToken = e.now) ∧
      (((u.modCtx r.context f).modTenant r.tenant g).modReq i h).sameTables (d.appendToken e i tok) := by
  subst hr hx
  simp only [Device.appendToken, going, ensured]
  exact ⟨_, _, _, _, (logEnsure_sameButHomes ensured).trans (logPut_sameButHomes ..), fun _ => rfl, fun _ => rfl,
    fun _ => ⟨rfl, rfl⟩, ((replaced_sameTables ..).modReq ..).trans (emit_sameTables ..)⟩

/-- What a token appended leaves: every request, context and tenant by whether it is the token's own. -/
theorem appendToken_tables {e : Env} {d v : Device} {i b : Nat} {r : Request} {x : Context} (hr : r = d.req i)
    (hx : x = d.ctx r.context) (going : r.stop = 0) (tok : Nat)
    (ensured : d.logEnsure e x.logBase (x.logLength + 1) = some (b, v)) :
    ∃ (x' : Context) (n' : Tenant) (r' : Request), x'.logLength = x.logLength + 1 ∧
      n'.used = (d.tenant r.tenant).used + 1 ∧ r'.logged = r.logged + 1 ∧ r'.lastToken = e.now ∧
      (∀ c, (d.appendToken e i tok).ctx c = if c = r.context then x' else d.ctx c) ∧
      (∀ n, (d.appendToken e i tok).tenant n = if n = r.tenant then n' else d.tenant n) ∧
      (∀ j, (d.appendToken e i tok).req j = if j = i then r' else d.req j) := by
  obtain ⟨u, f, g, h, same, length, used, counts, tables⟩ := appendToken_counts hr hx going tok ensured
  refine ⟨f x, g (d.tenant r.tenant), h r, length x, used _, (counts r).1, (counts r).2, fun c => ?_, fun n => ?_,
    fun j => ?_⟩
  · rw [tables.ctx, modReq_eq, setReq_ctx, modTenant_ctx, modCtx_eq, ctx_setCtx, same.ctx, same.ctx, hx]
  · rw [tables.tenant, modReq_eq, setReq_tenant, tenant_modTenant, modCtx_eq, setCtx_tenant, setCtx_tenant,
      same.tenant, same.tenant]
  · rw [tables.req, modReq_eq, req_setReq, modTenant_req, modTenant_req, modCtx_eq, setCtx_req, setCtx_req, same.req,
      same.req, hr]

/-! ## The end of a budget period (R204) -/

theorem tget_map {α β : Type} (f : α → β) (x : α) (t : Tbl α) (k : Nat) :
    tget (f x) (t.map (fun p => (p.1, f p.2))) k = f (tget x t k) := by
  induction t with
  | nil => rfl
  | cons p r ih =>
    simp only [List.map_cons, tget, ih]
    split <;> rfl

/-- A tenant at the start of a period: nothing used, the excess over the allowance carried. -/
def Tenant.renewed (t : Tenant) : Tenant :=
  { t with used := 0, carry := if t.budget = 0 then 0 else t.used - t.allowance }

section Budget
variable {e : Env} {d : Device}

theorem effBudgetPeriodEnd_of_same (same : e.now / budgetPeriod e = d.kn.budgetAt / budgetPeriod e) :
    effBudgetPeriodEnd e d = d := by
  simp [effBudgetPeriodEnd, same]

theorem effBudgetPeriodEnd_of_past (serves : d.serving e = true) (mode : tokenBudgetMode e = true)
    (past : e.now / budgetPeriod e ≠ d.kn.budgetAt / budgetPeriod e) :
    effBudgetPeriodEnd e d = { d with kn := { d.kn with
      budgetAt := e.now, tenants := d.kn.tenants.map (fun t => (t.1, t.2.renewed)) } } := by
  simp only [effBudgetPeriodEnd, serves, mode]
  exact if_neg (by simpa using past)

end Budget

/-- Settles O23: a decode that waits and one that ends, a token after a stop condition and one appended, a budget period
that lasts and one that ends. -/
theorem decodeEndStepsSeats : Obligations.DecodeEndStepsSeats := by
  refine ⟨?_, ?_, ?_⟩
  · rintro t store s e p xs d1 d2 rfl serves decoding decoded
    rw [exec_decodeEnd, act_eq]
    refine ⟨fun blocked => ?_, fun ready stepped ended runs => ?_⟩
    · rw [effDecodeEnd_of_blocked serves decoding decoded blocked]
    · rw [effDecodeEnd_of_clean serves decoding decoded ready stepped ended runs]
  · intro e d i tok
    refine ⟨fun stopped => appendToken_of_stopped stopped e tok, fun going b v ensured => ?_⟩
    obtain ⟨x, n, r, length, used, logged, last, ctx, tenant, req⟩ := appendToken_tables rfl rfl going tok ensured
    dsimp only
    rw [ctx, tenant, req, if_pos rfl, if_pos rfl, if_pos rfl]
    exact ⟨length, logged, last, used, fun j other => by rw [req, if_neg other],
      fun c other => by rw [ctx, if_neg other]⟩
  · rintro t s e rfl serves mode
    rw [exec_budgetPeriodEnd, act_eq]
    refine ⟨fun lasts => ?_, fun past => ?_⟩
    · rw [effBudgetPeriodEnd_of_same lasts]
    · rw [effBudgetPeriodEnd_of_past serves mode past]
      refine ⟨_, rfl, rfl, fun n => ?_⟩
      have renewed : tget {} (s.dev.kn.tenants.map (fun t => (t.1, t.2.renewed))) n = (s.dev.tenant n).renewed :=
        tget_map Tenant.renewed {} s.dev.kn.tenants n
      simp only [Device.tenant, renewed]
      exact ⟨rfl, rfl, rfl, rfl⟩

end Sys2Proof.Machine
end

section
/-! PROOFS. Memory faults: the patrol scrub and the errors it corrects (R126, R129), ECC_SUMMARY (R132), a hung Slice
(R125) and the halt it causes (R411). -/

namespace Sys2Proof.Machine

theorem exec_patrolScrub (t slice bank : Nat) (errors : List (Option Bool)) (s : State) :
    exec (.patrolScrub t slice bank errors) s = s.act t (effPatrolScrub slice bank errors) := rfl

theorem exec_eccSummary (t : Nat) (s : State) : exec (.eccSummary t) s = s.act t effEccSummary := rfl

theorem exec_sliceHang (t slice : Nat) (s : State) : exec (.sliceHang t slice) s = s.act t (effSliceHang slice) := rfl

/-! ## Patrol scrub (R126) -/

/-- The device with the row pointer of a bank moved on by one row. -/
def Device.nextRow (d : Device) (b : Nat) : Device :=
  { d with health := { d.health with scrub := tset d.health.scrub b ((tget 0 d.health.scrub b + 1) % bankRows) } }

/-- One row read by the scrub, with what was found in it. -/
def Device.scrubRow (e : Env) (slice bank : Nat) (d : Device) : Option Bool → Device
  | none => d.nextRow (2048 * slice + bank)
  | some bad => (d.nextRow (2048 * slice + bank)).eccError e slice bank (tget 0 d.health.scrub (2048 * slice + bank)) bad

/-- Health with one more correctable error of a bank at an LTIME: the bank's errors of the last window, and the counts
(R126, R129). -/
def Health.countCorrected (h : Health) (now slice bank : Nat) : Health :=
  let b := 2048 * slice + bank
  let x := tget {} h.banks b
  { h with
    banks := tset h.banks b { x with times := x.times.filter (fun t => now < t + ceWindow) ++ [now] }
    sinceCe := sat lim32 (h.sinceCe + 1)
    sinceBanks := tset h.sinceBanks b (sat lim32 (tget 0 h.sinceBanks b + 1))
    corrected := tset h.corrected slice (sat lim16 (tget 0 h.corrected slice + 1)) }

section Scrub
variable {e : Env} {d : Device} {slice : Nat}

/-- A correctable error that leaves its bank within the limit of R129 is counted and retires nothing. -/
theorem eccError_of_within_limit {bank : Nat}
    (within : ((tget {} d.health.banks (2048 * slice + bank)).times.filter (fun t => e.now < t + ceWindow)).length
      < ceLimit e) (row : Nat) :
    d.eccError e slice bank row false = { d with health := d.health.countCorrected e.now slice bank } := by
  simp [Device.eccError, Health.countCorrected, Nat.not_lt.mpr (Nat.succ_le_of_lt within)]

/-- Where the device runs and the Slice is not frozen, the scrub reads row after row. -/
theorem effPatrolScrub_of_awake (runs : d.mode = .running) (awake : d.dmp.frozen.contains slice = false) (bank : Nat)
    (errors : List (Option Bool)) :
    effPatrolScrub slice bank errors e d = errors.foldl (Device.scrubRow e slice bank) d :=
  (if_neg (by rw [runs, awake]; decide)).trans
    (congrArg (fun read => errors.foldl read d) (by funext _ found; cases found <;> rfl))

end Scrub

/-! ## ECC_SUMMARY (R132) -/

/-- Health after a summary: the counts since the last one start again. -/
def Health.summarized (h : Health) (now : Nat) : Health :=
  { h with sinceCe := 0, sinceRows := [], sinceBanks := [], lastSummary := now }

section Summary
variable {e : Env} {d : Device}

theorem effEccSummary_of_nothing (ce : d.health.sinceCe = 0) (rows : d.health.sinceRows = []) :
    effEccSummary e d = d := by
  simp [effEccSummary, ce, rows]

theorem effEccSummary_of_due (serves : d.serving e = true) (found : d.health.sinceCe ≠ 0 ∨ d.health.sinceRows ≠ [])
    (due : d.health.lastSummary + summaryInterval e ≤ e.now) :
    ∃ payA payB, effEccSummary e d =
      { d.raise e 0x0030 payA payB with health := d.health.summarized e.now } := by
  have errors : (d.health.sinceCe = 0 && d.health.sinceRows.isEmpty : Bool) = false :=
    Bool.and_eq_false_iff.mpr (found.imp decide_eq_false List.isEmpty_eq_false_iff.mpr)
  have now : ¬ e.now < d.health.lastSummary + summaryInterval e := Nat.not_lt.mpr due
  simp only [effEccSummary, serves, errors, decide_eq_false now, raise_health]
  exact ⟨_, _, rfl⟩

end Summary

/-! ## A hung Slice (R125) -/

section Hang
variable {e : Env} {d : Device} {slice : Nat}

/-- The device as a halt's cause is stored and ALERT_N asserted, before the steps of Table 17.4 (R411). -/
def Device.halting (d : Device) (cause : Nat) : Device :=
  { d with mode := .halting, dmp := { d.dmp with cause := cause, alert := true } }

/-- A cause other than a power warning waits for nothing (R411). -/
theorem halt_of_running (runs : d.mode = .running) (awake : d.logicFrozen = false) {cause : Nat} (other : cause ≠ 1) :
    d.halt e cause = (d.halting cause).finishHalt e := by
  simp [Device.halt, Device.halting, runs, awake, other]

theorem effSliceHang_of_hung (holds : d.holdsWork e slice = true) (awake : d.dmp.frozen.contains slice = false) :
    effSliceHang slice e d = d.halt e 3 := by
  rw [effSliceHang, holds, awake]
  rfl

theorem effSliceHang_of_not_hung (excused : d.dmp.frozen.contains slice = true ∨ d.holdsWork e slice = false) :
    effSliceHang slice e d = d := by
  rcases excused with frozen | idle
  · rw [effSliceHang, frozen]
    rfl
  · rw [effSliceHang, idle, Bool.not_false, Bool.or_true]
    rfl

end Hang

/-- Settles O44: a scrubbed row without error and with one corrected, a summary that is due and one with nothing to report,
a Slice that is hung and one that is not. -/
theorem memoryFaultsAreCounted : Obligations.MemoryFaultsAreCounted := by
  rintro t slice bank s e rfl runs
  rw [exec_eccSummary, exec_sliceHang, act_eq, act_eq]
  refine ⟨fun awake => ⟨?_, fun none_before limit => ?_⟩, fun serves => ⟨fun found due => ?_, fun ce rows => ?_⟩,
    fun holds awake logic => ?_, fun excused => ?_⟩
  · rw [exec_patrolScrub, act_eq, effPatrolScrub_of_awake runs awake]
    rfl
  · have first : ((tget {} (s.dev.nextRow (2048 * slice + bank)).health.banks (2048 * slice + bank)).times.filter
        (fun now => (s.env.tick t).now < now + ceWindow)).length < ceLimit (s.env.tick t) := by
      simpa [Device.nextRow, none_before] using Nat.lt_of_succ_le limit
    rw [exec_patrolScrub, act_eq, effPatrolScrub_of_awake runs awake, List.foldl_cons, List.foldl_nil, Device.scrubRow,
      eccError_of_within_limit first]
    exact ⟨_, rfl, rfl, tget_tset_same _ _ _ _, rfl, rfl⟩
  · obtain ⟨payA, payB, reported⟩ := effEccSummary_of_due serves found due
    rw [reported]
    exact ⟨_, rfl, rfl, rfl, rfl, rfl, rfl, raise_lp _ _ _ _ _⟩
  · rw [effEccSummary_of_nothing ce rows]
  · rw [effSliceHang_of_hung holds awake, halt_of_running runs logic (by decide)]
    rfl
  · rw [effSliceHang_of_not_hung excused]

end Sys2Proof.Machine
end

section
/-! PROOFS. The end of an Oven chunk (R144, R145, R202), and of a poisoned one (R149, R230, Table 05.7). -/

namespace Sys2Proof.Machine

theorem exec_chunkEnd (t : Nat) (ecc : List EccReport) (s : State) :
    exec (.chunkEnd t ecc) s = s.act t (effChunkEnd ecc) := rfl

/-! ## The item at the front of the Oven's queue goes -/

theorem filter_zipIdx_pos {α : Type} (l : List α) (k : Nat) (h : 0 < k) :
    (l.zipIdx k).filter (fun x => x.2 != 0) = l.zipIdx k := by
  refine List.filter_eq_self.mpr fun x hx => ?_
  have := List.le_snd_of_mem_zipIdx hx
  simpa using (by omega : x.2 ≠ 0)

/-- Only the front item is dropped: those behind it stay in order. -/
theorem keepItems_tail_items {d : Device} {it : Item} {rest : List Item} (queue : d.oven.items = it :: rest) :
    (d.keepItems (fun k _ => k != 0)).oven.items = rest := by
  simp only [Device.keepItems, queue, List.zipIdx_cons, Nat.zero_add]
  rw [List.filter_cons_of_neg (by simp), filter_zipIdx_pos _ _ Nat.one_pos, List.zipIdx_map_fst]

/-- What an item that met no error did leaves the Oven's queue as it was. -/
theorem baked_queue_nonempty {d : Device} {it : Item} {rest : List Item} (queue : d.oven.items = it :: rest) (x : Bake)
    (e : Env) : (d.baked x e []).oven.items.isEmpty = false := by
  have stands : (d.baked x e []).oven = d.oven := rfl
  rw [stands, queue, List.isEmpty_cons]

/-! ## CHUNK_END -/

/-- The device as a chunk without error leaves the Oven, before its request takes the results: the item has left the queue
and is counted (R144). -/
def Device.chunkLeft (d : Device) (x : Bake) (e : Env) : Device :=
  let u := (d.baked x e []).keepItems (fun k _ => k != 0)
  { u with oven := { u.oven with chunks := sat lim32 (u.oven.chunks + 1) } }

theorem chunkLeft_items {d : Device} {it : Item} {rest : List Item} (queue : d.oven.items = it :: rest) (x : Bake)
    (e : Env) : (d.chunkLeft x e).oven.items = rest :=
  keepItems_tail_items (d := d.baked x e []) queue

section ChunkEnd
variable {e : Env} {d : Device} {i start stop : Nat} {rest : List Item} {x : Bake} (serves : d.serving e = true)
  (queue : d.oven.items = .chunk i start stop :: rest) (ran : x = d.bake (d.chunkWork e i start stop) [])
include serves queue ran

/-- A chunk waits for a streamed tensor. -/
theorem effChunkEnd_of_blocked (blocked : x.blocked = true) : effChunkEnd [] e d = d := by
  subst ran
  simp [effChunkEnd, queue, serves, blocked]

/-- A chunk without error: its request takes the results, if it still waits for them (R144, R202). -/
theorem effChunkEnd_of_clean (ready : x.blocked = false) : effChunkEnd [] e d =
    ((if (d.req i).going && (d.req i).chunk == some (start, stop) then
      (d.chunkLeft x e).chunkDone e i start stop x [] else d.chunkLeft x e).endUse e (.item i) x.used).fillOven e := by
  subst ran
  simp only [effChunkEnd, queue, serves, ready, baked_queue_nonempty queue]
  rfl

end ChunkEnd

/-! ## Poison that reaches a request (Table 05.7) -/

/-- u is d after losses: every request still goes or has ended as in d, the same changes wait for a boundary, and no
context's V has risen (R149). -/
structure Device.losesOnly (d u : Device) : Prop where
  going : ∀ i, (u.req i).going = (d.req i).going
  changes : u.kn.changes = d.kn.changes
  valid : ∀ c, (u.ctx c).valid ≤ (d.ctx c).valid

namespace Device.losesOnly
variable {d u v : Device}

theorem refl (d : Device) : d.losesOnly d := ⟨fun _ => rfl, rfl, fun _ => Nat.le_refl _⟩

theorem trans (h : d.losesOnly u) (k : u.losesOnly v) : d.losesOnly v :=
  ⟨fun i => (k.going i).trans (h.going i), k.changes.trans h.changes, fun c => Nat.le_trans (k.valid c) (h.valid c)⟩

/-- Requests, contexts and changes that stand. -/
theorem of_eq (reqs : u.reqs = d.reqs) (ctxs : u.ctxs = d.ctxs) (changes : u.kn.changes = d.kn.changes) :
    d.losesOnly u :=
  ⟨fun i => by rw [Device.req, reqs, Device.req], changes,
    fun c => Nat.le_of_eq (by rw [Device.ctx, ctxs, Device.ctx])⟩

/-- An update of one request that keeps whether it can still end. -/
theorem setReq {i : Nat} {r : Request} (keeps : r.going = (d.req i).going) : d.losesOnly (d.setReq i r) := by
  refine ⟨fun j => ?_, rfl, fun c => Nat.le_refl _⟩
  rw [req_setReq]
  split
  next h => rw [h, keeps]
  next => rfl

/-- An update of one context that does not raise its V. -/
theorem setCtx {c : Nat} {x : Context} (lower : x.valid ≤ (d.ctx c).valid) : d.losesOnly (d.setCtx c x) := by
  refine ⟨fun j => rfl, rfl, fun k => ?_⟩
  rw [ctx_setCtx]
  split
  next h => rw [h]; exact lower
  next => exact Nat.le_refl _

theorem foldl {α : Type} {f : Device → α → Device} (step : ∀ (d : Device) a, d.losesOnly (f d a)) (d : Device)
    (l : List α) : d.losesOnly (l.foldl f d) :=
  List.foldlRecOn (motive := d.losesOnly) l f (.refl d) fun u h a _ => h.trans (step u a)

end Device.losesOnly

theorem Device.sameButHomes.losesOnly {d u : Device} : d.sameButHomes u → d.losesOnly u := by
  rintro ⟨_, _, _, _, _, _, _, rfl⟩
  exact .of_eq rfl rfl rfl

theorem ite_losesOnly {d u v : Device} {c : Prop} [Decidable c] (hu : d.losesOnly u) (hv : d.losesOnly v) :
    d.losesOnly (if c then u else v) := by
  split
  · exact hu
  · exact hv

theorem charge_losesOnly (e : Env) (d : Device) (i : Nat) : d.losesOnly (d.charge e i) := by
  refine .trans (ite_losesOnly ?_ (ite_losesOnly ?_ (.refl d))) (.setReq rfl)
  · exact .of_eq rfl rfl rfl
  · exact .of_eq rfl rfl rfl

/-- A state from which a request can still end follows another such. -/
theorem setState_losesOnly (e : Env) {d : Device} {i : Nat} (goes : (d.req i).going = true) {st : ReqState}
    (on : st ≠ .free ∧ st ≠ .done ∧ st ≠ .failed) : d.losesOnly (d.setState e i st) := by
  obtain ⟨notFree, notDone, notFailed⟩ := on
  refine (charge_losesOnly e d i).trans (.setReq ?_)
  rw [req_charge_same]
  calc _ = true := by simp [Request.going, notFree, notDone, notFailed]
    _ = _ := goes.symm

/-- A request that goes back to the Oven goes on in REBUILD (R61). -/
theorem backToOven_losesOnly (e : Env) (d : Device) (i : Nat) : d.losesOnly (d.backToOven e i) := by
  by_cases goes : (d.req i).going = true
  · have rebuilds : d.losesOnly (((d.setState e i .rebuild).unseat i).dropTries i) :=
      (setState_losesOnly e goes (by decide)).trans (.of_eq rfl rfl rfl)
    exact ite_losesOnly (.refl d) (rebuilds.trans (.setReq rfl))
  · have ended : (d.req i).state = .free ∨ (d.req i).state = .done ∨ (d.req i).state = .failed := by
      simpa [Request.going, Decidable.or_iff_not_imp_left] using goes
    have stays : d.backToOven e i = d := by
      rcases ended with h | h | h <;> simp [Device.backToOven, h]
    rw [stays]
    exact .refl d

theorem lowerV_losesOnly (e : Env) (d : Device) (c v : Nat) : d.losesOnly (d.lowerV e c v) := by
  unfold Device.lowerV
  have lower : (if v < (d.ctx c).valid then v else (d.ctx c).valid) ≤ (d.ctx c).valid := by split <;> omega
  dsimp only
  split
  · exact .trans (.setCtx lower) (backToOven_losesOnly ..)
  · exact .setCtx lower

theorem releasePages_losesOnly (d : Device) (c : Nat) (which : Page → Bool) : d.losesOnly (d.releasePages c which) := by
  by_cases h : (d.ctx c).pages.filter which = []
  · rw [releasePages_of_none h]
    exact .refl d
  · rw [releasePages_of_some h]
    have homes := (homesReleased_sameButHomes d c ((d.ctx c).pages.filter which)).losesOnly
    refine (homes.trans ?_).trans (recount_sameButHomes _).losesOnly
    exact .setCtx (Nat.le_refl _)

theorem losePages_losesOnly (e : Env) (d : Device) (c : Nat) (which : Page → Bool) :
    d.losesOnly (d.losePages e c which) := by
  unfold Device.losePages
  dsimp only
  split
  · exact .refl d
  · exact (releasePages_losesOnly ..).trans (lowerV_losesOnly ..)

theorem freeSave_losesOnly (e : Env) (d : Device) (j : Job) : d.losesOnly (d.freeSave e j) := by
  unfold Device.freeSave
  split
  · exact .refl d
  · exact .of_eq rfl rfl rfl

theorem complete_losesOnly (e : Env) (d : Device) {c : Completion} (noEntry : c.request = none) :
    d.losesOnly (d.complete e c) :=
  .of_eq (complete_reqs d e c noEntry) (complete_ctxs d e c noEntry) (by rw [complete_kn d e c noEntry])

/-- The end of a job leaves requests and contexts as they are. -/
theorem endJob_losesOnly (e : Env) (d : Device) (j : Job) (st det : Nat) : d.losesOnly (d.endJob e j st det) := by
  have pays (c : Bool) (u : Device) (f : Tenant → Tenant) : u.losesOnly (if c then u.modTenant j.tenant f else u) :=
    ite_losesOnly (.of_eq rfl rfl rfl) (.refl u)
  have releases (u : Device) : u.losesOnly (if j.holds then u.releaseChip e else u) :=
    ite_losesOnly (.of_eq rfl rfl rfl) (.refl u)
  have leaves (u : Device) : u.losesOnly { u with kn := { u.kn with
      jobs := u.kn.jobs.filter (fun x => x.seq != j.seq) } } := .of_eq rfl rfl rfl
  exact (((((pays _ d _).trans (pays _ _ _)).trans (releases _)).trans (freeSave_losesOnly ..)).trans (leaves _)).trans
    (complete_losesOnly _ _ rfl)

theorem faultJobs_losesOnly (e : Env) (d : Device) (r : Nat) : d.losesOnly (d.faultJobs e r) := by
  refine .foldl (fun d j => ?_) d _
  split
  · exact .of_eq rfl rfl rfl
  · exact endJob_losesOnly ..

theorem wordsLost_losesOnly (e : Env) (d : Device) (r : Nat) : d.losesOnly (d.wordsLost e r) := by
  unfold Device.wordsLost
  split
  · refine .trans ?_ (faultJobs_losesOnly ..)
    exact .of_eq rfl rfl rfl
  · exact .refl d

theorem poisonTensors_losesOnly (e : Env) (d : Device) (r : Nat) (kv : Bool) :
    d.losesOnly (d.poisonTensors e r kv) := by
  unfold Device.poisonTensors
  dsimp only
  split
  · exact .of_eq rfl rfl rfl
  split
  · exact .refl d
  · exact wordsLost_losesOnly ..

/-- The further effects of poison end no request and raise no V. -/
theorem poisonEffects_losesOnly (e : Env) (d : Device) (i detail : Nat) (bad : List Nat) :
    d.losesOnly (d.poisonEffects e i detail bad) := by
  unfold Device.poisonEffects
  dsimp only
  split
  · exact losePages_losesOnly ..
  split
  · exact wordsLost_losesOnly ..
  split
  · exact (losePages_losesOnly ..).trans (poisonTensors_losesOnly ..)
  · exact .refl d

theorem applyChunkChanges_losesOnly (e : Env) {d : Device} (none_waits : d.kn.changes = []) (i : Nat) :
    d.losesOnly (d.applyChunkChanges e i) := by
  simp only [Device.applyChunkChanges, none_waits, List.filter_nil, List.foldl_nil]
  exact .of_eq rfl rfl none_waits.symm

@[simp] theorem dropDeficit_ctxs (d : Device) (t : Nat) : (d.dropDeficit t).ctxs = d.ctxs := by
  unfold Device.dropDeficit
  split <;> rfl

@[simp] theorem countDead_ctxs (d : Device) (status : Nat) : (d.countDead status).ctxs = d.ctxs := by
  unfold Device.countDead
  split <;> rfl

@[simp] theorem leave_ctxs (e : Env) (d : Device) (i status reason detail : Nat) :
    (d.leave e i status reason detail).ctxs = d.ctxs :=
  setState_ctxs d e i (if status = 0 then .done else .failed)

theorem valid_leaveCtx (e : Env) (d : Device) (r : Request) (c : Nat) :
    ((d.leaveCtx e r).ctx c).valid = (d.ctx c).valid := by
  unfold Device.leaveCtx
  split
  · rw [modCtx_eq, ctx_setCtx, (dropStagings_sameButHomes ..).ctx, (dropStagings_sameButHomes ..).ctx]
    split
    next same => rw [same]
    next => rfl
  · rfl

/-- The end of a request leaves every context's V (R61). -/
theorem valid_endReq {d : Device} {i : Nat} (going : (d.req i).going = true) (e : Env) (status reason detail c : Nat) :
    ((d.endReq e i status reason detail).ctx c).valid = (d.ctx c).valid := by
  have same_ctx {u v : Device} (h : v.ctxs = u.ctxs) : v.ctx c = u.ctx c := by rw [Device.ctx, h, Device.ctx]
  rw [endReq_of_going going, same_ctx (finishOut_ctxs ..), same_ctx (dropDeficit_ctxs ..), same_ctx (countDead_ctxs ..),
    valid_leaveCtx]
  exact congrArg Context.valid (same_ctx (leave_ctxs e d i status reason detail))

/-- A request that fails keeps the detail it fails with. -/
theorem detail_endReq {d : Device} {i : Nat} (going : (d.req i).going = true) (e : Env) {status : Nat}
    (failed : status ≠ 0) (reason detail : Nat) :
    ((d.endReq e i status reason detail).req i).detail = detail := by
  obtain ⟨u, same, closed⟩ := endReq_closes going e status reason detail
  obtain ⟨out, requests⟩ := req_finishOut e u i
  rw [closed, requests, if_pos rfl, same.req]
  have left : (d.leave e i status reason detail).req i = _ := req_setReq_same ..
  rw [left]
  exact if_neg failed

/-- A chunk's request as the Oven has done with it: it has no chunk running, and its positions are counted (R144). -/
def Request.chunkRun (r : Request) (n : Nat) : Request :=
  { r with chunk := none, oven := sat (2 ^ 23 - 1) (r.oven + n) }

/-- The device as the Oven has done with a request's chunk, its stagings used (R189). -/
def Device.chunkRun (d : Device) (e : Env) (i n : Nat) : Device :=
  let u := (d.charge e i).modReq i (fun r => r.chunkRun n)
  u.useStagings e (u.req i).context

theorem chunkRun_losesOnly (d : Device) (e : Env) (i n : Nat) : d.losesOnly (d.chunkRun e i n) :=
  have counted : d.losesOnly ((d.charge e i).modReq i (fun r => r.chunkRun n)) :=
    (charge_losesOnly e d i).trans (.setReq rfl)
  counted.trans (.of_eq rfl rfl rfl)

/-- A poisoned chunk: the effects of its poison, then its request ends with status 0x43 (R149, Table 05.7). -/
theorem chunkDone_of_poison (e : Env) (d : Device) (i start stop : Nat) {x : Bake} (poisoned : x.poison ≠ 0)
    (bad : List Nat) : d.chunkDone e i start stop x bad =
      ((((d.chunkRun e i (stop - start)).poisonEffects e i x.poison bad).applyChunkChanges e i).endReq e i 0x43 0
        x.poison) := by
  have found : (x.poison != 0) = true := by simpa using poisoned
  simp only [Device.chunkDone, found]
  rfl

/-- Settles O25: a chunk that waits, one whose request takes its results and one whose request no longer runs it; then a
poisoned chunk. -/
theorem chunkEndServesRequest : Obligations.ChunkEndServesRequest := by
  refine ⟨?_, ?_⟩
  · rintro t i start stop rest s e x d0 d rfl serves queue ran
    rw [exec_chunkEnd, act_eq]
    refine ⟨fun blocked => ?_, fun ready kept counted => ?_⟩
    · rw [effChunkEnd_of_blocked serves queue ran blocked]
    · have left : d = s.dev.chunkLeft x (s.env.tick t) := by rw [counted, kept, Device.chunkLeft]
      rw [effChunkEnd_of_clean serves queue ran ready, left]
      refine ⟨congrArg List.length (chunkLeft_items queue x _), rfl, fun going waits => ?_, fun gone => ?_⟩
      · rw [if_pos (by simp [going, waits])]
      · rw [if_neg (by simp [gone])]
  · intro e d i start stop x poisoned going none_waits
    have run := chunkRun_losesOnly d e i (stop - start)
    have spoiled := run.trans (poisonEffects_losesOnly e (d.chunkRun e i (stop - start)) i x.poison [])
    have lost := spoiled.trans (applyChunkChanges_losesOnly e (spoiled.changes.trans none_waits) i)
    have goes := (lost.going i).trans going
    obtain ⟨since, last, det, out, ended⟩ := req_endReq_same goes e 0x43 0 x.poison
    dsimp only
    rw [chunkDone_of_poison e d i start stop poisoned]
    refine ⟨?_, ?_, detail_endReq goes e (by decide) 0 x.poison, ?_⟩
    · rw [ended]; rfl
    · rw [ended]; rfl
    · rw [valid_endReq goes]
      exact lost.valid _

end Sys2Proof.Machine
end

section
/-! PROOFS. The records of an exclusive job (R153, R208, R209, R214). -/

namespace Sys2Proof.Machine

theorem exec_jobCommandBoundary (t : Nat) (done : RecordEnd) (s : State) :
    exec (.jobCommandBoundary t done) s = s.act t (effJobCommandBoundary done) := rfl

theorem exec_jobSliceEnd (t : Nat) (s : State) : exec (.jobSliceEnd t) s = s.act t effJobSliceEnd := rfl

theorem exec_commandOverrun (t h : Nat) (s : State) :
    exec (.commandOverrun t h) s = s.act t (effCommandOverrun h) := rfl

/-! ## The running job -/

theorem running_of_only {d : Device} {j : Job} (only : d.kn.jobs = [j]) (runs : j.state = .running) :
    d.running = some j := by
  simp [Device.running, only, runs]

theorem recordOf_of_some {d : Device} {j : Job} {r : JobRec} (h : (d.program j)[j.next]? = some r) :
    d.recordOf j = r := by
  simp [Device.recordOf, h]

/-- The only job takes what is set for it. -/
theorem setJob_of_only {d : Device} {j : Job} (only : d.kn.jobs = [j]) (k : Job) (same : j.seq = k.seq) :
    d.setJob k = { d with kn := { d.kn with jobs := [k] } } := by
  simp [Device.setJob, only, same]

/-! ## What a record leaves (R153) -/

/-- A record leaves the Kneader, the Oven's queue and the Recipes as they are. -/
theorem runRecord_keeps {e : Env} {d u : Device} {j : Job} {done : RecordEnd} (ran : d.runRecord e j done = some u) :
    u.kn = d.kn ∧ u.oven = d.oven ∧ u.recipes = d.recipes := by
  simp only [Device.runRecord] at ran
  split at ran
  · cases ran
    exact ⟨rfl, rfl, rfl⟩
  split at ran
  next => cases ran
  next =>
    cases ran
    exact ⟨rfl, rfl, rfl⟩

/-! ## JOB_COMMAND_BOUNDARY (Table 08.5) -/

/-- The job at its next record. -/
def Job.stepped (j : Job) : Job := { j with next := j.next + 1 }

/-- The device at the end of a record of its only job: the record's handshakes counted (R154), the job at its next record. -/
def Device.recordEnded (d : Device) (j : Job) (handshakes : Nat) : Device :=
  { d with oven := { d.oven with recordCount := sat lim32 handshakes }, kn := { d.kn with jobs := [j.stepped] } }

section Boundary
variable {e : Env} {d : Device} {j : Job} {done : RecordEnd} (serves : d.serving e = true) (only : d.kn.jobs = [j])
  (runs : j.state = .running)

section Served
variable (intime : done.handshakes ≤ 2 * recDuration (d.recordOf j).op)
include serves only runs intime

/-- A record waits for a streamed tensor. -/
theorem effJobCommandBoundary_of_waiting (waits : d.runRecord e j done = none) :
    effJobCommandBoundary done e d = d := by
  simp [effJobCommandBoundary, running_of_only only runs, serves, Nat.not_lt.mpr intime, waits]

/-- A record that ended within twice its declared duration is followed by what Table 08.5 says. -/
theorem effJobCommandBoundary_of_ran (clean : done.ecc = []) {u : Device} (ran : d.runRecord e j done = some u) :
    effJobCommandBoundary done e d = (u.setCount done.handshakes).nextRecord e j := by
  have runsOn : u.running = some j := running_of_only ((runRecord_keeps ran).1 ▸ only) runs
  have noReport (v : Device) : v.eccReports e [] = v := rfl
  simp [effJobCommandBoundary, running_of_only only runs, serves, Nat.not_lt.mpr intime, ran, clean, noReport, runsOn]

end Served

/-- A job that is being saved, its next slice shortened by the overrun of this one (R208, R210). -/
def Job.toSave (j : Job) (e : Env) : Job :=
  { j with state := .saving, remaining := (j.slice : Int) - ((e.now - j.sliceEnd : Nat) : Int) }

/-- The time that a job ran is charged to its tenant (Table 08.6). -/
def Device.chargeRun (e : Env) (d : Device) (j : Job) : Device :=
  d.modTenant j.tenant (fun t => { t with jobRun := sat lim64 (t.jobRun + (e.now - j.began)) })

/-- The save of a preempted job begins. -/
def Device.saveBegins (e : Env) (d : Device) (j : Job) : Device := (d.chargeRun e j).setJob (j.toSave e)

/-- Table 08.5: what follows a record's end, in the order of its checks. -/
theorem nextRecord_eq (e : Env) (d : Device) (j : Job) : d.nextRecord e j =
    let u := d.setJob j.stepped
    if j.fault then u.endJob e j.stepped 0x43 2
    else if j.revoked then u.endJob e j.stepped 0x50 1
    else if (d.program j).length ≤ j.next + 1 then u.endJob e j.stepped 0 0
    else if j.preempt || (j.slice != 0 && e.now > j.sliceEnd) then u.saveBegins e j.stepped
    else u.recordBegins e := rfl

include only in
/-- A job without fault or revocation at a record's end: at its program's end it ends DONE (R214), past its slice its save
begins (R208), and else it goes on. -/
theorem nextRecord_of_sound (sound : j.fault = false) (kept : j.revoked = false) (h : Nat) :
    (d.setCount h).nextRecord e j =
      if (d.program j).length ≤ j.next + 1 then (d.recordEnded j h).endJob e j.stepped 0 0
      else if j.preempt || (j.slice != 0 && e.now > j.sliceEnd) then (d.recordEnded j h).saveBegins e j.stepped
      else (d.recordEnded j h).recordBegins e := by
  have stepped : (d.setCount h).setJob j.stepped = d.recordEnded j h := setJob_of_only (d := d.setCount h) only _ rfl
  have program : (d.setCount h).program j = d.program j := rfl
  rw [nextRecord_eq, stepped, program, sound, kept]
  rfl

end Boundary

/-- What the begin of a save leaves of the only job, and of its memory. -/
theorem saveBegins_job {d : Device} {j : Job} (only : d.kn.jobs = [j]) (e : Env) :
    (d.saveBegins e j).kn.jobs = [j.toSave e] ∧ (d.saveBegins e j).jobMem = d.jobMem := by
  have charged : (d.chargeRun e j).kn.jobs = [j] := only
  rw [Device.saveBegins, setJob_of_only charged (j.toSave e) rfl]
  exact ⟨rfl, rfl⟩

/-! ## The slice end and the overrun (R208, R209) -/

section Running
variable {e : Env} {d : Device} {j : Job} (serves : d.serving e = true) (only : d.kn.jobs = [j])
  (runs : j.state = .running)
include only runs

theorem effJobSliceEnd_of_early (early : e.now ≤ j.sliceEnd) : effJobSliceEnd e d = d := by
  simp [effJobSliceEnd, running_of_only only runs, Nat.not_lt.mpr early]

theorem effCommandOverrun_of_intime {h : Nat} (intime : h ≤ 2 * recDuration (d.recordOf j).op) :
    effCommandOverrun h e d = d := by
  simp [effCommandOverrun, running_of_only only runs, Nat.not_lt.mpr intime]

include serves

theorem effJobSliceEnd_of_past (sliced : j.slice ≠ 0) (past : j.sliceEnd < e.now) :
    effJobSliceEnd e d = { d with kn := { d.kn with jobs := [{ j with preempt := true }] } } := by
  simp only [effJobSliceEnd, running_of_only only runs]
  rw [if_pos (by simp [serves, sliced, past])]
  exact setJob_of_only only _ rfl

theorem effCommandOverrun_of_past {h : Nat} (past : 2 * recDuration (d.recordOf j).op < h) :
    effCommandOverrun h e d = d.overrun e j h := by
  simp [effCommandOverrun, running_of_only only runs, serves, past]

end Running

/-- Settles O29: a record's end by what Table 08.5 asks in turn; then the slice end and the overrun, before their time and
past it. -/
theorem jobRecordsEndOnTimeOrOverrun : Obligations.JobRecordsEndOnTimeOrOverrun := by
  refine ⟨?_, ?_⟩
  · rintro t done s e j r d rfl serves only runs record intime sound kept clean
    rw [← recordOf_of_some record] at intime
    rw [exec_jobCommandBoundary, act_eq]
    refine ⟨fun waits => ?_, fun d0 ran ended => ?_⟩
    · rw [effJobCommandBoundary_of_waiting serves only runs intime waits]
    · obtain ⟨kneader, oven, recipes⟩ := runRecord_keeps ran
      have program : d0.program j = s.dev.program j := by
        rw [Device.program, Device.info, recipes]
        rfl
      have ended : d = d0.recordEnded j done.handshakes := by
        rw [ended, ← oven, ← kneader]
        rfl
      rw [effJobCommandBoundary_of_ran serves only runs intime clean ran,
        nextRecord_of_sound (kneader ▸ only) sound kept, program, ended]
      refine ⟨fun last => ?_, fun more unasked within => ?_, fun more sliced past => ?_⟩
      · rw [if_pos last]
        rfl
      · rw [if_neg (Nat.not_le.mpr more), if_neg (by simp [unasked]; omega)]
        rfl
      · obtain ⟨job, memory⟩ := saveBegins_job (d := d0.recordEnded j done.handshakes) (j := j.stepped) rfl
          (s.env.tick t)
        rw [if_neg (Nat.not_le.mpr more), if_pos (by simp [sliced, past])]
        exact ⟨_, _, rfl, job, rfl, rfl, rfl, memory⟩
  · rintro t h s e j rfl serves only runs
    rw [exec_jobSliceEnd, exec_commandOverrun, act_eq, act_eq]
    refine ⟨fun sliced past => ?_, fun early => ?_, fun past => ?_, fun intime => ?_⟩
    · rw [effJobSliceEnd_of_past serves only runs sliced past]
      exact ⟨_, rfl, rfl, rfl⟩
    · rw [effJobSliceEnd_of_early only runs early]
    · rw [effCommandOverrun_of_past serves only runs past]
      rfl
    · rw [effCommandOverrun_of_intime only runs intime]

end Sys2Proof.Machine
end

section
/-! PROOFS. EMBED (R151, R302) and the end of its row groups (R152). -/

namespace Sys2Proof.Machine

theorem exec_embed (t ring : Nat) (hostOk : Bool) (s : State) : exec (.embed t ring hostOk) s =
    s.act t (fun e d => if d.jobHolds then d else onDesc ring 0x20 (effEmbed hostOk) e d) := rfl

theorem exec_embedRowGroupEnd (t : Nat) (ecc : List EccReport) (s : State) :
    exec (.embedRowGroupEnd t ecc) s = s.act t (effRowGroupEnd ecc) := rfl

/-! ## EMBED -/

/-- The item that a span gives: the bytes of a text to be tokenised, or the words of a span of tokens (R151). -/
def Device.embedPart (d : Device) (x : Span) : Part :=
  if x.type ≤ 1 then .text (x.type == 1) (d.hostRead x.addr x.len) else .words (d.spanWords x)

/-- The bytes of text that EMBED's spans give. -/
theorem partsText_embedParts (d : Device) (ss : List Span) : partsText (ss.map d.embedPart) =
    (ss.map (fun x => if x.type ≤ 1 then (d.hostRead x.addr x.len).length else 0)).sum := by
  rw [partsText, List.map_map]
  congr 1
  refine List.map_congr_left fun x _ => ?_
  by_cases text : x.type ≤ 1 <;> simp [Device.embedPart, text]

/-- EMBED as it is taken in, its text still to go through the Mill. -/
def Device.embedJob (d : Device) (e : Env) (f : Fetched) (v : Nat) (ss : List Span) : EmbedJob :=
  { seq := f.seq, ring := f.ring.getD 0, cookie := f.cookie, tenant := f.tenant, priority := f.priority
    recipe := f.recipe, adapter := f.adapter, version := v, order := d.kn.order, admitted := e.now, out := f.w 4
    parts := ss.map d.embedPart, textLeft := partsText (ss.map d.embedPart), tokens := [], groups := [], left := 0
    postedAt := [], items := ss.length, capacity := bits (f.w 5) 39 0, packed := f.packed }

/-- The device with an EMBED in flight, the next in admission order. -/
def Device.embedWaits (d : Device) (x : EmbedJob) : Device :=
  { d with kn := { d.kn with order := d.kn.order + 1 }, oven := { d.oven with embeds := d.oven.embeds ++ [x] } }

/-- A sound EMBED with text waits for the Mill (R302). -/
theorem effEmbed_of_text {d : Device} {f : Fetched} {v : Nat} {ss : List Span}
    (hss : ss = d.spans (f.w 2) (bits (f.w 3) 15 0)) (fits : textOver ss = false)
    (recipe : d.recipeFault f.recipe = none) (adapter : d.adapterFault f.recipe f.adapter f.version = .inr v)
    (sound : d.embedFault (d.millOf f.recipe) ss = none) (text : partsText (ss.map d.embedPart) ≠ 0) (e : Env) :
    effEmbed true e d f = d.embedWaits (d.embedJob e f v ss) := by
  subst hss
  simp only [effEmbed, fits, recipe, adapter, sound]
  exact if_neg text

/-! ## EMBED_ROW_GROUP_END -/

/-- The last sound row group of an EMBED: its records are written, and the descriptor completes DONE with the bytes of all
its records (R152). -/
theorem groupDone_of_last {x : EmbedJob} (last : x.left = 1) (e : Env) (d : Device) (items : List Nat)
    (vs : List (List Byte)) : d.groupDone e x items 0 vs =
      (d.writeRecords x items vs).endEmbed e { x with left := 0, postedAt := x.postedAt.drop 1 } 0 0
        (x.items * embedRecord ((d.writeRecords x items vs).info x.recipe)) := by
  rw [Device.groupDone, last]
  rfl

section RowGroup
variable {e : Env} {d : Device} {seq n : Nat} {items : List Nat} {rest : List Item} {x : EmbedJob} {y : Bake}
  (serves : d.serving e = true) (link : d.hif.linkUp = true) (queue : d.oven.items = .rows seq n items :: rest)
  (only : d.oven.embeds = [x]) (own : x.seq = seq) (ran : y = d.bake (x.work e items) [])
include serves link queue only own ran

/-- A row group waits for a streamed tensor. -/
theorem effRowGroupEnd_of_blocked (blocked : y.blocked = true) : effRowGroupEnd [] e d = d := by
  subst ran
  simp [effRowGroupEnd, queue, serves, link, only, own, blocked]

/-- A row group without error: its EMBED takes the results (R152, R202). -/
theorem effRowGroupEnd_of_clean (ready : y.blocked = false) : effRowGroupEnd [] e d =
    ((((d.baked y e []).keepItems (fun k _ => k != 0)).groupDone e x items y.poison
      (y.vectors (x.work e items))).endUse e (.item (1048576 + seq)) y.used).fillOven e := by
  subst ran
  simp [effRowGroupEnd, queue, serves, link, only, own, ready, baked_queue_nonempty queue]

end RowGroup

/-- Settles O33: EMBED with text; then a row group that waits and the last sound one. -/
theorem embedQueuesAndEnds : Obligations.EmbedQueuesAndEnds := by
  refine ⟨?_, ?_⟩
  · rintro t ring v s e f d rfl free taken ss hss fits recipe adapter sound text
    rw [← partsText_embedParts] at text
    rw [exec_embed, act_eq, if_neg (by simp [free]), onDesc_some _ taken,
      effEmbed_of_text hss fits recipe adapter sound text]
    exact ⟨_, _, rfl, rfl, rfl, rfl, rfl, rfl, rfl, rfl, rfl, rfl, take_host (d' := d) taken⟩
  · rintro t seq n items rest s e x y d rfl serves link queue only own ran
    rw [exec_embedRowGroupEnd, act_eq]
    refine ⟨fun blocked => ?_, fun ready sound last kept => ?_⟩
    · rw [effRowGroupEnd_of_blocked serves link queue only own ran blocked]
    · rw [effRowGroupEnd_of_clean serves link queue only own ran ready, sound, groupDone_of_last last, kept]

end Sys2Proof.Machine
end

section
/-! PROOFS. Exclusive jobs from grant to save: JOB_GRANT and JOB_REVOKE (R205, R213), the start (R207, R208), the save
(R210, R211). -/

namespace Sys2Proof.Machine

theorem exec_jobGrant (t ring : Nat) (s : State) :
    exec (.jobGrant t ring) s = s.act t (onDesc ring 0x12 effJobGrant) := rfl

theorem exec_jobRevoke (t ring : Nat) (s : State) :
    exec (.jobRevoke t ring) s = s.act t (onDesc ring 0x13 effJobRevoke) := rfl

theorem exec_jobStart (t : Nat) (ok : Bool) (s : State) : exec (.jobStart t ok) s = s.act t (effJobStart ok) := rfl

theorem exec_jobSaveDone (t : Nat) (ok : Bool) (s : State) :
    exec (.jobSaveDone t ok) s = s.act t (effJobSaveDone ok) := rfl

/-! ## A run of bytes copied (R210) -/

/-- What a copied run reads as: the source's bytes where it lies, and the target's elsewhere. -/
theorem mread_copyInto (src dst : Memory) (a n b i : Nat) : mread 0 (copyInto src a n dst b) i =
    if b ≤ i ∧ i < b + n then mread 0 src (a + (i - b)) else mread 0 dst i := by
  induction src with
  | nil => exact mread_mclear ..
  | cons c r ih =>
    obtain ⟨k, v⟩ := c
    have copied : copyInto ((k, v) :: r) a n dst b =
        if a ≤ k ∧ k < a + n then mwrite 0 (copyInto r a n dst b) (b + (k - a)) v else copyInto r a n dst b := by
      by_cases inside : a ≤ k ∧ k < a + n <;> simp [copyInto, inside]
    have first : mread 0 ((k, v) :: r) (a + (i - b)) = if k = a + (i - b) then v else mread 0 r (a + (i - b)) := rfl
    rw [copied, first]
    split
    · rw [mread_mwrite, ih]
      grind
    · rw [ih]
      grind

/-! ## JOB_GRANT, JOB_REVOKE -/

/-- The job that a grant queues (R205). -/
def Device.grantedJob (d : Device) (e : Env) (f : Fetched) : Job :=
  { seq := f.seq, ring := f.ring.getD 0, cookie := f.cookie, tenant := f.tenant, recipe := f.recipe
    program := bits (f.w 3) 15 0, slice := bits (f.w 2) 47 0, argAddr := f.w 4, argLen := bits (f.w 5) 31 0
    packed := f.packed, ready := e.now, order := d.kn.order, state := .queued, slot := none, next := 0, saves := 0
    remaining := bits (f.w 2) 47 0, sliceEnd := 0, began := 0, preempt := false, revoked := false, fault := false }

/-- The device with one more job, the next in admission order. -/
def Device.queueJob (d : Device) (j : Job) : Device :=
  { d with kn := { d.kn with jobs := d.kn.jobs ++ [j], order := d.kn.order + 1 } }

section Grant
variable {d : Device} {f : Fetched} (recipe : d.recipeFault f.recipe = none) (e : Env)
include recipe

/-- A held tenant gets no job (R200). -/
theorem effJobGrant_of_held (held : (d.tenant f.tenant).held = true) :
    effJobGrant e d f = d.completeD e f 0x13 0 0 := by
  simp [effJobGrant, recipe, held]

theorem effJobGrant_of_sound (free : (d.tenant f.tenant).held = false)
    (has : bits (f.w 3) 15 0 < (d.info f.recipe).jobs.length) (low : bits (f.w 3) 15 0 ≤ 63)
    (slice : bits (f.w 2) 47 0 = 0 ∨ 1000000 ≤ bits (f.w 2) 47 0) (block : bits (f.w 5) 31 0 ≤ 65536)
    (slots : saveSlots e ≠ 0) : effJobGrant e d f = d.queueJob (d.grantedJob e f) := by
  have sound : ¬ (decide (bits (f.w 3) 15 0 ≥ (d.info f.recipe).jobs.length) || decide (bits (f.w 3) 15 0 > 63)
      || (bits (f.w 2) 47 0 != 0 && decide (bits (f.w 2) 47 0 < 1000000)) || decide (bits (f.w 5) 31 0 > 65536)
      || decide (saveSlots e = 0)) = true := by
    simp only [Bool.or_eq_true, Bool.and_eq_true, decide_eq_true_eq, bne_iff_ne]
    omega
  simp only [effJobGrant, recipe, free]
  exact if_neg sound

end Grant

section Revoke
variable {d : Device} {f : Fetched} (e : Env)

/-- A revoke that names no live job. -/
theorem effJobRevoke_of_none (gone : ∀ j ∈ d.kn.jobs, j.cookie ≠ bits (f.w 2) 31 0) :
    effJobRevoke e d f = d.completeD e f 0 1 0 := by
  have unnamed : d.kn.jobs.filter (fun j => j.cookie == bits (f.w 2) 31 0) = [] :=
    List.filter_eq_nil_iff.mpr fun j hj => by simpa using gone j hj
  simp [effJobRevoke, unnamed, leastBy]

/-- A revoke of the only job: a running one is marked, any other one ends (R213). -/
theorem effJobRevoke_of_only {j : Job} (only : d.kn.jobs = [j]) (named : j.cookie = bits (f.w 2) 31 0) :
    effJobRevoke e d f = if j.state == .running then (d.completeD e f 0 0 0).setJob { j with revoked := true }
      else (d.completeD e f 0 0 0).endJob e j 0x50 1 := by
  simp [effJobRevoke, only, named, leastBy]

end Revoke

/-- Settles O27: a grant of a sound job and one of a held tenant; a revoke of the only job and one that names none. -/
theorem jobGrantQueuesRevokeEnds : Obligations.JobGrantQueuesRevokeEnds := by
  refine ⟨?_, ?_⟩
  · rintro t ring s e f d rfl taken recipe
    rw [exec_jobGrant, act_onDesc_of_take taken]
    refine ⟨fun free has low slice block slots => ?_, fun held => ?_⟩
    · rw [effJobGrant_of_sound recipe _ free has low slice block slots]
      exact ⟨_, _, rfl, rfl, rfl, rfl, rfl, rfl, rfl, rfl, rfl, rfl, rfl, rfl, take_host (d' := d) taken, rfl⟩
    · rw [effJobGrant_of_held recipe _ held]
  · rintro t ring s e f d rfl taken
    rw [exec_jobRevoke, act_onDesc_of_take taken]
    refine ⟨fun j only named => ?_, fun gone => ?_⟩
    · rw [effJobRevoke_of_only _ only named]
      refine ⟨fun waits => ?_, fun runs => ?_⟩
      · rw [if_neg (by simpa using waits)]
      · have still : (d.completeD (s.env.tick t) f 0 0 0).kn.jobs = [j] := by rw [completeD_kn, only]
        rw [if_pos (by simp [runs]), setJob_of_only still { j with revoked := true } rfl]
        exact ⟨_, rfl, rfl⟩
    · rw [effJobRevoke_of_none _ gone]

/-! ## The start (Table 08.1, steps 4 and 5) -/

/-- The next slice of a job that starts, in ns: the first in full, a later one as its save left it (R208). -/
def Job.nextSlice (j : Job) : Int := if 0 < j.saves then j.remaining else j.slice

/-- A job as it starts. -/
def Job.started (j : Job) (e : Env) : Job :=
  { j with state := .running, began := e.now, preempt := j.slice != 0 && decide (j.nextSlice ≤ 0)
           sliceEnd := if j.slice = 0 then 0 else e.now + j.nextSlice.toNat }

/-- What a job that starts finds in its memory: its argument block, or what it saved (R207, R210). -/
def Device.startMemory (e : Env) (d : Device) (j : Job) : Memory :=
  if 0 < j.saves then copyInto d.lp (slotAddr e (j.slot.getD 0)) jobBytes [] 0
  else mwrites 0 [] 0 (d.hostRead j.argAddr j.argLen)

/-- The time that a job waited since it was ready is charged to its tenant as queue waiting time (R216). -/
def Device.chargeWait (e : Env) (d : Device) (j : Job) : Device :=
  d.modTenant j.tenant (fun t => { t with queueWait := sat lim64 (t.queueWait + (e.now - j.ready)) })

/-- The device with a job's memory. -/
def Device.withJobMem (d : Device) (m : Memory) : Device := { d with jobMem := m }

/-- A job starts on what it finds. -/
def Device.jobStarts (e : Env) (d : Device) (j : Job) : Device :=
  (((d.chargeWait e j).withJobMem (d.startMemory e j)).setJob (j.started e)).recordBegins e

/-- The only job starts once the Oven and the Sifter are idle (R155, R325). -/
theorem effJobStart_of_idle {e : Env} {d : Device} {j : Job} (serves : d.serving e = true) (oven : d.oven.items = [])
    (sifter : ∀ q ∈ d.sift.queries, q.ctx = none) (only : d.kn.jobs = [j]) (takes : j.state = .taking)
    (program : d.program j ≠ []) : effJobStart true e d = d.jobStarts e j := by
  have idle : ¬ (!d.serving e || !d.oven.items.isEmpty || d.sift.queries.any (fun q => q.ctx.isSome)) = true := by
    simpa [serves, oven] using sifter
  have found : d.kn.jobs.find? (fun j => j.state == .taking) = some j := by simp [only, takes]
  have more : ¬ (d.program j).isEmpty = true := by simpa using program
  rw [effJobStart, if_neg idle, found]
  by_cases saved : 0 < j.saves
  · simp only [Device.jobStarts, Device.startMemory, Job.started, Job.nextSlice, gt_iff_lt, saved, if_true]
    exact if_neg more
  · simp only [Device.jobStarts, Device.startMemory, Job.started, Job.nextSlice, gt_iff_lt, saved, if_false]
    exact if_neg more

/-- A saved job's memory is what its save slot holds, byte by byte. -/
theorem startMemory_of_saved {j : Job} (saved : 0 < j.saves) (e : Env) (d : Device) {o : Nat} (ho : o < jobBytes) :
    mread 0 (d.startMemory e j) o = mread 0 d.lp (slotAddr e (j.slot.getD 0) + o) := by
  rw [Device.startMemory, if_pos saved, mread_copyInto, if_pos (by omega), Nat.sub_zero]

theorem startMemory_of_new {j : Job} (fresh : j.saves = 0) (e : Env) (d : Device) :
    d.startMemory e j = mwrites 0 [] 0 (d.hostRead j.argAddr j.argLen) := by
  rw [Device.startMemory, if_neg (by omega)]

/-- What a start leaves of the only job. -/
theorem jobStarts_of_only {d : Device} {j : Job} (only : d.kn.jobs = [j]) (e : Env) :
    (d.jobStarts e j).kn.jobs = [j.started e] := by
  have charged : ((d.chargeWait e j).withJobMem (d.startMemory e j)).kn.jobs = [j] := only
  rw [Device.jobStarts, setJob_of_only charged (j.started e) rfl]
  rfl

/-- Settles O28: the start, its memory by whether the job was saved before. -/
theorem jobStartLoadsMemory : Obligations.JobStartLoadsMemory := by
  rintro t s e j rfl serves oven sifter only takes program
  rw [exec_jobStart, act_eq, effJobStart_of_idle serves oven sifter only takes program]
  exact ⟨_, rfl, fun fresh => startMemory_of_new fresh _ _, fun saved _ ho => startMemory_of_saved saved _ _ ho,
    ⟨_, jobStarts_of_only only _, rfl, rfl, rfl, rfl⟩, rfl, rfl⟩

/-! ## The save (Table 08.2, steps 3 to 6) -/

/-- LPDDR5X with a job's memory in its save slot, the header after it (Tables 08.3, 08.4). -/
def Device.savedInto (e : Env) (d : Device) (j : Job) : Memory :=
  let a := slotAddr e (j.slot.getD 0)
  mwrites 0 (copyInto d.jobMem 0 jobBytes d.lp a) (a + jobBytes) (j.header e.now)

/-- A job that has been saved. -/
def Job.saved (j : Job) (e : Env) : Job :=
  { j with state := .saved, saves := j.saves + 1, ready := e.now, preempt := false }

/-- The device with the contents of its LPDDR5X. -/
def Device.withLp (d : Device) (m : Memory) : Device := { d with lp := m }

@[simp] theorem withLp_kn (d : Device) (m : Memory) : (d.withLp m).kn = d.kn := rfl
@[simp] theorem withLp_lp (d : Device) (m : Memory) : (d.withLp m).lp = m := rfl
@[simp] theorem setJob_lp (d : Device) (j : Job) : (d.setJob j).lp = d.lp := rfl
@[simp] theorem setJob_tenant (d : Device) (j : Job) (n : Nat) : (d.setJob j).tenant n = d.tenant n := rfl
@[simp] theorem releaseChip_lp (d : Device) (e : Env) : (d.releaseChip e).lp = d.lp := rfl
@[simp] theorem releaseChip_jobs (d : Device) (e : Env) : (d.releaseChip e).kn.jobs = d.kn.jobs := rfl
@[simp] theorem releaseChip_tenant (d : Device) (e : Env) (n : Nat) : (d.releaseChip e).tenant n = d.tenant n := rfl

/-- A preemption of a job is counted for its tenant (R216). -/
def Device.countJobPreempted (d : Device) (j : Job) : Device :=
  d.modTenant j.tenant (fun t => { t with jobPreempted := sat lim32 (t.jobPreempted + 1) })

/-- A save is complete: the slot written, the job saved and its preemption counted. -/
def Device.saveEnds (e : Env) (d : Device) (j : Job) : Device :=
  ((d.withLp (d.savedInto e (j.saved e))).countJobPreempted j).setJob (j.saved e)

theorem effJobSaveDone_of_only {e : Env} {d : Device} {j : Job} (serves : d.serving e = true) (only : d.kn.jobs = [j])
    (saves : j.state = .saving) : effJobSaveDone true e d = (d.saveEnds e j).releaseChip e := by
  have found : d.kn.jobs.find? (fun j => j.state == .saving) = some j := by simp [only, saves]
  simp only [effJobSaveDone, found, serves]
  rfl

theorem length_jobHeader (j : Job) (now : Nat) : (j.header now).length = 64 := by simp [Job.header]

section SaveSlot
variable (e : Env) (d : Device) (j : Job)

/-- The save slot holds the job's memory from its first byte on. -/
theorem savedInto_memory {o : Nat} (ho : o < jobBytes) :
    mread 0 (d.savedInto e j) (slotAddr e (j.slot.getD 0) + o) = mread 0 d.jobMem o := by
  rw [Device.savedInto, mread_mwrites, if_neg (by omega), mread_copyInto, if_pos (by omega), Nat.add_sub_cancel_left,
    Nat.zero_add]

/-- Memory and header aside, a save writes nothing. -/
theorem savedInto_outside {a : Nat}
    (outside : a < slotAddr e (j.slot.getD 0) ∨ slotAddr e (j.slot.getD 0) + jobBytes + 64 ≤ a) :
    mread 0 (d.savedInto e j) a = mread 0 d.lp a := by
  rw [Device.savedInto, mread_mwrites, length_jobHeader, if_neg (by omega), mread_copyInto, if_neg (by omega)]

end SaveSlot

theorem saveEnds_lp (e : Env) (d : Device) (j : Job) : (d.saveEnds e j).lp = d.savedInto e (j.saved e) := by
  rw [Device.saveEnds, setJob_lp, Device.countJobPreempted, modTenant_lp, withLp_lp]

/-- What a save leaves of the only job. -/
theorem saveEnds_jobs {d : Device} {j : Job} (only : d.kn.jobs = [j]) (e : Env) :
    (d.saveEnds e j).kn.jobs = [j.saved e] := by
  have counted : ((d.withLp (d.savedInto e (j.saved e))).countJobPreempted j).kn.jobs = [j] := by
    rw [Device.countJobPreempted, modTenant_kn, withLp_kn, only]
  rw [Device.saveEnds, setJob_of_only counted (j.saved e) rfl]

theorem saveEnds_jobPreempted (e : Env) (d : Device) (j : Job) :
    ((d.saveEnds e j).tenant j.tenant).jobPreempted = sat lim32 ((d.tenant j.tenant).jobPreempted + 1) := by
  rw [Device.saveEnds, setJob_tenant, Device.countJobPreempted, tenant_modTenant, if_pos rfl, Device.tenant, withLp_kn,
    Device.tenant]

/-- Settles O30: the save, each byte by whether it lies in the slot. -/
theorem saveKeepsJobMemory : Obligations.SaveKeepsJobMemory := by
  rintro t s e j rfl serves only saves
  rw [exec_jobSaveDone, act_eq, effJobSaveDone_of_only serves only saves]
  refine ⟨_, rfl, fun o ho => ?_, fun a outside => ?_, rfl, rfl,
    ⟨j.saved (s.env.tick t), ?_, rfl, rfl, rfl, rfl⟩, ?_⟩
  · rw [releaseChip_lp, saveEnds_lp]
    exact savedInto_memory _ s.dev (j.saved _) ho
  · rw [releaseChip_lp, saveEnds_lp]
    exact savedInto_outside _ s.dev (j.saved _) outside
  · rw [releaseChip_jobs, saveEnds_jobs only]
  · rw [releaseChip_tenant, saveEnds_jobPreempted]

end Sys2Proof.Machine
end

section
/-! PROOFS. TENANT_SET (R200): its command, what it leaves at the boundary, what a held tenant is refused (R33). -/

namespace Sys2Proof.Machine

theorem exec_tenantSet (t ring : Nat) (s : State) :
    exec (.tenantSet t ring) s = s.act t (onDesc ring 0x10 effTenantSet) := rfl

/-! ## The change at the boundary -/

/-- A tenant with the policy that a TENANT_SET gives it; its deficits and its use stand (R200). -/
def Tenant.withPolicy (t : Tenant) (f : Fetched) : Tenant :=
  { t with weight := bits (f.w 2) 15 0, held := bit (f.w 2) 16, budget := bits (f.w 2) 63 32 }

theorem applyChange_tenantSet (e : Env) (d : Device) (f : Fetched) : d.applyChange e (.tenantSet f) =
    (d.modTenant f.tenant (fun t => t.withPolicy f)).completeD e f 0 0 0 := rfl

theorem tenant_completeD (e : Env) (d : Device) (f : Fetched) (st det res n : Nat) :
    (d.completeD e f st det res).tenant n = d.tenant n := by
  rw [Device.tenant, completeD_kn, Device.tenant]

/-- The tenants after a TENANT_SET. -/
theorem tenant_applyChange_tenantSet (e : Env) (d : Device) (f : Fetched) (n : Nat) :
    (d.applyChange e (.tenantSet f)).tenant n =
      if n = f.tenant then (d.tenant f.tenant).withPolicy f else d.tenant n := by
  rw [applyChange_tenantSet, tenant_completeD, tenant_modTenant]

theorem tenant_of_never_set {d : Device} {n : Nat} (never : tfind d.kn.tenants n = none) : d.tenant n = {} := by
  rw [Device.tenant, tget_eq_tfind, never, Option.getD_none]

/-- Settles O21: the command, the change at the boundary, a tenant never set, a held tenant's refusals. -/
theorem tenantSettingsAndBudgets : Obligations.TenantSettingsAndBudgets := by
  refine ⟨?_, ?_, ?_, ?_⟩
  · rintro t ring s e f d rfl taken
    rw [exec_tenantSet, act_onDesc_of_take taken]
    rfl
  · intro e d f
    have own := tenant_applyChange_tenantSet e d f f.tenant
    rw [if_pos rfl] at own
    have reqs : (d.applyChange e (.tenantSet f)).reqs = d.reqs := by
      rw [applyChange_tenantSet, completeD_reqs, modTenant_reqs]
    dsimp only
    rw [own]
    refine ⟨rfl, rfl, rfl, rfl, rfl, rfl, fun n other => ?_, reqs, ?_, ?_⟩
    · rw [tenant_applyChange_tenantSet, if_neg other]
    · rw [Device.candidates, reqs, Device.candidates]
    · rw [applyChange_tenantSet, completeD_kn, modTenant_kn]
  · intro d n never
    rw [tenant_of_never_set never]
  · rintro t ring s e f d rfl held recipe
    refine ⟨fun taken => ?_, fun taken text adapter epoch => ?_⟩
    · rw [exec_jobGrant, act_onDesc_of_take taken, effJobGrant_of_held recipe _ held]
    · have refused : d.admissionFault f = some (0x13, 0) := by
        rw [admissionFault_after_epoch text recipe adapter epoch, if_pos held]
      rw [exec_generate, act_onDesc_of_take taken, effGenerate_of_fault _ refused]

end Sys2Proof.Machine
end

section
/-! PROOFS. Boundaries (R194, R197, R206, R207). -/

namespace Sys2Proof.Machine

theorem exec_bakeStepBoundary (t : Nat) (s : State) :
    exec (.bakeStepBoundary t) s = s.act t effBakeStepBoundary := rfl

theorem exec_idleBoundary (t : Nat) (s : State) : exec (.idleBoundary t) s = s.act t effIdleBoundary := rfl

theorem exec_heldBoundary (t : Nat) (s : State) : exec (.heldBoundary t) s = s.act t effHeldBoundary := rfl

/-! ## The lines of R194 -/

/-- The lines of R194 after the deadlines, with no job eligible. -/
def Device.seatLines (e : Env) (d : Device) : Device := (((d.serveFetch e).settle e).fillOven e).background e

/-- The decode of the seated list begins, and with it a bake step, when some sequence is seated (R194, R197). -/
def Device.decodeBegins (e : Env) (d : Device) : Device :=
  { d with kn := { d.kn with
      decoding := !d.kn.seats.isEmpty, step := d.kn.step + b2n (!d.kn.seats.isEmpty)
      workAt := if d.kn.seats.isEmpty then d.kn.workAt else e.now } }

section Lines
variable {e : Env} {d : Device}

theorem boundary_of_no_job (free : (d.boundaryStart e).eligibleJob e = none) :
    d.boundary e = (((d.boundaryStart e).seatLines e).decodeBegins e).triggers.boundaryEnd e := by
  have begins (u : Device) : u.decodeBegins e = { u with kn := { u.kn with
      decoding := !u.kn.seats.isEmpty, step := u.kn.step + b2n (!u.kn.seats.isEmpty)
      workAt := if !u.kn.seats.isEmpty then e.now else u.kn.workAt } } := by
    rw [Device.decodeBegins]
    cases u.kn.seats.isEmpty <;> rfl
  simp only [Device.boundary, free]
  rw [begins]
  rfl

theorem boundary_of_job {j : Job} (eligible : (d.boundaryStart e).eligibleJob e = some j) :
    d.boundary e = ((d.boundaryStart e).takeChip e j).boundaryEnd e := by
  simp only [Device.boundary, eligible]

section Free
variable (between : d.atBoundary e = true) (free : d.jobHolds = false)
include between free

theorem effBakeStepBoundary_of_free : effBakeStepBoundary e d = d.boundary e := by
  simp [effBakeStepBoundary, between, free]

theorem effIdleBoundary_of_free (idle : d.kn.seats = []) : effIdleBoundary e d = d.boundary e := by
  simp [effIdleBoundary, between, free, idle]

end Free

section Held
variable (held : d.jobHolds = true)
include held

theorem effBakeStepBoundary_of_held : effBakeStepBoundary e d = d := by simp [effBakeStepBoundary, held]

theorem effIdleBoundary_of_held : effIdleBoundary e d = d := by simp [effIdleBoundary, held]

theorem effHeldBoundary_of_held (serves : d.serving e = true) :
    effHeldBoundary e d = ((d.boundaryStart e).lostEvents e).snapshot e := by
  simp [effHeldBoundary, serves, held]

end Held
end Lines

/-! ## What follows the begin of the decode leaves the seats and the decode -/

/-- The seats and the decode are the same. -/
def Device.sameSeats (d u : Device) : Prop := u.kn.seats = d.kn.seats ∧ u.kn.decoding = d.kn.decoding

namespace Device.sameSeats
variable {d u v : Device}

theorem trans (h : d.sameSeats u) (k : u.sameSeats v) : d.sameSeats v := ⟨k.1.trans h.1, k.2.trans h.2⟩

theorem of_kn (h : u.kn = d.kn) : d.sameSeats u := ⟨by rw [h], by rw [h]⟩

end Device.sameSeats

/-- A fold of steps that leave the Kneader leaves it. -/
theorem foldl_kn {α : Type} {f : Device → α → Device} (step : ∀ (d : Device) a, (f d a).kn = d.kn) (d : Device)
    (l : List α) : (l.foldl f d).kn = d.kn :=
  List.foldlRecOn (motive := fun u : Device => u.kn = d.kn) l f rfl fun u h a _ => (step u a).trans h

theorem wantTensor_kn (d : Device) (r i : Nat) (who : Requester) : (d.wantTensor r i who).kn = d.kn := by
  unfold Device.wantTensor
  dsimp only
  split
  · rfl
  · split <;> rfl

theorem triggers_kn (d : Device) : d.triggers.kn = d.kn := by
  refine foldl_kn (fun u r => ?_) _ _
  split
  · rfl
  · refine foldl_kn (fun v i => ?_) _ _
    dsimp only
    split
    · rfl
    · exact wantTensor_kn ..

theorem reclaimEvent_sameSeats (e : Env) (d : Device) : d.sameSeats (d.reclaimEvent e) := by
  unfold Device.reclaimEvent
  dsimp only
  split
  · exact .of_kn rfl
  · constructor <;> dsimp only <;> rw [raise_kn]

theorem fallbackEvent_sameSeats (e : Env) (d : Device) : d.sameSeats (d.fallbackEvent e) := by
  unfold Device.fallbackEvent
  split
  · exact .of_kn rfl
  · exact .of_kn (raise_kn ..)

theorem lostEvents_sameSeats (e : Env) (d : Device) : d.sameSeats (d.lostEvents e) :=
  have told : (d.lostEvents e).kn = { d.kn with lost := [] } := foldl_kn (fun _ _ => raise_kn ..) _ _
  ⟨by rw [told], by rw [told]⟩

theorem writeSummary_kn (e : Env) (d : Device) (f : Fetched) : (d.writeSummary e f).kn = d.kn := by
  unfold Device.writeSummary
  dsimp only
  rw [completeD_kn, hostWrite_kn, hostWrite_kn, Device.draw]

theorem fetchResync_kn (e : Env) (d : Device) (a : Nat) : (d.fetchResync e a).kn = d.kn := by
  rw [fetchResync_eq]
  split
  · rfl
  · exact hostWrite_kn ..

theorem snapshot_kn (e : Env) (d : Device) : (d.snapshot e).kn = d.kn := by
  have answered : (({ d with resync := [] } : Device).summaries e d.resync).kn = d.kn :=
    foldl_kn (fun u f => writeSummary_kn e u f) _ _
  unfold Device.snapshot
  split
  · rfl
  dsimp only
  split
  · exact (fetchResync_kn ..).trans answered
  · exact answered

theorem boundaryEnd_sameSeats (e : Env) (d : Device) : d.sameSeats (d.boundaryEnd e) :=
  (((reclaimEvent_sameSeats e d).trans (fallbackEvent_sameSeats ..)).trans (lostEvents_sameSeats ..)).trans
    (.of_kn (snapshot_kn ..))

/-- After a boundary that no job took, a decode is in progress exactly when a sequence is seated (R194). -/
theorem boundary_decoding {e : Env} {d : Device} (free : (d.boundaryStart e).eligibleJob e = none) :
    (d.boundary e).kn.decoding = !(d.boundary e).kn.seats.isEmpty := by
  rw [boundary_of_no_job free]
  obtain ⟨seats, decoding⟩ := boundaryEnd_sameSeats e
    (((d.boundaryStart e).seatLines e).decodeBegins e).triggers
  rw [seats, decoding, triggers_kn]
  rfl

/-- Settles O22: a boundary with no job eligible and one with a job; the decode after it; a boundary while a job holds
the chip. -/
theorem boundaryRunsLinesInOrder : Obligations.BoundaryRunsLinesInOrder := by
  refine ⟨?_, ?_, ?_⟩
  · rintro t s e d1 d2 rfl between free rfl
    rw [exec_bakeStepBoundary, exec_idleBoundary, act_eq, act_eq, effBakeStepBoundary_of_free between free]
    refine ⟨?_, fun j eligible => ?_⟩
    · rintro none_eligible rfl d3 rfl
      refine ⟨?_, fun idle => ?_⟩
      · rw [boundary_of_no_job none_eligible]
        rfl
      · rw [effIdleBoundary_of_free between free idle, boundary_of_no_job none_eligible]
        rfl
    · rw [boundary_of_job eligible]
      rfl
  · rintro t s e rfl between free none_eligible
    rw [exec_bakeStepBoundary, act_eq, effBakeStepBoundary_of_free between free]
    exact ⟨_, rfl, boundary_decoding none_eligible⟩
  · rintro t s e rfl serves held
    rw [exec_heldBoundary, exec_bakeStepBoundary, exec_idleBoundary, act_eq, act_eq, act_eq,
      effHeldBoundary_of_held held serves, effBakeStepBoundary_of_held held, effIdleBoundary_of_held held]
    exact ⟨rfl, rfl, rfl⟩

end Sys2Proof.Machine
end

section
/-! PROOFS. RECIPE_LOAD and RECIPE_UNLOAD (R244, R247): what a load puts in its slot, what an unload leaves. -/

namespace Sys2Proof.Machine

theorem exec_recipeLoad (t ring : Nat) (hostOk bankOk : Bool) (i : RecipeInfo) (s : State) :
    exec (.recipeLoad t ring hostOk bankOk i) s = s.act t (onDesc ring 0x18 (effRecipeLoad hostOk bankOk i)) := rfl

theorem exec_recipeUnload (t ring : Nat) (s : State) :
    exec (.recipeUnload t ring) s = s.act t (onDesc ring 0x19 effRecipeUnload) := rfl

@[simp] theorem completeD_recipe (d : Device) (e : Env) (f : Fetched) (st det res n : Nat) :
    (d.completeD e f st det res).recipe n = d.recipe n := by
  rw [Device.recipe, completeD_recipes, Device.recipe]

/-! ## RECIPE_LOAD (R244) -/

/-- The slot that an image leaves, its area at a (R244). -/
def loadedSlot (a : Nat) (im : List Byte) (i : RecipeInfo) : RecipeSlot where
  loaded := true
  replace := false
  info := i
  digest := secNat im 0x40 64
  area := a
  length := im.length
  mill := sectionBytes im 7
  crumbRecords := crumbCount im i
  ovenRecords := ovenCount im i
  weights := sectionBytes im 8
  crumb := sectionBytes im 3
  ovenCode := sectionBytes im 4
  streams := streamTable (sectionBytes im 6)

/-- A load changes LPDDR5X, the Loaf's weights and its slot. -/
theorem installRecipe_frame (d : Device) (n a : Nat) (im : List Byte) (i : RecipeInfo) :
    ∃ lp bad, d.installRecipe n a im i = { d with
      lp := lp, lpBad := bad, loaf := putWeights i.weightPlaces (sectionBytes im 8) d.loaf
      recipes := tset d.recipes n (loadedSlot a im i) } := by
  unfold Device.installRecipe
  dsimp only
  split
  · exact ⟨_, _, rfl⟩
  · exact ⟨_, _, rfl⟩

theorem recipe_installRecipe (d : Device) (n a j : Nat) (im : List Byte) (i : RecipeInfo) :
    (d.installRecipe n a im i).recipe j = if j = n then some (loadedSlot a im i) else d.recipe j := by
  obtain ⟨_, _, h⟩ := installRecipe_frame d n a im i
  rw [h]
  exact tfind_tset ..

@[simp] theorem installRecipe_loaf (d : Device) (n a : Nat) (im : List Byte) (i : RecipeInfo) :
    (d.installRecipe n a im i).loaf = putWeights i.weightPlaces (sectionBytes im 8) d.loaf := by
  obtain ⟨_, _, h⟩ := installRecipe_frame d n a im i
  rw [h]

@[simp] theorem installRecipe_reqs (d : Device) (n a : Nat) (im : List Byte) (i : RecipeInfo) :
    (d.installRecipe n a im i).reqs = d.reqs := by
  obtain ⟨_, _, h⟩ := installRecipe_frame d n a im i
  rw [h]

section Load
variable {e : Env} {d : Device} {f : Fetched}

theorem effRecipeLoad_of_occupied (hostOk bankOk : Bool) (i : RecipeInfo) (h : (d.recipe f.recipe).isSome = true) :
    effRecipeLoad hostOk bankOk i e d f = d.completeD e f 0x21 0x000B 0 := if_pos h

theorem effRecipeLoad_of_sound {i : RecipeInfo} {im : List Byte} {a : Nat}
    (read : im = d.hostRead (f.w 2) (bits (f.w 3) 39 0)) (free : d.recipe f.recipe = none)
    (form : imageOk im (bits (f.w 3) 39 0) = true) (block : d.recipeBlock e (bits (f.w 3) 39 0) = some a)
    (digest : sha512 (im.drop 0x100) = (im.drop 0x40).take 64) (sound : d.imageFault e im i = none) :
    effRecipeLoad true true i e d f = (d.installRecipe f.recipe a im i).completeD e f 0 0 0 := by
  subst read
  simp [effRecipeLoad, free, form, block, digest, sound]

end Load

/-! ## RECIPE_UNLOAD (R247) -/

/-- A fold of steps that leave the Recipe table leaves it. -/
theorem foldl_recipes {α : Type} {f : Device → α → Device} (step : ∀ (d : Device) a, (f d a).recipes = d.recipes)
    (d : Device) (l : List α) : (l.foldl f d).recipes = d.recipes :=
  List.foldlRecOn (motive := fun u : Device => u.recipes = d.recipes) l f rfl fun u h a _ => (step u a).trans h

theorem Device.sameButHomes.recipes {d u : Device} : d.sameButHomes u → u.recipes = d.recipes := by
  rintro ⟨_, _, _, _, _, _, _, rfl⟩; rfl

theorem releasePages_recipes (d : Device) (c : Nat) (which : Page → Bool) :
    (d.releasePages c which).recipes = d.recipes := by
  by_cases h : (d.ctx c).pages.filter which = []
  · rw [releasePages_of_none h]
  · rw [releasePages_of_some h, (recount_sameButHomes _).recipes, modCtx_eq, setCtx_recipes,
      (homesReleased_sameButHomes ..).recipes]

theorem dropAll_recipes (d : Device) (c : Nat) : (d.dropAll c).recipes = d.recipes := by
  rw [Device.dropAll, modCtx_eq, setCtx_recipes, releasePages_recipes]

theorem dropBlock_sameButHomes (d : Device) (b : Nat) : d.sameButHomes (d.dropBlock b) := by
  unfold Device.dropBlock
  split
  · exact .refl d
  · exact ((sameButHomes_foldl (fun u p => releaseFrame_sameButHomes u ..) ..).trans ⟨_, _, _, _, _, _, _, rfl⟩).trans
      (recount_sameButHomes _)

@[simp] theorem unloadRecipe_recipes (d : Device) (r : Nat) (s : RecipeSlot) :
    (d.unloadRecipe r s).recipes = tdel d.recipes r := by
  refine congrArg (fun t => tdel t r) ?_
  have blocks_gone (u : Device) (l : List (Nat × PrefixEntry)) : (l.foldl (fun u b => u.dropBlock b.1) u).recipes
      = u.recipes := (sameButHomes_foldl (fun u b => dropBlock_sameButHomes u _) u l).recipes
  have contexts_gone (u : Device) (l : List (Nat × Context)) : (l.foldl (fun u c => u.dropAll c.1) u).recipes
      = u.recipes := foldl_recipes (fun u c => dropAll_recipes u _) u l
  exact (blocks_gone ..).trans ((contexts_gone ..).trans (cancelMoves_sameButHomes d _).recipes)

theorem recipe_unloadRecipe (d : Device) (r n : Nat) (s : RecipeSlot) :
    (d.unloadRecipe r s).recipe n = if n = r then none else d.recipe n := by
  rw [Device.recipe, unloadRecipe_recipes]
  exact tfind_tdel ..

theorem recipe_ne_of_mem_unloadRecipe_grammars {d : Device} {r : Nat} {s : RecipeSlot} {g : Nat × Grammar}
    (h : g ∈ (d.unloadRecipe r s).grammars) : g.2.recipe ≠ r := bne_iff_ne.mp (List.mem_filter.mp h).2

theorem recipe_ne_of_mem_unloadRecipe_adapters {d : Device} {r : Nat} {s : RecipeSlot} {a : Nat × AdapterSlot}
    (h : a ∈ (d.unloadRecipe r s).adapters) : a.2.recipe ≠ r := bne_iff_ne.mp (List.mem_filter.mp h).2

section Unload
variable {e : Env} {d : Device} {f : Fetched}

theorem effRecipeUnload_of_empty (h : d.recipe f.recipe = none) : effRecipeUnload e d f = d.completeD e f 0 1 0 := by
  simp only [effRecipeUnload, h]

variable {rs : RecipeSlot} (h : d.recipe f.recipe = some rs)
include h

theorem effRecipeUnload_of_in_use (used : d.slotInUse f.recipe = true) :
    effRecipeUnload e d f = d.completeD e f 0x21 0x000B 0 := by
  simp only [effRecipeUnload, h, if_pos used]

theorem effRecipeUnload_of_unused (unused : d.slotInUse f.recipe = false) :
    effRecipeUnload e d f = (d.unloadRecipe f.recipe rs).completeD e f 0 0 0 := by
  simp [effRecipeUnload, h, unused]

end Unload

/-- Settles O31: a load into an occupied slot and one of a sound image; an unload of an empty slot, of one in use and of one
that is not. -/
theorem recipeSlotsFillAndFree : Obligations.RecipeSlotsFillAndFree := by
  refine ⟨?_, ?_⟩
  · rintro t ring a info s e f d im rfl taken read
    rw [exec_recipeLoad, act_onDesc_of_take taken]
    refine ⟨fun occupied => ?_, fun free form block digest sound => ?_⟩
    · rw [effRecipeLoad_of_occupied _ _ _ occupied]
    · rw [effRecipeLoad_of_sound read free form block digest sound]
      refine ⟨_, loadedSlot a im info, rfl, ?_, rfl, rfl, rfl, rfl, rfl, rfl, ?_, fun n other => ?_, ?_⟩
      · rw [completeD_recipe, recipe_installRecipe, if_pos rfl]
      · rw [completeD_loaf, installRecipe_loaf]
      · rw [completeD_recipe, recipe_installRecipe, if_neg other]
      · rw [completeD_reqs, installRecipe_reqs, take_reqs taken]
  · rintro t ring s e f d rfl taken
    rw [exec_recipeUnload, act_onDesc_of_take taken]
    refine ⟨fun empty => ?_, fun rs loaded => ⟨fun used => ?_, fun unused => ?_⟩⟩
    · rw [effRecipeUnload_of_empty empty]
    · rw [effRecipeUnload_of_in_use loaded used]
    · rw [effRecipeUnload_of_unused loaded unused]
      refine ⟨_, rfl, ?_, fun n other => ?_, fun g mem => ?_, fun a mem => ?_⟩
      · rw [completeD_recipe, recipe_unloadRecipe, if_pos rfl]
      · rw [completeD_recipe, recipe_unloadRecipe, if_neg other]
      · rw [completeD_grammars] at mem
        exact recipe_ne_of_mem_unloadRecipe_grammars mem
      · rw [completeD_adapters] at mem
        exact recipe_ne_of_mem_unloadRecipe_adapters mem

end Sys2Proof.Machine
end

section
/-! PROOFS. Streamed tensors (R234–R238): the need point of a step, the deadline of a tensor that is not there. -/

namespace Sys2Proof.Machine

theorem exec_streamNeedPoint (t r i : Nat) (oven : Bool) (lanes : List Nat) (s : State) :
    exec (.streamNeedPoint t r i oven lanes) s = s.act t (fabric (effNeedPoint r i oven lanes)) := rfl

theorem exec_streamDeadline (t r i : Nat) (noExpert : Bool) (s : State) :
    exec (.streamDeadline t r i noExpert) s = s.act t (fabric (effStreamDeadline r i noExpert)) := rfl

/-- A command of the fabric, by what its effect leaves. -/
theorem act_fabric_of_eq {s : State} {t : Nat} {f : Env → Device → Device} {d : Device}
    (h : f (s.env.tick t) s.dev = d) :
    s.act t (fabric f) = .next { s with env := s.env.tick t, dev := d.settleFabric (s.env.tick t) } := by
  rw [act_eq, fabric, h]

/-! ## The need point (R234) -/

/-- A tensor's residency after the need point of a step, the tensor there or not. -/
def Residency.needed (x : Residency) (now : Nat) (lanes : List Nat) (here : Bool) : Residency :=
  { x with needAt := some now, lanes := lanes, oven := false, late := false, fell := 0, decided := here
           lastUse := if here then now else x.lastUse }

section Served
variable {e : Env} {d : Device} {r i : Nat} (serves : d.serving e = true)
  (undecided : (d.residency r i).decided = false)
include serves undecided

theorem effNeedPoint_of_step (decoding : d.kn.decoding = true) {rs : RecipeSlot} (loaded : d.recipe r = some rs)
    (listed : i < rs.streams.length) (first : (d.residency r i).needAt = none) (lanes : List Nat) {u : Device}
    (asked : u = d.wantTensor r i (.step d.kn.step)) :
    effNeedPoint r i false lanes e d = u.setResidency r i ((u.residency r i).needed e.now lanes
      ((u.residency r i).slot.isSome && (u.moveOf (.tensor r i)).isNone)) := by
  subst asked
  simp [effNeedPoint, serves, undecided, decoding, loaded, first, Nat.not_le.mpr listed, Device.whoNow,
    Residency.needed]

/-! ## The deadline (R235, R236) -/

variable {t0 : Nat} (need : (d.residency r i).needAt = some t0) (absent : (d.residency r i).slot = none)
  (past : t0 + bits (d.streamEntry r i).q3 31 0 ≤ e.now)
include need absent past

theorem effStreamDeadline_of_stall (stall : bits (d.streamEntry r i).q0 1 0 = 0) (noExpert : Bool) :
    effStreamDeadline r i noExpert e d = d.setResidency r i { d.residency r i with late := true } := by
  simp [effStreamDeadline, serves, undecided, need, absent, Nat.not_lt.mpr past, stall]

theorem effStreamDeadline_of_fallback (step : (d.residency r i).oven = false)
    (fallback : bits (d.streamEntry r i).q0 1 0 ≠ 0) :
    effStreamDeadline r i false e d = d.decide_ e r i (bits (d.streamEntry r i).q0 1 0) false := by
  simp [effStreamDeadline, serves, undecided, need, absent, step, Nat.not_lt.mpr past, fallback]

end Served

/-! ## The decision (R237, R238) -/

/-- A fold of steps that leave the Peel leaves it. -/
theorem foldl_peel {α : Type} {f : Device → α → Device} (step : ∀ (d : Device) a, (f d a).peel = d.peel) (d : Device)
    (l : List α) : (l.foldl f d).peel = d.peel :=
  List.foldlRecOn (motive := fun u : Device => u.peel = d.peel) l f rfl fun u h a _ => (step u a).trans h

/-- A decision counts by one: of the Peel, what it counts per lane and what it logs change nothing. -/
theorem decide_decisions (e : Env) (d : Device) (r i kind : Nat) (late : Bool) :
    (d.decide_ e r i kind late).peel.decisions = d.peel.decisions + 1 := by
  have logged (u : Device) (a : Nat) (bs : List Byte) : (if fallbackOn e then u.lpWrites a bs else u).peel = u.peel := by
    split
    · exact lpWrites_peel ..
    · rfl
  refine congrArg (fun p : Peel => p.decisions + 1) ((logged ..).trans (foldl_peel (fun u q => ?_) ..))
  dsimp only
  split
  · exact setCtx_peel ..
  · rfl

/-- Settles O43: the need point of a step; then the deadline of a STALL and of another fallback. -/
theorem streamNeedAndDeadline : Obligations.StreamNeedAndDeadline := by
  rintro t r i s e rs lanes rfl serves decoding loaded listed
  rw [exec_streamNeedPoint, exec_streamDeadline]
  refine ⟨fun undecided first d asked => ?_, fun t0 need undecided absent step past =>
    ⟨fun stall => ?_, fun fallback => ⟨?_, decide_decisions ..⟩⟩⟩
  · exact act_fabric_of_eq (effNeedPoint_of_step serves undecided decoding loaded listed first lanes asked)
  · exact act_fabric_of_eq (effStreamDeadline_of_stall serves undecided need absent past stall false)
  · exact act_fabric_of_eq (effStreamDeadline_of_fallback serves undecided need absent past step fallback)

end Sys2Proof.Machine
end

section
/-! PROOFS. Moves (R212, R223–R229): demands, commits of pages, releases of their sources, aborts. -/

namespace Sys2Proof.Machine

theorem exec_moveStart (t : Nat) (kind : MoveKind) (obj : MoveObj) (who : Requester) (dest : Nat) (s : State) :
    exec (.moveStart t kind obj who dest) s = s.act t (fabric (effMoveStart kind obj who dest)) := rfl

theorem exec_moveCommit (t m : Nat) (poisoned : Bool) (ecc : List EccReport) (s : State) :
    exec (.moveCommit t m poisoned ecc) s = s.act t (fabric (effMoveCommit m poisoned ecc)) := rfl

theorem exec_moveSourceRelease (t m : Nat) (s : State) :
    exec (.moveSourceRelease t m) s = s.act t (fabric (effSourceRelease m)) := rfl

theorem exec_moveAbort (t m : Nat) (s : State) : exec (.moveAbort t m) s = s.act t (fabric (effMoveAbort m)) := rfl

/-! ## Demands (R224) -/

/-- The device with these demands waiting. -/
def Device.withWaiting (d : Device) (ws : List (MoveKind × MoveObj × Requester × Nat)) : Device :=
  { d with peel := { d.peel with waiting := ws } }

/-- A demand served alone: a move started, the demand waiting again, or nothing. -/
def Device.served (d : Device) (w : MoveKind × MoveObj × Requester × Nat) : Ask → Device
  | .started u => u
  | .wait u => u.withWaiting (u.peel.waiting ++ [w])
  | .refused => d

theorem retryMoves_eq (e : Env) (d : Device) : d.retryMoves e =
    d.waitOrder.foldl (fun u w => u.served w (u.askMove e w.1 w.2.1 w.2.2.1)) (d.withWaiting []) := rfl

theorem waitOrder_of_one {d : Device} {w : MoveKind × MoveObj × Requester × Nat} (h : d.peel.waiting = [w]) :
    d.waitOrder = [w] := by
  cases tensor : tensorDemand w <;>
    simp [Device.waitOrder, h, tensor, sortBy, insertBy, Device.waitOrder.put]

theorem withWaiting_withWaiting (d : Device) (ws vs : List (MoveKind × MoveObj × Requester × Nat)) :
    (d.withWaiting ws).withWaiting vs = d.withWaiting vs := rfl

theorem withWaiting_of_eq {d : Device} {ws : List (MoveKind × MoveObj × Requester × Nat)} (h : d.peel.waiting = ws) :
    d.withWaiting ws = d := by
  subst h; rfl

section Demand
variable {e : Env} {d : Device} {kind : MoveKind} {obj : MoveObj} {who : Requester} {dest : Nat}
  (serves : d.serving e = true)
include serves

theorem effMoveStart_of_new (new : d.peel.waiting.contains (kind, obj, who, dest) = false) :
    effMoveStart kind obj who dest e d
      = (d.withWaiting (d.peel.waiting ++ [(kind, obj, who, dest)])).retryMoves e := by
  simp only [effMoveStart, serves, new, Bool.not_true, Bool.false_eq_true, if_false]
  rfl

/-- A demand that meets none waiting is served alone. -/
theorem effMoveStart_of_idle (idle : d.peel.waiting = []) : effMoveStart kind obj who dest e d
    = d.served (kind, obj, who, dest) (d.askMove e kind obj who) := by
  have new : d.peel.waiting.contains (kind, obj, who, dest) = false := by rw [idle]; rfl
  rw [effMoveStart_of_new serves new, idle, List.nil_append, retryMoves_eq, waitOrder_of_one rfl, List.foldl_cons,
    List.foldl_nil, withWaiting_withWaiting, withWaiting_of_eq idle]

end Demand

/-! ## Commits (R212, R225) -/

theorem effMoveCommit_of_saving {e : Env} {d : Device} (saving : d.saving = true) (m : Nat) (poisoned : Bool)
    (ecc : List EccReport) : effMoveCommit m poisoned ecc e d = d := by
  simp [effMoveCommit, saving]

/-- The one element of a condition is found where it is inserted. -/
theorem find?_insertBy {α : Type} (le : α → α → Bool) {which : α → Bool} {a : α} (hit : which a = true) {l : List α}
    (others : ∀ b ∈ l, which b = false) : (insertBy le a l).find? which = some a := by
  induction l with
  | nil => exact List.find?_cons_of_pos hit
  | cons b l ih =>
    unfold insertBy
    split
    · rw [List.find?_cons_of_neg (by simp [others b List.mem_cons_self])]
      exact ih fun c hc => others c (List.mem_cons_of_mem _ hc)
    · exact List.find?_cons_of_pos hit

theorem page_putPage (x : Context) (p : Page) : (x.putPage p).page p.layer p.index = some p := by
  refine find?_insertBy _ (by simp) fun q hq => ?_
  exact (Bool.not_eq_true' _).mp (List.mem_filter.mp hq).2

/-- The layer and index of an entry found are those it was sought by. -/
theorem place_of_page {x : Context} {l i : Nat} {p : Page} (h : x.page l i = some p) : p.layer = l ∧ p.index = i := by
  simpa using List.find?_some h

/-- The last that a commit outside the Loaf (tier 0) does is to name the new home in the page's entry. -/
theorem commitPage_of_outer {d : Device} {x : Move} {c l i : Nat} (bad : Bool) {p : Page}
    (found : (d.ctx c).page l i = some p) (outer : x.destTier ≠ 0) : ∃ u : Device,
      d.commitPage c l i x bad = u.modCtx c (fun z => z.putPage
        { p with tier := x.destTier, frame := x.dest, node := 0, moving := false, bad := bad }) := by
  simp only [Device.commitPage, found, if_neg outer]
  exact ⟨_, rfl⟩

theorem page_commitPage_of_outer {d : Device} {x : Move} {c l i : Nat} (bad : Bool) {p : Page}
    (found : (d.ctx c).page l i = some p) (outer : x.destTier ≠ 0) : ((d.commitPage c l i x bad).ctx c).page l i
      = some { p with tier := x.destTier, frame := x.dest, node := 0, moving := false, bad := bad } := by
  obtain ⟨u, committed⟩ := commitPage_of_outer bad found outer
  obtain ⟨rfl, rfl⟩ := place_of_page found
  rw [committed, modCtx_eq, ctx_setCtx_same]
  exact page_putPage ..

/-! ## Records of a page's move -/

section Record
variable {e : Env} {d : Device} {m c l i : Nat} {x : Move} (record : tfind d.peel.moves m = some x)
include record

theorem effMoveAbort_of_committed (committed : x.committed = true) : effMoveAbort m e d = d := by
  simp [effMoveAbort, record, committed]

theorem effSourceRelease_of_read (inLoaf : x.sourceTier = 0) (read : x.readers.any d.reading = true) :
    effSourceRelease m e d = d := by
  simp [effSourceRelease, record, inLoaf, read]

variable (serves : d.serving e = true)
include serves

theorem effMoveAbort_of_open (pending : x.committed = false) : effMoveAbort m e d = (d.abortMove e m x).retryMoves e := by
  simp [effMoveAbort, serves, record, pending]

variable (page : x.obj = .page c l i)
include page

theorem effMoveCommit_of_page {bad : Bool} (pending : x.committed = false) (quiet : d.moveQuiet m = true)
    (free : d.saving = false) {u : Device} (committed : u = d.commitPage c l i x (bad || x.bad)) :
    effMoveCommit m bad [] e d = { u with peel := { u.peel with
      moves := tset u.peel.moves m { x with committed := true, readers := d.readersNow } } } := by
  have noReport (v : Device) : v.eccReports e [] = v := rfl
  subst committed
  simp [effMoveCommit, serves, free, noReport, record, pending, quiet, page]

variable (committed : x.committed = true)
include committed

theorem effSourceRelease_of_frame (inLoaf : x.sourceTier = 0) (unread : x.readers.any d.reading = false) :
    effSourceRelease m e d = ((d.releaseFrame (d.ctx c).recipe ((d.info (d.ctx c).recipe).layer l).pool
      x.source).delMove m).retryMoves e := by
  simp [effSourceRelease, serves, record, committed, page, inLoaf, unread]

theorem effSourceRelease_of_block (inBlock : x.sourceTier = 1) :
    effSourceRelease m e d = ((d.tier1Free (x.source * 4096)).delMove m).retryMoves e := by
  simp [effSourceRelease, serves, record, committed, page, inBlock]

end Record

/-- Settles O42: a demand that meets none waiting, by what becomes of it, and one that does not wait yet; then what each event leaves
of a page's record; then the page's home once committed. -/
theorem movesStartCommitRelease : Obligations.MovesStartCommitRelease := by
  rintro t m s e rfl serves
  simp only [exec_moveStart, exec_moveCommit, exec_moveSourceRelease, exec_moveAbort]
  refine ⟨fun kind obj who dest => ⟨fun idle => ?_, fun new => act_fabric_of_eq (effMoveStart_of_new serves new)⟩, ?_,
    fun d x c l i bad p found outer => page_commitPage_of_outer bad found outer⟩
  · have alone := effMoveStart_of_idle (kind := kind) (obj := obj) (who := who) (dest := dest) serves idle
    refine ⟨fun u asked => ?_, fun u asked => ?_, fun asked => ?_⟩ <;> rw [asked] at alone <;>
      exact act_fabric_of_eq alone
  · rintro x c l i bad d record page
    exact ⟨fun pending quiet free committed =>
        act_fabric_of_eq (effMoveCommit_of_page record serves page pending quiet free committed),
      fun saving => act_fabric_of_eq (effMoveCommit_of_saving saving ..),
      fun committed inLoaf read => act_fabric_of_eq (effSourceRelease_of_read record inLoaf read),
      fun committed inLoaf unread =>
        act_fabric_of_eq (effSourceRelease_of_frame record serves page committed inLoaf unread),
      fun committed inBlock => act_fabric_of_eq (effSourceRelease_of_block record serves page committed inBlock),
      fun pending => act_fabric_of_eq (effMoveAbort_of_open record serves pending),
      fun committed => act_fabric_of_eq (effMoveAbort_of_committed record committed)⟩

end Sys2Proof.Machine
end

section
/-! PROOFS. Verification of drafted tokens (R265) and the order of the stop conditions (R268). -/

namespace Sys2Proof.Machine

/-- A step's tokens are the accepted ones, the first of those drafted, and at most one more: none more only where a mask
is dead (R265). -/
def Emit.extendsPrefix (em : Emit) (drafted : List Nat) : Prop :=
  em.accepted ≤ drafted.length ∧ ∃ more, em.tokens = drafted.take em.accepted ++ more ∧ more.length ≤ 1 ∧
    (em.dead = none → more.length = 1)

/-- Verification may stop between any two drafted tokens. -/
theorem extendsPrefix_stop (before todo : List Nat) {more : List Nat} {dead : Option Nat} (one : more.length ≤ 1)
    (alive : dead = none → more.length = 1) :
    (⟨before.length, before ++ more, dead⟩ : Emit).extendsPrefix (before ++ todo) :=
  ⟨by simp, more, by simp, one, alive⟩

section Verify
variable (d : Device) (r : Request) (pos : Nat) (before : List Nat) (main drafts : List (List Nat)) (cs : List Constraint)

/-- With nothing left to verify a token of the main model follows those accepted, unless the mask is dead. -/
theorem verify_nil : (∃ k, d.verify r pos before [] main drafts cs = ⟨before.length, before, some k⟩) ∨
    ∃ next, d.verify r pos before [] main drafts cs = ⟨before.length, before ++ [next], none⟩ := by
  simp only [Device.verify]
  split
  · exact .inl ⟨_, rfl⟩
  · exact .inr ⟨_, rfl⟩

/-- A drafted token is accepted and the rest verified, or another token takes its place and verification stops. -/
theorem verify_cons (t : Nat) (rest : List Nat) :
    d.verify r pos before (t :: rest) main drafts cs =
        d.verify r pos (before ++ [t]) rest (main.drop 1) (drafts.drop 1) (cs.drop 1) ∨
      ∃ other, d.verify r pos before (t :: rest) main drafts cs = ⟨before.length, before ++ [other], none⟩ := by
  rw [Device.verify]
  split
  · exact .inl rfl
  · exact .inr ⟨_, rfl⟩

/-- Accepting a token moves it from those left to those before and leaves the drafted ones as they are. -/
theorem verify_extendsPrefix (todo : List Nat) :
    (d.verify r pos before todo main drafts cs).extendsPrefix (before ++ todo) := by
  induction todo generalizing before main drafts cs with
  | nil =>
    obtain ⟨k, dead⟩ | ⟨next, alive⟩ := verify_nil d r pos before main drafts cs
    · simpa [dead] using extendsPrefix_stop before [] (more := []) (dead := some k) (Nat.zero_le 1) nofun
    · rw [alive]
      exact extendsPrefix_stop before [] (Nat.le_refl 1) fun _ => rfl
  | cons t rest ih =>
    obtain accepts | ⟨other, rejects⟩ := verify_cons d r pos before main drafts cs t rest
    · simpa [accepts] using ih (before ++ [t]) (main.drop 1) (drafts.drop 1) (cs.drop 1)
    · rw [rejects]
      exact extendsPrefix_stop before (t :: rest) (Nat.le_refl 1) fun _ => rfl

end Verify

namespace Emit.extendsPrefix
variable {em : Emit} {drafted : List Nat} (h : em.extendsPrefix drafted)
include h

theorem take_tokens : em.tokens.take em.accepted = drafted.take em.accepted := by
  obtain ⟨accepted, more, tokens, -, -⟩ := h
  rw [tokens]
  exact List.take_left' (List.length_take_of_le accepted)

theorem length_tokens : em.accepted ≤ em.tokens.length ∧ em.tokens.length ≤ em.accepted + 1 ∧
    (em.dead = none → em.tokens.length = em.accepted + 1) := by
  obtain ⟨accepted, more, tokens, one, alive⟩ := h
  have length : em.tokens.length = em.accepted + more.length := by
    rw [tokens, List.length_append, List.length_take_of_le accepted]
  exact ⟨by omega, by omega, fun live => by rw [length, alive live]⟩

end Emit.extendsPrefix

/-- Settles O24: the verification of what was drafted, with nothing accepted yet; then the stop conditions in their order. -/
theorem verificationAcceptsPrefix : Obligations.VerificationAcceptsPrefix := by
  refine ⟨fun d r pos drafted main drafts cs => ?_, fun eos grammarEnd stopString length => ⟨?_, ?_, ?_, ?_⟩⟩
  · have verified := verify_extendsPrefix d r pos [] main drafts cs drafted
    exact ⟨verified.1, verified.take_tokens, verified.length_tokens⟩
  · rintro rfl; rfl
  · rintro rfl rfl; rfl
  · rintro rfl rfl rfl; rfl
  · rintro rfl rfl rfl; rfl

end Sys2Proof.Machine
end

section
/-! PROOFS. Adapters (R270, R272, R274) and grammar handles (R315, R316): what their loads, retirements and unloads
leave. -/

namespace Sys2Proof.Machine

theorem exec_adapterLoad (t ring : Nat) (hostOk : Bool) (s : State) :
    exec (.adapterLoad t ring hostOk) s = s.act t (onDesc ring 0x1A (effAdapterLoad hostOk)) := rfl

theorem exec_adapterRetire (t ring : Nat) (s : State) :
    exec (.adapterRetire t ring) s = s.act t (onDesc ring 0x1B effAdapterRetire) := rfl

theorem exec_grammarLoad (t ring : Nat) (hostOk : Bool) (s : State) :
    exec (.grammarLoad t ring hostOk) s = s.act t (onDesc ring 0x1C (effGrammarLoad hostOk)) := rfl

theorem exec_grammarUnload (t ring : Nat) (s : State) :
    exec (.grammarUnload t ring) s = s.act t (onDesc ring 0x1D effGrammarUnload) := rfl

theorem take_recipes {e : Env} {d d' : Device} {ring op : Nat} {f : Fetched} (h : d.take e ring op = some (f, d')) :
    d'.recipes = d.recipes := by
  obtain ⟨_, _, rfl⟩ := take_frame h; rfl

/-! ## Tables filtered and mapped -/

theorem tfind_filter_of_kept {α : Type} {keep : Nat × α → Bool} {k : Nat} {v : α} {t : Tbl α}
    (listed : tfind t k = some v) (kept : keep (k, v) = true) : tfind (t.filter keep) k = some v := by
  induction t with
  | nil => cases listed
  | cons p rest ih =>
    obtain ⟨j, w⟩ := p
    by_cases own : j = k
    · obtain ⟨rfl, rfl⟩ : j = k ∧ w = v := by simpa [tfind, own] using listed
      simp [kept, tfind]
    · have later := ih (by simpa [tfind, own] using listed)
      by_cases here : keep (j, w) = true <;> simpa [here, tfind, own] using later

theorem tfind_map {α β : Type} (g : Nat → α → β) (t : Tbl α) (k : Nat) :
    tfind (t.map (fun a => (a.1, g a.1 a.2))) k = (tfind t k).map (g k) := by
  induction t with
  | nil => rfl
  | cons p rest ih =>
    obtain ⟨j, w⟩ := p
    by_cases own : j = k
    · subst own; simp [tfind]
    · simpa [tfind, own] using ih

/-! ## The sweep of adapter versions (R270, R274) -/

/-- What a sweep leaves of an adapter slot: its current version and those still held. -/
def AdapterSlot.swept (a : AdapterSlot) (d : Device) (s : Nat) : AdapterSlot :=
  { a with
    versions := a.versions.filter (fun v => a.current == some v.1 || d.adapterRefs s v.1 > 0)
    data := a.data.filter (fun v => a.current == some v.1 || d.adapterRefs s v.1 > 0) }

theorem sweepAdapters_adapters (d : Device) : d.sweepAdapters.adapters =
    (d.adapters.map (fun a => (a.1, a.2.swept d a.1))).filter (fun a => !a.2.versions.isEmpty) := rfl

@[simp] theorem sweepAdapters_recipes (d : Device) : d.sweepAdapters.recipes = d.recipes := rfl

/-- A slot that a sweep leaves with a version stands behind its number. -/
theorem tfind_sweepAdapters {d : Device} {s : Nat} {a : AdapterSlot} (listed : tfind d.adapters s = some a)
    (kept : (a.swept d s).versions ≠ []) : tfind d.sweepAdapters.adapters s = some (a.swept d s) := by
  rw [sweepAdapters_adapters]
  refine tfind_filter_of_kept ?_ (by simpa using kept)
  rw [tfind_map fun j (b : AdapterSlot) => b.swept d j, listed]
  rfl

/-- A current version outlives a sweep. -/
theorem swept_versions_of_current {a : AdapterSlot} {v : Nat × Nat} (current : a.current = some v.1)
    (mem : v ∈ a.versions) (d : Device) (s : Nat) : (a.swept d s).versions ≠ [] :=
  List.ne_nil_of_mem (List.mem_filter.mpr ⟨mem, by simp [current]⟩)

/-! ## ADAPTER_LOAD and ADAPTER_RETIRE (R270, R272, R274) -/

/-- An adapter slot, not bound yet or bound before, with a version added as its current one (R270). -/
def AdapterSlot.loadedWith (old : AdapterSlot) (version frames : Nat) (data : List Byte) : AdapterSlot :=
  { old with
    current := some version
    versions := old.versions ++ [(version, frames)]
    data := old.data ++ [(version, data)] }

/-- The slot of a sound image's descriptor once its version is added, before the sweep. -/
def Device.loadedAdapter (d : Device) (f : Fetched) (rs : RecipeSlot) (im : List Byte) : AdapterSlot :=
  ((tfind d.adapters f.adapter).getD ⟨f.recipe, none, [], []⟩).loadedWith f.version
    (ceilDiv (secNat im 0x10 8) rs.info.adapterBytes) (im.drop 64)

def Device.setAdapter (d : Device) (s : Nat) (a : AdapterSlot) : Device := { d with adapters := tset d.adapters s a }

@[simp] theorem setAdapter_recipes (d : Device) (s : Nat) (a : AdapterSlot) : (d.setAdapter s a).recipes = d.recipes :=
  rfl

section Adapters
variable {e : Env} {d : Device} {f : Fetched}

theorem effAdapterLoad_of_sound {rs : RecipeSlot} (loaded : d.recipe f.recipe = some rs)
    (sound : d.adapterBad f.recipe f.adapter f.version (bits (f.w 3) 39 0) rs
      (d.hostRead (f.w 2) (bits (f.w 3) 39 0)) = false) :
    effAdapterLoad true e d f = (d.setAdapter f.adapter (d.loadedAdapter f rs
      (d.hostRead (f.w 2) (bits (f.w 3) 39 0)))).sweepAdapters.completeD e f 0 0 0 := by
  simp [effAdapterLoad, loaded, sound, Device.setAdapter, Device.loadedAdapter, AdapterSlot.loadedWith]

/-- The version just added is the slot's current one after the sweep. -/
theorem current_of_loadedAdapter (rs : RecipeSlot) (im : List Byte) :
    (tfind (d.setAdapter f.adapter (d.loadedAdapter f rs im)).sweepAdapters.adapters f.adapter).map (·.current)
      = some (some f.version) := by
  have listed : tfind (d.setAdapter f.adapter (d.loadedAdapter f rs im)).adapters f.adapter
      = some (d.loadedAdapter f rs im) := tfind_tset_same ..
  have added : (f.version, ceilDiv (secNat im 0x10 8) rs.info.adapterBytes) ∈ (d.loadedAdapter f rs im).versions :=
    List.mem_append_right _ List.mem_cons_self
  rw [tfind_sweepAdapters listed (swept_versions_of_current rfl added _ _)]
  rfl

theorem effAdapterRetire_of_current {a : AdapterSlot} (listed : tfind d.adapters f.adapter = some a)
    (bound : a.recipe = f.recipe) (loaded : a.versions.any (fun v => v.1 == f.version) = true)
    (current : a.current = some f.version) :
    effAdapterRetire e d f =
      (d.setAdapter f.adapter { a with current := none }).sweepAdapters.completeD e f 0 0 0 := by
  simp only [effAdapterRetire, listed, bound, loaded, current, bne_self_eq_false, Bool.not_true, Bool.or_self,
    Bool.false_eq_true, if_false, beq_self_eq_true, if_true, Device.setAdapter]

end Adapters

/-! ## GRAMMAR_LOAD and GRAMMAR_UNLOAD (R315, R316) -/

def Device.setGrammar (d : Device) (h : Nat) (g : Grammar) : Device := { d with grammars := tset d.grammars h g }

theorem tfind_setGrammar (d : Device) (h j : Nat) (g : Grammar) :
    tfind (d.setGrammar h g).grammars j = if j = h then some g else tfind d.grammars j := tfind_tset ..

section Grammars
variable {e : Env} {d : Device} {f : Fetched}

theorem effGrammarLoad_of_sound {rs : RecipeSlot} {im : List Byte} (read : im = d.hostRead (f.w 2) (bits (f.w 3) 39 0))
    (loaded : d.recipe f.recipe = some rs) (free : tfind d.grammars (bits (f.w 3) 51 40) = none)
    (sound : grammarOk im (millV rs.mill) rs.digest = true)
    (fits : d.stencilUsed + bits (f.w 3) 39 0 ≤ stencilStore e) :
    effGrammarLoad true e d f =
      (d.setGrammar (bits (f.w 3) 51 40) ⟨f.recipe, im, false⟩).completeD e f 0 0 0 := by
  subst read
  simp [effGrammarLoad, loaded, free, sound, Nat.not_lt.mpr fits, Device.setGrammar]

theorem effGrammarUnload_of_loaded {g : Grammar} (listed : tfind d.grammars (bits (f.w 3) 51 40) = some g)
    (loaded : g.draining = false) : effGrammarUnload e d f =
      (d.setGrammar (bits (f.w 3) 51 40) { g with draining := true }).sweepGrammars.completeD e f 0 0 0 := by
  simp [effGrammarUnload, listed, loaded, Device.setGrammar]

theorem effGrammarUnload_of_free_or_draining
    (gone : ∀ g, tfind d.grammars (bits (f.w 3) 51 40) = some g → g.draining = true) :
    effGrammarUnload e d f = d.completeD e f 0 1 0 := by
  cases listed : tfind d.grammars (bits (f.w 3) 51 40) with
  | none => simp only [effGrammarUnload, listed]
  | some g => simp only [effGrammarUnload, listed, gone g listed, if_true]

end Grammars

/-- Settles O32: a sound adapter image and the retirement of a current version; a sound grammar image that fits, and an
unload of a handle that is loaded and of one that is free or draining. -/
theorem adapterVersionsAndGrammarHandles : Obligations.AdapterVersionsAndGrammarHandles := by
  refine ⟨?_, ?_⟩
  · rintro t ring s e f d rfl
    refine ⟨fun taken rs loaded sound => ?_, fun taken a listed bound loaded current => ?_⟩
    · rw [exec_adapterLoad, act_onDesc_of_take taken, effAdapterLoad_of_sound loaded sound]
      refine ⟨_, rfl, ?_, ?_⟩
      · rw [completeD_adapters]
        exact current_of_loadedAdapter ..
      · rw [completeD_recipes, sweepAdapters_recipes, setAdapter_recipes, take_recipes taken]
    · rw [exec_adapterRetire, act_onDesc_of_take taken, effAdapterRetire_of_current listed bound loaded current]
      rfl
  · rintro t ring s e f d rfl
    refine ⟨fun taken rs loaded free sound fits => ?_, fun taken => ?_⟩
    · rw [exec_grammarLoad, act_onDesc_of_take taken, effGrammarLoad_of_sound rfl loaded free sound fits]
      refine ⟨_, rfl, ?_, fun h other => ?_⟩
      · rw [completeD_grammars, tfind_setGrammar, if_pos rfl]
      · rw [completeD_grammars, tfind_setGrammar, if_neg other]
    · rw [exec_grammarUnload, act_onDesc_of_take taken]
      refine ⟨fun g listed loaded => ?_, fun gone => ?_⟩
      · rw [effGrammarUnload_of_loaded listed loaded]
        rfl
      · rw [effGrammarUnload_of_free_or_draining gone]

end Sys2Proof.Machine
end

section
/-! PROOFS. Composition maps (R291, R292): what MAP_INSTALL leaves of a sound map, what the older epoch's drain does. -/

namespace Sys2Proof.Machine

theorem exec_mapInstall (t ring : Nat) (hostOk : Bool) (s : State) :
    exec (.mapInstall t ring hostOk) s = s.act t (onDesc ring 0x11 (effMapInstall hostOk)) := rfl

theorem exec_epochDrained (t : Nat) (s : State) : exec (.epochDrained t) s = s.act t effEpochDrained := rfl

theorem num_of_mapAt {e : Env} {d : Device} {a len epoch : Nat} {m : Epoch} (h : d.mapAt e a len epoch = some m) :
    m.num = epoch := by
  unfold Device.mapAt at h
  dsimp only at h
  split at h
  · cases h
  · cases h; rfl

/-! ## MAP_INSTALL -/

/-- A map becomes the newer of two live epochs (R292). -/
def Device.withNewer (d : Device) (m : Epoch) : Device :=
  { d with kn := { d.kn with older := d.kn.newer, newer := m, twoLive := true, probesDue := d.pem.dead } }

section Offer
variable {e : Env} {d : Device} {f : Fetched} {m : Epoch}

theorem effMapInstall_of_sound (sound : d.mapAt e (f.w 3) (bits (f.w 4) 31 0) (bits (f.w 2) 15 0) = some m) :
    effMapInstall true e d f = d.offerMap e f m := by
  simp [effMapInstall, sound]

theorem offerMap_of_waiting (waits : d.kn.install ≠ none) : d.offerMap e f m =
    { d with kn := { d.kn with installWait := d.kn.installWait ++ [(f, m)] } } :=
  if_pos (Option.isSome_iff_ne_none.mpr waits)

variable (free : d.kn.install = none) (other : (m.num + 65536 - d.kn.newer.num) % 65536 ≠ 0)
  (ahead : (m.num + 65536 - d.kn.newer.num) % 65536 ≤ 32767)
include free other ahead

theorem offerMap_of_twoLive (two : d.kn.twoLive = true) :
    d.offerMap e f m = { d with kn := { d.kn with install := some (f, m) } } := by
  simp [Device.offerMap, free, other, Nat.not_lt.mpr ahead, two]

theorem offerMap_of_oneLive (one : d.kn.twoLive = false) :
    d.offerMap e f m = (d.withNewer m).completeD e f 0 0 0 := by
  simp [Device.offerMap, free, other, Nat.not_lt.mpr ahead, one, Device.withNewer]

end Offer

/-! ## EPOCH_DRAINED -/

/-- The older epoch is retired for a map that waited alone (R292). -/
def Device.retireOlder (d : Device) (m : Epoch) : Device :=
  { d with kn := { d.kn with
    older := d.kn.newer, newer := m, install := none, installWait := [], probesDue := d.pem.dead } }

section Drain
variable {e : Env} {d : Device} {f : Fetched} {m : Epoch} (waits : d.kn.install = some (f, m))
include waits

theorem effEpochDrained_of_carried (carried : d.carried d.kn.older.num = true) : effEpochDrained e d = d := by
  simp [effEpochDrained, waits, carried]

theorem effEpochDrained_of_free (serves : d.serving e = true) (alone : d.kn.installWait = [])
    (drained : d.carried d.kn.older.num = false) :
    effEpochDrained e d = (d.retireOlder m).completeD e f 0 0 0 := by
  simp [effEpochDrained, waits, serves, drained, alone, Device.retireOlder]

end Drain

/-- Settles O39: a sound map of a later epoch with one live epoch, with two, and behind one that waits; then the map that
waits, once the older epoch is carried by nothing and while it still is. -/
theorem mapInstallAndDrain : Obligations.MapInstallAndDrain := by
  refine ⟨?_, ?_⟩
  · rintro t ring s e f d m rfl taken sound other ahead
    rw [← num_of_mapAt sound] at other ahead
    rw [exec_mapInstall, act_onDesc_of_take taken, effMapInstall_of_sound sound]
    refine ⟨fun free one => ?_, fun free two => ?_, fun waits => ?_⟩
    · rw [offerMap_of_oneLive free other ahead one]
      refine ⟨_, rfl, ?_⟩
      rw [completeD_kn]
      exact ⟨rfl, rfl, rfl, rfl⟩
    · rw [offerMap_of_twoLive free other ahead two]
    · rw [offerMap_of_waiting waits]
  · rintro t s e f m rfl serves waits alone
    rw [exec_epochDrained, act_eq]
    refine ⟨fun drained => ?_, fun carried => ?_⟩
    · rw [effEpochDrained_of_free waits serves alone drained]
      refine ⟨_, rfl, ?_⟩
      rw [completeD_kn]
      exact ⟨rfl, rfl, rfl⟩
    · rw [effEpochDrained_of_carried waits carried]

end Sys2Proof.Machine
end

section
/-! PROOFS. HANDOFF (R293–R295): its refusals, its limit, its begin; and the ends of a handoff at its source and of an
incoming record at its destination (R296, R297, R366). -/

namespace Sys2Proof.Machine

theorem exec_handoff (t ring : Nat) (s : State) :
    exec (.handoff t ring) s = s.act t (fabric (onDesc ring 0x05 effHandoff)) := rfl

theorem exec_handoffTallyZero (t session : Nat) (s : State) :
    exec (.handoffTallyZero t session) s = s.act t (fabric (effTallyZero session)) := rfl

theorem exec_handoffLimitExpiry (t session : Nat) (s : State) :
    exec (.handoffLimitExpiry t session) s = s.act t (fabric (effLimitExpiry session)) := rfl

theorem exec_incomingRecordExpiry (t session : Nat) (s : State) :
    exec (.incomingRecordExpiry t session) s = s.act t (fabric (effIncomingExpiry session)) := rfl

/-- A command of the fabric on the descriptor taken, by what its effect leaves. -/
theorem act_fabric_onDesc_of_eq {s : State} {t ring op : Nat} {f : Fetched} {d u : Device}
    {eff : Env → Device → Fetched → Device} (taken : s.dev.take (s.env.tick t) ring op = some (f, d))
    (left : eff (s.env.tick t) d f = u) : s.act t (fabric (onDesc ring op eff)) =
      .next { s with env := s.env.tick t, dev := u.settleFabric (s.env.tick t) } :=
  act_fabric_of_eq ((onDesc_some eff taken).trans left)

/-! ## Management commands asked for (R357) -/

/-- A command leaves every context and the Kneader as they were, and waits last among the operations, marked once. -/
theorem command_asks (d : Device) (node type : Nat) (user : FabUser) :
    (∀ c, (d.command node type user).ctx c = d.ctx c) ∧ (d.command node type user).kn = d.kn ∧
      ∃ o, (d.command node type user).pem.waiting = d.pem.waiting ++ [o] ∧ o.pkt.type = type ∧ o.pkt.dest = node ∧
        o.once = true :=
  ⟨fun _ => rfl, rfl, _, rfl, rfl, rfl, rfl⟩

/-! ## HANDOFF -/

/-- The handoff of a HANDOFF that begins, the KV mode that its epoch gives it being mode (Table 11.4, step 1). -/
def Fetched.newHandoff (f : Fetched) (now mode : Nat) : Handoff where
  session := f.session
  peer := bits (f.w 2) 5 0
  outgoing := true
  phase := 0
  epoch := bits (f.w 2) 31 16
  opened := now
  step := 2
  mode := mode
  tally := none
  since := 0
  tallyAddr := 0
  seq := f.seq

/-- A session's context marked outgoing by its HANDOFF (Table 11.2). -/
def Context.leaving (x : Context) (f : Fetched) (now : Nat) : Context :=
  { x with dir := { x.dir with
    outgoing := true, phase := 0, peer := bits (f.w 2) 5 0, epoch := bits (f.w 2) 31 16, opened := now } }

/-- The device with the handoff of a HANDOFF begun for the session of context c, OPEN not yet asked for. -/
def Device.withHandoff (d : Device) (f : Fetched) (c now mode : Nat) : Device :=
  { d.setCtx c ((d.ctx c).leaving f now) with
    kn := { d.kn with handoffs := d.kn.handoffs ++ [f.newHandoff now mode] } }

theorem ctx_withHandoff_same (d : Device) (f : Fetched) (c now mode : Nat) :
    (d.withHandoff f c now mode).ctx c = (d.ctx c).leaving f now := ctx_setCtx_same ..

section Begin
variable {e : Env} {d : Device} {f : Fetched}

theorem effHandoff_of_fault {x : Nat × Nat} (fault : d.handoffFault e f = some x) :
    effHandoff e d f = d.completeD e f x.1 x.2 0 := by
  simp only [effHandoff, fault]

variable (sound : d.handoffFault e f = none)
include sound

theorem effHandoff_of_limit (full : 4096 ≤ d.kn.handoffs.length) :
    effHandoff e d f = { d with kn := { d.kn with handoffWait := d.kn.handoffWait ++ [f] } } := by
  simp [effHandoff, sound, full]

theorem effHandoff_of_resident (room : d.kn.handoffs.length < 4096) {c : Nat} (resident : d.ctxOf f.session = some c) :
    ∃ mode, effHandoff e d f =
      (d.withHandoff f c e.now mode).command (bits (f.w 2) 5 0) 0x21 (.openHandoff f.session) := by
  simp only [effHandoff, sound, ge_iff_le, Nat.not_le.mpr room, if_false, Device.beginHandoff, Device.residentFor,
    resident]
  exact ⟨_, rfl⟩

end Begin

/-! ## What the ends of a handoff leave of the Kneader's tables -/

theorem Device.sameButHomes.kn {d u : Device} : d.sameButHomes u → u.kn = d.kn := by
  rintro ⟨_, _, _, _, _, _, _, rfl⟩; rfl

theorem releasePages_kn (d : Device) (c : Nat) (which : Page → Bool) : (d.releasePages c which).kn = d.kn := by
  by_cases h : (d.ctx c).pages.filter which = []
  · rw [releasePages_of_none h]
  · rw [releasePages_of_some h, (recount_sameButHomes _).kn, modCtx_eq, setCtx_kn, (homesReleased_sameButHomes ..).kn]

theorem setMoving_kn (d : Device) (c l i : Nat) (b : Bool) : (d.setMoving c l i b).kn = d.kn := by
  unfold Device.setMoving
  split <;> rfl

theorem undoMove_kn (d : Device) (m : Nat) (x : Move) : (d.undoMove m x).kn = d.kn := by
  unfold Device.undoMove
  dsimp only
  rw [delMove_kn]
  split
  · rw [setMoving_kn]
    split
    · exact ((loseOps_sameButHomes d _).trans (releaseFrame_sameButHomes ..)).kn
    split
    · exact ((loseOps_sameButHomes d _).trans (tier1Free_sameButHomes ..)).kn
    · exact (loseOps_sameButHomes d _).kn
  · exact (loseOps_sameButHomes d _).kn

theorem dropWaiting_kn (d : Device) (session : Nat) : (d.dropWaiting session).kn = d.kn :=
  have undone (l : List (Nat × Move)) : (l.foldl (fun u m => u.undoMove m.1 m.2) d).kn = d.kn :=
    foldl_kn (fun u m => undoMove_kn u m.1 m.2) d l
  undone _

theorem dirClear_kn (e : Env) (d : Device) (session : Nat) : (d.dirClear e session).kn = d.kn := rfl

/-! ## The one handoff of a node -/

section Only
variable {e : Env} {d : Device} {h : Handoff} {session : Nat} {out : Bool} (only : d.kn.handoffs = [h])
  (named : h.session = session) (side : h.outgoing = out)
include only named side

theorem handoffOf_of_only : d.handoffOf session out = some h := by
  simp [Device.handoffOf, only, named, side]

theorem delHandoff_of_only : (d.delHandoff session out).kn.handoffs = [] := by
  simp [Device.delHandoff, only, named, side]

end Only

section Source
variable {e : Env} {d : Device} {h : Handoff} {session : Nat} (only : d.kn.handoffs = [h])
  (named : h.session = session) (source : h.outgoing = true)
include only named source

theorem finishSource_handoffs : (d.finishSource session).kn.handoffs = [] := by
  have gone : ((d.dropWaiting session).delHandoff session true).kn.handoffs = [] :=
    delHandoff_of_only ((congrArg Kneader.handoffs (dropWaiting_kn d session)).trans only) named source
  unfold Device.finishSource
  dsimp only
  split
  · exact gone
  · rw [Device.vacate, setCtx_kn, modCtx_eq, setCtx_kn, releasePages_kn, gone]

theorem effTallyZero_of_count (count : d.lpNat h.tallyAddr 8 ≠ 0) : effTallyZero session e d = d := by
  simp [effTallyZero, handoffOf_of_only only named source, count]

theorem effLimitExpiry_of_early (early : e.now ≤ h.since + handoffLimit e) : effLimitExpiry session e d = d := by
  simp [effLimitExpiry, handoffOf_of_only only named source, Nat.not_lt.mpr early]

variable (serves : d.serving e = true) (sent : h.step = 7)
include serves sent

theorem effTallyZero_of_zero (zero : d.lpNat h.tallyAddr 8 = 0) :
    effTallyZero session e d = d.finishSource session := by
  simp [effTallyZero, handoffOf_of_only only named source, serves, sent, zero]

theorem effLimitExpiry_of_past (past : h.since + handoffLimit e < e.now) :
    effLimitExpiry session e d = d.finishSource session := by
  simp [effLimitExpiry, handoffOf_of_only only named source, serves, sent, past]

end Source

section Destination
variable {e : Env} {d : Device} {h : Handoff} {session : Nat} (only : d.kn.handoffs = [h])
  (named : h.session = session) (destination : h.outgoing = false)
include only named destination

theorem clearIncoming_handoffs (e : Env) : (d.clearIncoming e session).kn.handoffs = [] := by
  unfold Device.clearIncoming
  dsimp only
  split
  · refine delHandoff_of_only ?_ named destination
    rw [dirClear_kn, (logRelease_sameButHomes ..).kn, only]
  · exact delHandoff_of_only only named destination

theorem effIncomingExpiry_of_early (early : e.now ≤ h.opened + handoffLimit e) :
    effIncomingExpiry session e d = d := by
  simp [effIncomingExpiry, handoffOf_of_only only named destination, Nat.not_lt.mpr early]

theorem effIncomingExpiry_of_past (serves : d.serving e = true) (opened : h.step = 2)
    (past : h.opened + handoffLimit e < e.now) : effIncomingExpiry session e d = d.clearIncoming e session := by
  simp [effIncomingExpiry, handoffOf_of_only only named destination, serves, opened, past]

end Destination

/-- Settles O40: HANDOFF refused, begun and waiting at its limit; then the source's tally word and handoff limit, and the
destination's incoming record, before and past their moment. -/
theorem handoffBeginsAndEnds : Obligations.HandoffBeginsAndEnds := by
  refine ⟨?_, ?_⟩
  · rintro t ring s e f d rfl taken
    rw [exec_handoff]
    refine ⟨fun x fault => act_fabric_onDesc_of_eq taken (effHandoff_of_fault fault),
      fun sound room c resident => ?_,
      fun sound full => act_fabric_onDesc_of_eq taken (effHandoff_of_limit sound full)⟩
    obtain ⟨mode, begun⟩ := effHandoff_of_resident sound room resident
    obtain ⟨contexts, kneader, asked⟩ := command_asks (d.withHandoff f c (s.env.tick t).now mode) (bits (f.w 2) 5 0)
      0x21 (.openHandoff f.session)
    have marked := (contexts c).trans (ctx_withHandoff_same ..)
    refine ⟨_, act_fabric_onDesc_of_eq taken begun, ?_, ?_, ?_, ?_, asked⟩
    · rw [marked]; rfl
    · rw [marked]; rfl
    · rw [marked]; rfl
    · rw [kneader]
      exact ⟨_, rfl, rfl, rfl, rfl, rfl, rfl⟩
  · rintro t session s e h rfl serves only named
    rw [exec_handoffTallyZero, exec_handoffLimitExpiry, exec_incomingRecordExpiry]
    refine ⟨fun source sent => ?_, fun destination opened => ?_⟩
    · exact ⟨fun zero => act_fabric_of_eq (effTallyZero_of_zero only named source serves sent zero),
        fun count => act_fabric_of_eq (effTallyZero_of_count only named source count),
        fun past => act_fabric_of_eq (effLimitExpiry_of_past only named source serves sent past),
        fun early => act_fabric_of_eq (effLimitExpiry_of_early only named source early),
        finishSource_handoffs only named source⟩
    · exact ⟨fun past => act_fabric_of_eq (effIncomingExpiry_of_past only named destination serves opened past),
        fun early => act_fabric_of_eq (effIncomingExpiry_of_early only named destination early),
        clearIncoming_handoffs only named destination _⟩

end Sys2Proof.Machine
end

section
/-! PROOFS. The invariant of the registers and the clock: it holds at reset, every store and every start keeps it (R400,
R417, R419). -/

namespace Sys2Proof.Machine

/-! ## The registers at reset -/

/-- Every field of a register's layout holds its reset value, and that value is in its range. -/
def resetInRange (fs : List RField) : Bool :=
  fs.all (fun f => f.ok (bits (fs.foldl (fun a f => a + f.reset * 2 ^ f.lo) 0) f.hi f.lo))

theorem resetInRange_ite (c : Prop) [Decidable c] {x y : List RField} (hx : resetInRange x = true)
    (hy : resetInRange y = true) : resetInRange (if c then x else y) = true := by
  split
  · exact hx
  · exact hy

theorem ringFields_resetInRange (o : Nat) : resetInRange (ringFields o) = true := by
  unfold ringFields
  repeat' apply resetInRange_ite
  all_goals rfl

theorem kndFields_resetInRange (o : Nat) : resetInRange (kndFields o) = true := by
  unfold kndFields
  repeat' apply resetInRange_ite
  all_goals rfl

theorem engineFields_resetInRange (o : Nat) : resetInRange (engineFields o) = true := by
  unfold engineFields
  repeat' apply resetInRange_ite
  all_goals rfl

theorem fabricFields_resetInRange (o : Nat) : resetInRange (fabricFields o) = true := by
  unfold fabricFields
  repeat' apply resetInRange_ite
  all_goals rfl

theorem regFields_resetInRange (o : Nat) : resetInRange (regFields o) = true := by
  unfold regFields
  repeat' with_reducible apply resetInRange_ite
  · exact ringFields_resetInRange o
  · exact kndFields_resetInRange o
  · exact kndFields_resetInRange o
  · exact engineFields_resetInRange o
  · exact fabricFields_resetInRange o

/-! ## The invariant of an environment -/

/-- Fields in range, throttle above warn, LTIME within 64 bits. -/
def Env.Sound (e : Env) : Prop := e.inRange ∧ e.guarded ∧ e.now ≤ lim64

theorem sound_reset : Env.Sound {} :=
  ⟨fun o f hf => List.all_eq_true.mp (regFields_resetInRange o) f hf, by unfold Env.guarded; decide, by decide⟩

theorem sound_tick {e : Env} (h : e.Sound) (t : Nat) : (e.tick t).Sound := by
  obtain ⟨range, guarded, time⟩ := h
  exact ⟨range, guarded, (now_le_tick e t time).2⟩

/-! ## A store keeps it -/

/-- A write of fields puts nothing out of range in any of them (R419). -/
theorem writeFields_ok (closed : Bool) (lo hi w old : Nat) {fs : List RField} (hl : laidOut fs = true) {f : RField}
    (hf : f ∈ fs) (old_ok : f.ok (bits old f.hi f.lo) = true) :
    f.ok (bits (writeFields closed lo hi w old fs) f.hi f.lo) = true := by
  rw [bits_writeFields closed lo hi w old hl hf]
  split
  case isTrue takes =>
    rw [RField.takes, Bool.and_eq_true] at takes
    exact takes.2
  case isFalse => exact old_ok

/-- The guard of DMP_CTL leaves each field with its new value or its old one (R417). -/
theorem bits_dmpGuard (old new : Nat) : ∀ f ∈ regFields 0xB0008,
    bits (dmpGuard old new) f.hi f.lo = bits new f.hi f.lo ∨ bits (dmpGuard old new) f.hi f.lo = bits old f.hi f.lo := by
  have pair := warnThrottle_dmpGuard old new
  have fields : ∀ f ∈ regFields 0xB0008, (f.hi < 16 ∨ 30 ≤ f.lo) ∨ (f.hi = 22 ∧ f.lo = 16) ∨ (f.hi = 29 ∧ f.lo = 23) := by
    decide
  intro f hf
  rcases fields f hf with other | ⟨hhi, hlo⟩ | ⟨hhi, hlo⟩
  · exact .inl (bits_dmpGuard_other other old new)
  all_goals
    rw [hhi, hlo]
    split at pair
    · left; simp_all [warnThrottle]
    · right; simp_all [warnThrottle]

/-- The word that a store leaves holds its fields in range. -/
theorem storedWord_ok {e : Env} (h : e.inRange) (o lo hi w : Nat) :
    ∀ f ∈ regFields o, f.ok (bits (storedWord e o lo hi w) f.hi f.lo) = true := by
  intro f hf
  have old_ok := h o f hf
  have new_ok := writeFields_ok e.closed lo hi w (regWord e o) (regFields_laidOut o) hf old_ok
  by_cases dmp : o = 0xB0008
  · subst dmp
    have guarded : storedWord e 0xB0008 lo hi w =
        dmpGuard (regWord e 0xB0008) (writeFields e.closed lo hi w (regWord e 0xB0008) (regFields 0xB0008)) := by
      simp [storedWord]
    rw [guarded]
    rcases bits_dmpGuard (regWord e 0xB0008) _ f hf with hb | hb
    · rw [hb]; exact new_ok
    · rw [hb]; exact old_ok
  · simp only [storedWord, if_neg dmp]
    split
    · exact old_ok
    · exact new_ok

/-- A store into DMP_CTL leaves throttle above warn (R417). -/
theorem guarded_storedWord {e : Env} (h : e.guarded) (lo hi w : Nat) :
    bits (storedWord e 0xB0008 lo hi w) 22 16 < bits (storedWord e 0xB0008 lo hi w) 29 23 := by
  have pair := warnThrottle_dmpGuard (regWord e 0xB0008)
    (writeFields e.closed lo hi w (regWord e 0xB0008) (regFields 0xB0008))
  simp only [storedWord, if_true, show ¬ (0xB0008 = 0x30) by decide, decide_false, Bool.false_and, Bool.false_eq_true,
    if_false]
  split at pair
  case isTrue above =>
    simp only [warnThrottle, Prod.mk.injEq] at pair
    rw [pair.1, pair.2]; exact above
  case isFalse =>
    simp only [warnThrottle, Prod.mk.injEq] at pair
    rw [pair.1, pair.2]; exact h

theorem sound_regStore {e : Env} (h : e.Sound) (o lo hi w : Nat) : (regStore e o lo hi w).Sound := by
  obtain ⟨range, guarded, time⟩ := h
  refine ⟨fun o' f hf => ?_, ?_, by rw [regStore_now]; exact time⟩
  · rw [regWord_regStore]
    split
    · rename_i same; subst same
      exact storedWord_ok range o' lo hi w f hf
    · exact range o' f hf
  · rw [Env.guarded, warnAt, throttleAt, reg, reg, regWord_regStore]
    split
    · rename_i same; subst same
      exact guarded_storedWord guarded lo hi w
    · exact guarded

theorem sound_storeWrite {e : Env} (h : e.Sound) (o w v : Nat) : (storeWrite o w v e).Sound := by
  by_cases hn : narrowWrite o w
  · obtain ⟨lo, hi, x, -, heq, -⟩ := storeWrite_of_narrow hn v e
    rw [heq]; exact sound_regStore h _ _ _ _
  · rw [storeWrite_of_not_narrow hn]; exact h

theorem sound_chanMapWrite {e : Env} (h : e.Sound) (o w v : Nat) : (chanMapWrite o w v e).Sound := by
  unfold chanMapWrite
  split
  · exact sound_regStore (sound_regStore h _ _ _ _) _ _ _ _
  · split
    · exact sound_storeWrite h o 8 v
    · exact h

/-! ## The close, the register writes -/

/-- A close changes of the environment at most that set-up is closed. -/
theorem effSetupClose_env (v : Nat) (e : Env) (d : Device) :
    (effSetupClose v e d).1 = e ∨ (effSetupClose v e d).1 = { e with closed := true } := by
  unfold effSetupClose
  split
  · exact .inl rfl
  · split
    · exact .inl rfl
    · exact .inr rfl

/-! ## Starts (R387, R415) -/

theorem sound_applyEntries {e : Env} (h : e.Sound) (es : List (Nat × Nat)) : (applyEntries e es).Sound := by
  unfold applyEntries
  induction es generalizing e with
  | nil => exact h
  | cons x es ih => exact ih (sound_regStore h _ _ _ _)

/-- The settings leave the registers as they are, or write a list of entries into them (R391, R392). -/
theorem applySettings_env (st : StartInput) (e : Env) (d : Device) :
    ∃ es, (applySettings st e d).1 = applyEntries e es := by
  have unchanged : ∃ es, e = applyEntries e es := ⟨[], rfl⟩
  unfold applySettings
  dsimp only
  split
  · exact unchanged
  split
  · split
    · exact ⟨_, rfl⟩
    · exact unchanged
  split
  · exact unchanged
  · exact ⟨_, rfl⟩

/-- A start leaves the registers at reset but for the entries of a settings blob. -/
theorem boot_env (st : StartInput) (e : Env) (d : Device) : ∃ es, (boot st e d).1 = applyEntries {} es := by
  have at_reset : ∃ es, ({} : Env) = applyEntries {} es := ⟨[], rfl⟩
  unfold boot
  dsimp only
  split
  · exact at_reset
  · split
    · exact at_reset
    · exact applySettings_env _ _ _

theorem sound_boot (st : StartInput) (e : Env) (d : Device) : (boot st e d).1.Sound := by
  obtain ⟨es, heq⟩ := boot_env st e d
  rw [heq]; exact sound_applyEntries sound_reset es

/-! ## The commands -/

/-- A command that may start the device starts it, or moves the clock alone. -/
theorem exec_env_of_start {c : Instr} {s u : State} (hs : mayStart c = true) (h : exec c s = .next u) :
    ∃ t, u.env = s.env.tick t ∨ ∃ st, u.env = (boot st (s.env.tick t) s.dev).1 := by
  cases c with
  | powerOn t low st =>
    rw [env_of_actEnv h]; unfold effPowerOn
    refine ⟨t, ?_⟩
    split
    · exact .inl rfl
    split
    · exact .inl rfl
    · exact .inr ⟨st, rfl⟩
  | pinReset t st =>
    rw [env_of_actEnv h]; unfold effPinReset
    refine ⟨t, ?_⟩
    split
    · exact .inl rfl
    · exact .inr ⟨st, rfl⟩
  | softStart t st =>
    rw [env_of_actEnv h]; unfold effSoftStart
    refine ⟨t, ?_⟩
    split
    · exact .inr ⟨st, rfl⟩
    · exact .inl rfl
  | _ => simp [mayStart] at hs

/-- A command that may write registers moves the clock, and then closes set-up, stores into a register or the channel
map, or leaves them. -/
theorem exec_env_of_write {c : Instr} {s u : State} (hw : mayWriteRegs c = true) (h : exec c s = .next u) :
    ∃ t o w v, bar0Env o w v (s.env.tick t) s.dev u.env := by
  cases c with
  | setupClose t v => exact ⟨t, 0, 0, v, .inr (.inl (env_of_actEnv h))⟩
  | apertureWrite t v =>
    rw [env_of_actEnv h]; unfold effAperture
    refine ⟨t, 0x30, 8, v, ?_⟩
    split
    · exact .inr (.inr (.inr ⟨0x30, rfl⟩))
    · exact .inl rfl
  | dmpCtlWrite t o w v =>
    rw [env_of_actEnv h]; unfold effDmpCtl
    refine ⟨t, o, w, v, ?_⟩
    split
    · exact .inr (.inr (.inr ⟨_, rfl⟩))
    · exact .inl rfl
  | registerWrite t i3c bar o w v =>
    rw [env_of_actEnv h]
    refine ⟨t, o, w, v, ?_⟩
    rcases effRegisterWrite_env_cases i3c bar o w v (s.env.tick t) s.dev with heq | heq <;> rw [heq]
    · exact .inl rfl
    · exact effBar0_env o w v (s.env.tick t) s.dev
  | _ => simp [mayWriteRegs] at hw

theorem sound_bar0Env {o w v : Nat} {e e' : Env} {d : Device} (h : e.Sound) (hb : bar0Env o w v e d e') : e'.Sound := by
  rcases hb with heq | heq | heq | ⟨o', heq⟩ <;> rw [heq]
  · exact h
  · rcases effSetupClose_env v e d with heq | heq <;> rw [heq] <;> exact h
  · exact sound_chanMapWrite h o w v
  · exact sound_storeWrite h o' w v

/-- Every command keeps the invariant: it moves the clock, writes registers, or starts the device. -/
theorem exec_sound {c : Instr} {s u : State} (hs : s.env.Sound) (h : exec c s = .next u) : u.env.Sound := by
  by_cases start : mayStart c = true
  · obtain ⟨t, heq | ⟨st, heq⟩⟩ := exec_env_of_start start h
    · rw [heq]; exact sound_tick hs t
    · rw [heq]; exact sound_boot st _ _
  · by_cases write : mayWriteRegs c = true
    · obtain ⟨t, o, w, v, hb⟩ := exec_env_of_write write h
      exact sound_bar0Env (sound_tick hs t) hb
    · obtain ⟨t, heq⟩ := exec_env_of_no_write (by simpa using start) (by simpa using write) h
      rw [heq]; exact sound_tick hs t

/-- Settles O4: an idle step changes nothing, and every command keeps the invariant. -/
theorem stepKeepsRegistersInRange : Obligations.StepKeepsRegistersInRange := by
  intro s u inv next
  unfold step at next
  split at next
  · cases next; exact inv
  · rename_i c rest _
    exact exec_sound (s := { s with pending := rest }) inv next

/-- Settles O5. -/
theorem resetMeetsInvariants : Obligations.ResetMeetsInvariants :=
  ⟨sound_reset, rfl, rfl, rfl, rfl, fun _ => rfl⟩

/-! ## LTIME and the registers (R400) -/

theorem chanMapWrite_now (o w v : Nat) (e : Env) : (chanMapWrite o w v e).now = e.now := by
  unfold chanMapWrite
  split
  · rw [regStore_now, regStore_now]
  · split
    · exact storeWrite_now o 8 v e
    · rfl

theorem bar0Env_now {o w v : Nat} {e e' : Env} {d : Device} (h : bar0Env o w v e d e') : e'.now = e.now := by
  rcases h with heq | heq | heq | ⟨o', heq⟩ <;> rw [heq]
  · rcases effSetupClose_env v e d with heq | heq <;> rw [heq]
  · exact chanMapWrite_now o w v e
  · exact storeWrite_now o' w v e

/-- A command that does not start the device leaves LTIME at the command's moment. -/
theorem exec_now {c : Instr} {s u : State} (hs : mayStart c = false) (h : exec c s = .next u) :
    ∃ t, u.env.now = (s.env.tick t).now := by
  by_cases write : mayWriteRegs c = true
  · obtain ⟨t, o, w, v, hb⟩ := exec_env_of_write write h
    exact ⟨t, bar0Env_now hb⟩
  · obtain ⟨t, heq⟩ := exec_env_of_no_write hs (by simpa using write) h
    exact ⟨t, congrArg Env.now heq⟩

/-- Settles O2. -/
theorem clockAndRegistersKeepTheirRules : Obligations.ClockAndRegistersKeepTheirRules := by
  refine ⟨fun c s u start time next => ?_, fun c s u start write next => ?_⟩
  · obtain ⟨t, heq⟩ := exec_now start next
    rw [heq]
    exact now_le_tick s.env t time
  · obtain ⟨t, heq⟩ := exec_env_of_no_write start write next
    rw [heq]
    exact ⟨rfl, rfl⟩

/-! ## The queue of waiting commands -/

theorem pending_of_act {s u : State} {t : Nat} {f : Env → Device → Device} (h : s.act t f = .next u) :
    u.pending = s.pending := by
  cases h; rfl

theorem pending_of_actEnv {s u : State} {t : Nat} {f : Env → Device → Env × Device} (h : s.actEnv t f = .next u) :
    u.pending = s.pending := by
  cases h; rfl

/-- No command touches the queue. -/
theorem exec_pending {c : Instr} {s u : State} (h : exec c s = .next u) : u.pending = s.pending := by
  cases c with
  | powerOn | pinReset | softStart | setupClose | apertureWrite | dmpCtlWrite | registerWrite | powerLoss
  | fixedRailOutOfRange => exact pending_of_actEnv h
  | windowRead t o n unc =>
    by_cases hout : outside o n = true
    · simp [exec, execWindowRead, hout] at h
    · exact pending_of_act ((if_neg hout).symm.trans h)
  | windowWrite t o data =>
    by_cases hout : outside o data.length = true
    · simp [exec, execWindowWrite, hout] at h
    · exact pending_of_act ((if_neg hout).symm.trans h)
  | submissionDoorbell | resyncDoorbell | embed | attest | resync => cases h; rfl
  | _ => exact pending_of_act h

/-- Settles O1. -/
theorem stepRunsFrontCommand : Obligations.StepRunsFrontCommand := by
  refine ⟨⟨fun _ _ => rfl, fun s idle => ?_⟩, fun _ _ _ next => exec_pending next⟩
  unfold step
  rw [idle]

end Sys2Proof.Machine
end

section
/-! PROOFS. The close of set-up (R420–R427, Tables 18.8 and 18.11) and HIF_RING_ENABLE (R421). -/

namespace Sys2Proof.Machine

theorem exec_setupClose (t v : Nat) (s : State) : exec (.setupClose t v) s = s.actEnv t (effSetupClose v) := rfl

theorem exec_ringEnable (t v : Nat) (s : State) : exec (.ringEnable t v) s = s.act t (effRingEnable v) := rfl

/-! ## Events leave the host link as it is -/

@[simp] theorem message_linkUp (d : Device) (v : Nat) : (d.message v).hif.linkUp = d.hif.linkUp := by
  unfold Device.message
  split
  · split <;> rfl
  · rfl

@[simp] theorem setRing_linkUp (d : Device) (k : RingKind) (n : Nat) (r : DevRing) :
    (d.setRing k n r).hif.linkUp = d.hif.linkUp := by rw [setRing_hif]

theorem interrupt_linkUp (d : Device) (e : Env) (k : RingKind) (n : Nat) :
    (d.interrupt e k n).hif.linkUp = d.hif.linkUp := by
  unfold Device.interrupt
  dsimp only
  split
  · exact message_linkUp d _
  · rw [setRing_linkUp, message_linkUp]

theorem putEntry_linkUp (d : Device) (e : Env) (k : RingKind) (n : Nat) (bs : List Byte) (counted urgent : Bool) :
    (d.putEntry e k n bs counted urgent).hif.linkUp = d.hif.linkUp := by
  obtain ⟨pend, message, h⟩ := putEntry_eq d e k n bs counted urgent
  have entered : (d.entered e k n bs pend).hif.linkUp = d.hif.linkUp := by
    rw [Device.entered, setRing_linkUp, hostWrite_hif]
  rw [h]
  split
  · rw [interrupt_linkUp, entered]
  · exact entered

theorem writeEvent_linkUp (d : Device) (e : Env) (ev : Event) : (d.writeEvent e ev).hif.linkUp = d.hif.linkUp := by
  unfold Device.writeEvent
  split
  · exact putEntry_linkUp d e _ _ _ _ _
  · rfl

@[simp] theorem raise_linkUp (d : Device) (e : Env) (c a b : Nat) : (d.raise e c a b).hif.linkUp = d.hif.linkUp := by
  unfold Device.raise
  dsimp only
  split
  · rfl
  split
  · exact writeEvent_linkUp d e _
  split <;> rfl

/-! ## A close that passes every check (Table 18.11) -/

/-- What the events of a close leave: the Kneader's tables, the pin ALERT_N and the host link. -/
def Device.sameService (d u : Device) : Prop :=
  u.kn = d.kn ∧ u.dmp.alert = d.dmp.alert ∧ u.hif.linkUp = d.hif.linkUp

theorem Device.sameService.refl (d : Device) : d.sameService d := ⟨rfl, rfl, rfl⟩

theorem Device.sameService.trans {d u v : Device} (h : d.sameService u) (h' : u.sameService v) : d.sameService v :=
  ⟨h'.1.trans h.1, h'.2.1.trans h.2.1, h'.2.2.trans h.2.2⟩

theorem raise_sameService (d : Device) (e : Env) (c a b : Nat) : d.sameService (d.raise e c a b) :=
  ⟨raise_kn d e c a b, by rw [raise_dmp], raise_linkUp d e c a b⟩

theorem saveSettings_sameService (e : Env) (d : Device) : d.sameService (d.saveSettings e) := by
  unfold Device.saveSettings
  dsimp only
  split
  · exact .refl d
  · exact ⟨rfl, rfl, rfl⟩

theorem migrationEvent_sameService (e : Env) (d : Device) : d.sameService (d.migrationEvent e) := by
  unfold Device.migrationEvent
  split
  · exact .refl d
  · exact raise_sameService ..

theorem heldStorms_sameService (e : Env) (d : Device) : d.sameService (d.heldStorms e) := by
  have fold (ps : List Nat) (u : Device) : u.sameService (ps.foldl (fun d p => d.stormEvent e p) u) := by
    induction ps generalizing u with
    | nil => exact .refl u
    | cons p ps ih => exact (raise_sameService u e _ _ _).trans (ih _)
  exact Device.sameService.trans ⟨rfl, rfl, rfl⟩ (fold _ _)

theorem copyCal_sameService (e : Env) (d : Device) : d.sameService (d.copyCal e) :=
  ⟨lpWrites_kn .., by rw [Device.copyCal, lpWrites_dmp], by rw [Device.copyCal, lpWrites_hif]⟩

theorem startOutlets_sameService (e : Env) (d : Device) : d.sameService (d.startOutlets e) := ⟨rfl, rfl, rfl⟩

/-- The device with a fresh Kneader, its boot confirmed and ALERT_N released (R389, Table 18.11). -/
def Device.released (e : Env) (d : Device) : Device :=
  { d with kn := { released := e.now }, hearth := d.hearth.confirm, dmp := { d.dmp with alert := false } }

theorem closeSetup_sameService (e : Env) (d : Device) : (d.released e).sameService (closeSetup e d).2 :=
  ((((copyCal_sameService _ _).trans (startOutlets_sameService _ _)).trans (saveSettings_sameService _ _)).trans
    (migrationEvent_sameService _ _)).trans (heldStorms_sameService _ _)

/-! ## The commands' effects -/

section Close
variable {e : Env} {d : Device} {v : Nat} (asked : bit v 0 = true) (isOpen : e.closed = false)
  (up : d.hif.linkUp = true) (runs : d.mode = .running) (thawed : d.logicFrozen = false)
include asked isOpen up runs thawed

theorem effSetupClose_of_passed (passed : d.closeRefusal e = none) : effSetupClose v e d = closeSetup e d := by
  simp [effSetupClose, asked, isOpen, up, runs, thawed, passed]

theorem effSetupClose_of_refused {code off : Nat} (refused : d.closeRefusal e = some (code, off)) :
    effSetupClose v e d = (e, { d with hif := { d.hif with refusal := code, offender := off },
                                       dmp := { d.dmp with alert := code == 1 } }) := by
  simp [effSetupClose, asked, isOpen, up, runs, thawed, refused]

end Close

/-! ## The order of the checks (Table 18.8) -/

theorem closeRefusal_of_warn {d : Device} (warned : d.dmp.warnPin = true) (e : Env) :
    d.closeRefusal e = some (1, 0) := by
  simp [Device.closeRefusal, warned]

theorem closeRefusal_of_badRun {e : Env} {d : Device} (quiet : d.dmp.warnPin = false) {r : Nat}
    (bad : badRun [] (bankRuns e) = some r) : d.closeRefusal e = some (2, r) := by
  simp [Device.closeRefusal, quiet, bad]

theorem none_of_ite_some {α : Type} {c : Prop} [Decidable c] {x : α} {y : Option α}
    (h : (if c then some x else y) = none) : ¬ c ∧ y = none := by
  split at h
  · cases h
  · rename_i hc; exact ⟨hc, h⟩

/-- A close that passes has met each check in turn. What the searches answer is generalised first: the kernel would
evaluate them. -/
theorem checks_of_closeRefusal_none {e : Env} {d : Device} (passed : d.closeRefusal e = none) :
    d.dmp.warnPin = false ∧ d.shortfall e = 0 ∧ chanMapOk e = true ∧
      damperShare e 0 + damperShare e 1 + damperShare e 2 + damperShare e 3 ≤ envelope e := by
  unfold Device.closeRefusal at passed
  generalize badRun [] (bankRuns e) = runs at passed
  generalize (areas e).find? Area.astray = astray at passed
  generalize overlap [] (solids e) = clash at passed
  generalize misplaced (winBase e) (solids e) [] (regions e) = misfit at passed
  obtain ⟨quiet, passed⟩ := none_of_ite_some passed
  cases runs with
  | some r => cases passed
  | none =>
  obtain ⟨enough, passed⟩ := none_of_ite_some passed
  obtain ⟨-, passed⟩ := none_of_ite_some passed
  obtain ⟨mapped, passed⟩ := none_of_ite_some passed
  cases astray with
  | some a => cases passed
  | none =>
  cases clash with
  | some r => cases passed
  | none =>
  cases misfit with
  | some r => cases passed
  | none =>
  obtain ⟨shares, -⟩ := none_of_ite_some passed
  exact ⟨by simpa using quiet, by simpa using enough, by simpa using mapped, Nat.le_of_not_gt shares⟩

/-- Settles O6: a close that passes, a close refused, and the order of the checks. -/
theorem closeClosesOrSaysWhy : Obligations.CloseClosesOrSaysWhy := by
  refine ⟨?_, fun e d => ⟨fun warned => closeRefusal_of_warn warned e, fun quiet r bad => closeRefusal_of_badRun quiet bad,
    checks_of_closeRefusal_none⟩⟩
  rintro t v s e rfl asked isOpen up runs thawed
  rw [exec_setupClose, actEnv_eq]
  refine ⟨fun passed => ?_, fun code off refused => ?_⟩
  · rw [effSetupClose_of_passed (e := s.env.tick t) asked isOpen up runs thawed passed]
    obtain ⟨kneader, alert, link⟩ := closeSetup_sameService (s.env.tick t) s.dev
    exact ⟨_, rfl, rfl, rfl, by rw [kneader]; rfl, by rw [alert]; rfl, by rw [link]; exact up⟩
  · rw [effSetupClose_of_refused (e := s.env.tick t) asked isOpen up runs thawed refused]
    exact ⟨_, rfl, isOpen, rfl, rfl, rfl, rfl, rfl⟩

/-! ## HIF_RING_ENABLE (R421) -/

/-- The value that names submission ring n (Table 18.3). -/
theorem enable_submission_bits {n : Nat} (h : n < 256) : bits (4 * n) 1 0 = 0 ∧ bits (4 * n) 9 2 = n := by
  simp only [bits_eq_div_mod]; omega

section Enable
variable {e : Env} {d : Device} {n : Nat} (small : n < 256) (up : d.hif.linkUp = true) (runs : d.mode = .running)
  (off : (d.sqr n).enabled = false)
include small up runs off

theorem effRingEnable_submission : effRingEnable (4 * n) e d =
    if (!e.closed) || ringBaseBad (sqBase e n) (64 * sqSize e n) || !(d.ring .cq (sqCq e n)).enabled then
      { d with hif := { d.hif with enableRefused := true } }
    else d.setSq n { d.sqr n with enabled := true } := by
  obtain ⟨kind, ring⟩ := enable_submission_bits small
  simp [effRingEnable, kind, ring, up, runs, off, Device.regsUp]

end Enable

/-- Settles O7. -/
theorem ringEnableEnablesOrRefuses : Obligations.RingEnableEnablesOrRefuses := by
  rintro t n s e rfl small up runs off
  rw [exec_ringEnable, act_eq, effRingEnable_submission small up runs off]
  refine ⟨fun closed good completion => ?_, fun refused => ?_⟩
  · simp [closed, good, completion]
  · rw [if_pos]
    rcases refused with h | h | h <;> simp_all

end Sys2Proof.Machine
end

section
/-! PROOFS. The Damper (R397–R410): pace, the freeze floor, heat, the pins. -/

namespace Sys2Proof.Machine

theorem exec_paceLow (t dom pace mv tj : Nat) (s : State) :
    exec (.paceLow t dom pace mv tj) s = s.act t (effPaceLow dom pace mv tj) := rfl

theorem exec_paceLowDeferred (t dom : Nat) (s : State) :
    exec (.paceLowDeferred t dom) s = s.act t (effPaceDeferred dom) := rfl

theorem exec_freeze (t dom mv : Nat) (s : State) : exec (.freeze t dom mv) s = s.act t (effFreeze dom mv) := rfl

theorem exec_thaw (t dom mv : Nat) (s : State) : exec (.thaw t dom mv) s = s.act t (effThaw dom mv) := rfl

theorem exec_freezeLimit (t dom : Nat) (s : State) : exec (.freezeLimit t dom) s = s.act t (effFreezeLimit dom) := rfl

theorem exec_thermal (t dom tj : Nat) (s : State) : exec (.thermal t dom tj) s = s.act t (effThermal dom tj) := rfl

theorem exec_thermalDeferred (t : Nat) (s : State) : exec (.thermalDeferred t) s = s.act t effThermalDeferred := rfl

theorem exec_thermalFactorStep (t : Nat) (s : State) : exec (.thermalFactorStep t) s = s.act t effFactorStep := rfl

theorem exec_pwrWarn (t : Nat) (s : State) : exec (.pwrWarn t) s = s.act t effPwrWarn := rfl

theorem exec_pwrWarnRelease (t : Nat) (s : State) : exec (.pwrWarnRelease t) s = s.act t effWarnRelease := rfl

theorem exec_throttle (t : Nat) (b : Bool) (s : State) : exec (.throttle t b) s = s.act t (effThrottle b) := rfl

theorem exec_pwrWarnStuck (t pin : Nat) (s : State) : exec (.pwrWarnStuck t pin) s = s.act t (effWarnStuck pin) := rfl

theorem exec_inputStorm (t pin : Nat) (s : State) : exec (.inputStorm t pin) s = s.act t (effInputStorm pin) := rfl

/-! ## Lists of domains -/

theorem contains_filter_ne (l : List Nat) (a : Nat) : (l.filter (· != a)).contains a = false := by simp

theorem contains_filter_ne_other (l : List Nat) {a x : Nat} (h : x ≠ a) :
    (l.filter (· != a)).contains x = l.contains x := by
  simp [List.contains_eq_mem, h]

theorem contains_append_self (l : List Nat) (a : Nat) : (l ++ [a]).contains a = true := by simp

/-! ## The halt (R411, R412) -/

@[simp] theorem finishHalt_mode (e : Env) (d : Device) : (d.finishHalt e).mode = .halted := by
  unfold Device.finishHalt; rfl

/-- Any cause but a power warning halts a running device at once. -/
theorem halt_mode {d : Device} (runs : d.mode = .running) (awake : d.logicFrozen = false) {cause : Nat}
    (other : cause ≠ 1) (e : Env) : (d.halt e cause).mode = .halted := by
  rw [halt_of_running runs awake other, finishHalt_mode]

/-! ## Pace (R397–R399) -/

/-- The device after a crossing of dom's floor is noted: below the floor now, or not any more. -/
def Device.crossed (d : Device) (dom : Nat) (low : Bool) : Device :=
  { d with dmp := { d.dmp with below := if low then d.dmp.below ++ [dom] else d.dmp.below.filter (· != dom) } }

theorem crossed_below (d : Device) (dom : Nat) (low : Bool) : (d.crossed dom low).dmp.below.contains dom = low := by
  cases low
  · exact contains_filter_ne ..
  · exact contains_append_self ..

section Pace
variable {e : Env} {d : Device} {dom : Nat}

/-- A crossing in service, the first one of its domain, is reported at once. -/
theorem effPaceLow_of_crossing (on : d.powered = true) (known : dom ≤ 12) (awake : d.logicFrozen = false)
    (closed : e.closed = true) {pace : Nat} (crosses : d.dmp.below.contains dom ≠ decide (pace < paceFloor e dom))
    (first : tfind d.dmp.lastPace dom = none) (free : tfind d.dmp.heldPace dom = none) (mv tj : Nat) :
    effPaceLow dom pace mv tj e d =
      ((d.notePace dom pace mv).crossed dom (decide (pace < paceFloor e dom))).paceEvent e dom pace mv tj := by
  have differs : ((d.notePace dom pace mv).dmp.below.contains dom == decide (pace < paceFloor e dom)) = false :=
    beq_eq_false_iff_ne.mpr crosses
  have stored : (if (d.notePace dom pace mv).dmp.below.contains dom = true then
      (d.notePace dom pace mv).dmp.below.filter (· != dom) else (d.notePace dom pace mv).dmp.below ++ [dom]) =
      ((d.notePace dom pace mv).crossed dom (decide (pace < paceFloor e dom))).dmp.below := by
    have flips : decide (pace < paceFloor e dom) = !(d.notePace dom pace mv).dmp.below.contains dom :=
      (Bool.eq_not_of_ne crosses.symm)
    rw [flips]
    cases (d.notePace dom pace mv).dmp.below.contains dom <;> rfl
  have first' : tfind (d.notePace dom pace mv).dmp.lastPace dom = none := first
  have free' : tfind (d.notePace dom pace mv).dmp.heldPace dom = none := free
  unfold effPaceLow
  have guard : (!d.powered || decide (dom > 12) || d.logicFrozen) = false := by simp [on, awake, known]
  simp only [guard, differs, closed, stored, first', free']
  rfl

/-- What PACE_LOW leaves of the Damper. -/
theorem paceEvent_dmp (d : Device) (e : Env) (dom pace mv tj : Nat) : (d.paceEvent e dom pace mv tj).dmp =
    { d.dmp with lastPace := tset d.dmp.lastPace dom e.now, heldPace := tdel d.dmp.heldPace dom } := by
  simp [Device.paceEvent]

theorem paceEvent_lp (d : Device) (e : Env) (dom pace mv tj : Nat) : (d.paceEvent e dom pace mv tj).lp = d.lp := by
  simp [Device.paceEvent]

theorem paceEvent_reqs (d : Device) (e : Env) (dom pace mv tj : Nat) :
    (d.paceEvent e dom pace mv tj).reqs = d.reqs := by
  simp [Device.paceEvent]

section Deferred
variable {x : Nat × Nat × Nat} (heldBack : tfind d.dmp.heldPace dom = some x) {t0 : Nat}
  (last : tfind d.dmp.lastPace dom = some t0)
include heldBack last

theorem effPaceDeferred_of_due (on : d.powered = true) (awake : d.logicFrozen = false)
    (due : t0 + 1000000000 ≤ e.now) : effPaceDeferred dom e d = d.paceEvent e dom x.1 x.2.1 x.2.2 := by
  simp [effPaceDeferred, heldBack, last, on, awake, Nat.not_lt.mpr due]

theorem effPaceDeferred_of_early (early : e.now < t0 + 1000000000) : effPaceDeferred dom e d = d := by
  simp [effPaceDeferred, heldBack, last, early]

end Deferred

/-! ## The freeze floor (R401, R402) -/

/-- A frozen domain: at pace 0, since now. -/
def Device.froze (e : Env) (d : Device) (dom mv : Nat) : Device :=
  { d with dmp := { d.dmp with frozen := d.dmp.frozen ++ [dom], frozenAt := tset d.dmp.frozenAt dom e.now,
                               pace := tset d.dmp.pace dom 0, supply := tset d.dmp.supply dom mv } }

theorem effFreeze_of_low (on : d.powered = true) (known : dom ≤ 12) (thawed : d.dmp.frozen.contains dom = false)
    {mv : Nat} (low : mv < 500) : effFreeze dom mv e d = d.froze e dom mv := by
  have guard : (!d.powered || decide (dom > 12) || decide (mv ≥ 500) || d.dmp.frozen.contains dom) = false := by
    simp only [on, thawed]; simp; omega
  unfold effFreeze
  rw [guard]; rfl

theorem effFreeze_of_high {mv : Nat} (high : 500 ≤ mv) : effFreeze dom mv e d = d := by
  simp [effFreeze, high]

theorem effThaw_of_slice (on : d.powered = true) (frozen : d.dmp.frozen.contains dom = true) {mv : Nat} (high : 520 ≤ mv)
    (slice : dom < 12) : effThaw dom mv e d = { d with dmp := { d.dmp with
      frozen := d.dmp.frozen.filter (· != dom), frozenAt := tdel d.dmp.frozenAt dom,
      supply := tset d.dmp.supply dom mv } } := by
  have guard : (!d.powered || decide (mv < 520) || !d.dmp.frozen.contains dom) = false := by
    simp only [on, frozen]; simp; omega
  unfold effThaw
  rw [guard]
  simp only [Bool.false_eq_true, if_false, if_neg (Nat.ne_of_lt slice)]

theorem effThaw_of_low {mv : Nat} (low : mv < 520) : effThaw dom mv e d = d := by
  simp [effThaw, low]

section Limit
variable {t0 : Nat} (since : tfind d.dmp.frozenAt dom = some t0)
include since

theorem effFreezeLimit_of_past (on : d.powered = true) (frozen : d.dmp.frozen.contains dom = true)
    (past : t0 + freezeLimitNs e < e.now) : effFreezeLimit dom e d = d.halt e 5 := by
  simp only [effFreezeLimit, since, on, frozen, past, decide_true, Bool.and_true, if_true]

theorem effFreezeLimit_of_within (within : e.now ≤ t0 + freezeLimitNs e) : effFreezeLimit dom e d = d := by
  simp only [effFreezeLimit, since, Nat.not_lt.mpr within, decide_false, Bool.and_false, Bool.false_eq_true, if_false]

end Limit

end Pace

/-- Settles O46: crossings, at once and deferred; then freezes, thaws and the limit. -/
theorem paceFreezeAndThaw : Obligations.PaceFreezeAndThaw := by
  refine ⟨?_, ?_⟩
  · rintro t dom pace mv tj s e rfl on known awake
    rw [exec_paceLow, exec_paceLowDeferred, act_eq, act_eq]
    refine ⟨fun closed crosses first free => ?_, fun t0 x heldBack last => ⟨fun due => ?_, fun early => ?_⟩⟩
    · rw [effPaceLow_of_crossing (e := s.env.tick t) on known awake closed crosses first free]
      refine ⟨_, rfl, ?_⟩
      simp only [paceEvent_dmp, paceEvent_lp, paceEvent_reqs]
      exact ⟨tget_tset_same .., tget_tset_same .., crossed_below .., tfind_tset_same .., rfl, rfl⟩
    · rw [effPaceDeferred_of_due (e := s.env.tick t) heldBack last on awake due]
      refine ⟨_, rfl, ?_⟩
      simp only [paceEvent_dmp]
      exact ⟨tfind_tdel_same .., tfind_tset_same .., trivial⟩
    · rw [effPaceDeferred_of_early (e := s.env.tick t) heldBack last early]
  · rintro t dom mv s e rfl on known
    rw [exec_freeze, exec_thaw, exec_freezeLimit, act_eq, act_eq, act_eq]
    refine ⟨fun thawed => ⟨fun low => ?_, fun high => ?_⟩, fun frozen => ⟨fun high slice => ?_, fun low => ?_,
      fun t0 since => ⟨fun past => ?_, fun within => ?_⟩⟩⟩
    · rw [effFreeze_of_low (e := s.env.tick t) on known thawed low]
      exact ⟨_, rfl, rfl, tfind_tset_same .., tget_tset_same .., rfl⟩
    · rw [effFreeze_of_high (e := s.env.tick t) high]
    · rw [effThaw_of_slice (e := s.env.tick t) on frozen high slice]
      exact ⟨_, rfl, contains_filter_ne .., tfind_tdel_same .., rfl, fun x other => contains_filter_ne_other _ other⟩
    · rw [effThaw_of_low (e := s.env.tick t) low]
    · rw [effFreezeLimit_of_past (e := s.env.tick t) since on frozen past]
    · rw [effFreezeLimit_of_within (e := s.env.tick t) since within]

/-! ## Heat (R404–R406) -/

/-- The level rises with the reading. -/
theorem thermalLevel_mono (e : Env) (d : Device) {a b : Nat} (h : a ≤ b) : d.thermalLevel e a ≤ d.thermalLevel e b := by
  simp only [Device.thermalLevel, Bool.or_eq_true, Bool.and_eq_true, decide_eq_true_eq]
  generalize d.threshold 105 = hot
  generalize d.threshold (throttleAt e) = throttle
  generalize d.threshold (warnAt e) = warn
  split_ifs <;> omega

/-- The device with a new reading and the level that follows from it. -/
def Device.heated (d : Device) (l dom tj : Nat) : Device :=
  { d with dmp := { d.dmp with level := l, tj := tj, tjDomain := dom } }

/-- u is d but for what the reports of heat change: events, and when they were made. -/
def Device.sameHeat (d u : Device) : Prop :=
  u.dmp.level = d.dmp.level ∧ u.dmp.tj = d.dmp.tj ∧ u.dmp.tjDomain = d.dmp.tjDomain ∧ u.dmp.frozen = d.dmp.frozen ∧
    u.mode = d.mode

theorem Device.sameHeat.refl (d : Device) : d.sameHeat d := ⟨rfl, rfl, rfl, rfl, rfl⟩

theorem thermalEvent_dmp (e : Env) (d : Device) : (d.thermalEvent e).dmp =
    { d.dmp with lastThermal := some e.now, heldLevel := false, reported := d.dmp.level } := by
  simp [Device.thermalEvent]

theorem thermalEvent_sameHeat (e : Env) (d : Device) : d.sameHeat (d.thermalEvent e) := by
  simp only [Device.sameHeat, thermalEvent_dmp]
  simp [Device.thermalEvent]

/-- What a changed level does before any halt (R405): nothing is raised before the close, level 3 is reported at once,
and within 10 ms of the last report the change is held. -/
def Device.reportHeat (e : Env) (d : Device) : Device :=
  if !e.closed then { d with dmp := { d.dmp with reported := d.dmp.level } }
  else if d.dmp.level = 3 then d.thermalEvent e
  else if d.dmp.level = d.dmp.reported then { d with dmp := { d.dmp with heldLevel := false } }
  else match d.dmp.lastThermal with
    | some t0 => if e.now < t0 + 10000000 then { d with dmp := { d.dmp with heldLevel := true } } else d.thermalEvent e
    | none => d.thermalEvent e

section Heat
variable {e : Env} {d : Device} {dom tj : Nat}

theorem reportHeat_sameHeat (e : Env) (d : Device) : d.sameHeat (d.reportHeat e) := by
  unfold Device.reportHeat
  split
  · exact ⟨rfl, rfl, rfl, rfl, rfl⟩
  split
  · exact thermalEvent_sameHeat ..
  split
  · exact ⟨rfl, rfl, rfl, rfl, rfl⟩
  split
  · split
    · exact ⟨rfl, rfl, rfl, rfl, rfl⟩
    · exact thermalEvent_sameHeat ..
  · exact thermalEvent_sameHeat ..

theorem effThermal_eq (on : d.powered = true) (known : dom ≤ 12) (awake : d.logicFrozen = false) :
    effThermal dom tj e d =
      if d.thermalLevel e tj = d.dmp.level then d.heated (d.thermalLevel e tj) dom tj
      else if d.thermalLevel e tj = 3 then ((d.heated (d.thermalLevel e tj) dom tj).reportHeat e).halt e 2
      else (d.heated (d.thermalLevel e tj) dom tj).reportHeat e := by
  have guard : (!d.powered || decide (dom > 12) || d.logicFrozen) = false := by simp [on, awake, known]
  unfold effThermal
  rw [guard]
  rfl

/-- A reading below level 3 puts its level in place. -/
theorem effThermal_of_below (on : d.powered = true) (known : dom ≤ 12) (awake : d.logicFrozen = false)
    (below : d.thermalLevel e tj ≠ 3) : (d.heated (d.thermalLevel e tj) dom tj).sameHeat (effThermal dom tj e d) := by
  rw [effThermal_eq on known awake, if_neg below]
  split
  · exact .refl _
  · exact reportHeat_sameHeat ..

/-- A reading that reaches level 3 is reported, and halts (R405). -/
theorem effThermal_of_top (on : d.powered = true) (known : dom ≤ 12) (awake : d.logicFrozen = false)
    (top : d.thermalLevel e tj = 3) (rises : d.dmp.level ≠ 3) :
    effThermal dom tj e d = ((d.heated 3 dom tj).reportHeat e).halt e 2 := by
  rw [effThermal_eq on known awake, top, if_neg rises.symm, if_pos rfl]

section Held
variable {t0 : Nat} (last : d.dmp.lastThermal = some t0) (heldBack : d.dmp.heldLevel = true)
include last heldBack

theorem effThermalDeferred_of_due (on : d.powered = true) (awake : d.logicFrozen = false)
    (due : t0 + 10000000 ≤ e.now) (changed : d.dmp.level ≠ d.dmp.reported) :
    effThermalDeferred e d = d.thermalEvent e := by
  simp [effThermalDeferred, last, heldBack, on, awake, Nat.not_lt.mpr due, changed]

omit heldBack in
theorem effThermalDeferred_of_early (early : e.now < t0 + 10000000) : effThermalDeferred e d = d := by
  simp [effThermalDeferred, last, early]

end Held

theorem effFactorStep_of_hot (on : d.powered = true) (awake : d.logicFrozen = false) (hot : 2 ≤ d.dmp.level) :
    effFactorStep e d = { d with dmp := { d.dmp with thermalFactor :=
      if 4 < d.dmp.thermalFactor then d.dmp.thermalFactor - 1 else d.dmp.thermalFactor } } := by
  simp [effFactorStep, on, awake, hot]

theorem effFactorStep_of_cool (on : d.powered = true) (awake : d.logicFrozen = false) (mild : d.dmp.level < 2)
    (cool : d.dmp.tj + 3 < d.threshold (throttleAt e)) :
    effFactorStep e d = { d with dmp := { d.dmp with thermalFactor :=
      if d.dmp.thermalFactor < 16 then d.dmp.thermalFactor + 1 else d.dmp.thermalFactor } } := by
  simp [effFactorStep, on, awake, Nat.not_le.mpr mild, cool]

end Heat

/-- Settles O47: readings, the deferred report, the factor, and that the level rises with the reading. -/
theorem thermalLevelsFollowReadings : Obligations.ThermalLevelsFollowReadings := by
  rintro t dom tj s e rfl on awake
  rw [exec_thermal, exec_thermalDeferred, exec_thermalFactorStep, act_eq, act_eq, act_eq]
  refine ⟨fun known below => ?_, fun known top changed runs => ?_, fun t0 last heldBack => ⟨fun due changed => ?_,
    fun early => ?_⟩, fun hot => ?_, fun mild cool => ?_, fun d a b h => thermalLevel_mono _ d h⟩
  · obtain ⟨level, reading, domain, -, mode⟩ := effThermal_of_below (e := s.env.tick t) on known awake below
    exact ⟨_, rfl, level, reading, domain, mode⟩
  · rw [effThermal_of_top (e := s.env.tick t) on known awake top changed]
    obtain ⟨-, -, -, frozen, mode⟩ := reportHeat_sameHeat (s.env.tick t) (s.dev.heated 3 dom tj)
    refine ⟨_, rfl, halt_mode (mode.trans runs) ?_ (by decide) _⟩
    rw [Device.logicFrozen, frozen]
    exact awake
  · rw [effThermalDeferred_of_due (e := s.env.tick t) last heldBack on awake due changed]
    refine ⟨_, rfl, ?_⟩
    simp only [thermalEvent_dmp]
    exact ⟨trivial, trivial, trivial⟩
  · rw [effThermalDeferred_of_early (e := s.env.tick t) last early]
  · rw [effFactorStep_of_hot on awake hot]
  · rw [effFactorStep_of_cool on awake mild cool]

/-! ## PWR_WARN_N, THROTTLE_N, ignored pulses (R404, R407–R410) -/

/-- The throttle factor is the smaller of the pin's fraction and the thermal factor (R404). -/
theorem factor_eq_min (e : Env) (d : Device) :
    d.factor e = min (if d.dmp.throttlePin then throttleFraction e else 16) d.dmp.thermalFactor := by
  unfold Device.factor
  generalize (if d.dmp.throttlePin = true then throttleFraction e else 16) = x
  dsimp only
  split <;> omega

theorem factor_raise (e : Env) (d : Device) (c a b : Nat) : (d.raise e c a b).factor e = d.factor e := by
  rw [factor_eq_min, factor_eq_min, raise_dmp]

/-- The device with PWR_WARN_N's assertion recognised. -/
def Device.warned (e : Env) (d : Device) : Device :=
  { d with dmp := { d.dmp with warnPin := true, warnSince := some e.now, warnAfter := e.closed,
                               stuckLast := tdel d.dmp.stuckLast 0 } }

/-- The device with THROTTLE_N's change recognised. -/
def Device.throttled (e : Env) (d : Device) (b : Bool) : Device :=
  { d with dmp := { d.dmp with throttlePin := b, throttleSince := if b then some e.now else none,
                               throttleAfter := b && e.closed, stuckLast := tdel d.dmp.stuckLast 1 } }

/-- The device with one more ignored pulse on a pin. -/
def Device.pulsed (d : Device) (pin : Nat) : Device :=
  { d with dmp := { d.dmp with pulses := tset d.dmp.pulses pin (sat lim16 (tget 0 d.dmp.pulses pin + 1)) } }

/-- The device with a pin's INPUT_STORM raised, and with one held for the close (R407). -/
def Device.stormNoted (d : Device) (pin : Nat) : Device :=
  { d with dmp := { d.dmp with storm := d.dmp.storm ++ [pin] } }

def Device.stormKept (d : Device) (pin : Nat) : Device :=
  { d with dmp := { d.dmp with stormHeld := d.dmp.stormHeld ++ [pin] } }

/-- A saturating count is below a number within its limit exactly when the count itself is. -/
theorem sat_lt_iff {limit n k : Nat} (h : k ≤ limit) : sat limit n < k ↔ n < k := by
  unfold sat
  split <;> omega

section Pins
variable {e : Env} {d : Device} (on : d.powered = true)
include on

theorem effPwrWarn_open (high : d.dmp.warnPin = false) (isOpen : e.closed = false) :
    effPwrWarn e d = d.warned e := by
  simp [effPwrWarn, on, high, isOpen, Device.warned]

theorem effPwrWarn_running (high : d.dmp.warnPin = false) (closed : e.closed = true) (runs : d.mode = .running)
    (none_due : d.dmp.haltPending = none) : effPwrWarn e d = ({ d.warned e with dmp := { (d.warned e).dmp with
      warnsDue := (d.warned e).dmp.warnsDue ++ [(d.warned e).warnNote] } } : Device).halt e 1 := by
  simp [effPwrWarn, on, high, closed, runs, none_due, Device.warned]

theorem effWarnRelease_of_powered :
    effWarnRelease e d = { d with dmp := { d.dmp with warnPin := false, warnSince := none } } := by
  simp [effWarnRelease, on]

theorem effThrottle_of_change {b : Bool} (change : d.dmp.throttlePin ≠ b) (awake : d.logicFrozen = false) :
    effThrottle b e d = (d.throttled e b).raise e 0x0004 (b2n b + (d.throttled e b).factor e * 2) 0 := by
  have awake' : (d.throttled e b).logicFrozen = false := awake
  have guard : (!d.powered || d.dmp.throttlePin == b) = false := by simp [on, change]
  unfold effThrottle
  rw [guard]
  change (if (d.throttled e b).logicFrozen = true then d.throttled e b else _) = _
  rw [awake']
  rfl

section Stuck
variable {t0 : Nat} (since : d.dmp.warnSince = some t0) (after : d.dmp.warnAfter = true) (awake : d.logicFrozen = false)
  (first : tfind d.dmp.stuckLast 0 = none)
include since after awake first

theorem effWarnStuck_of_due (due : t0 + 1000000000 ≤ e.now) : ∃ a b, effWarnStuck 0 e d =
    { d.raise e 0x0003 a b with dmp := { d.dmp with stuckLast := tset d.dmp.stuckLast 0 e.now } } := by
  refine ⟨0 + (e.now - t0) / 1000000000 % 2 ^ 32 * 2 ^ 32, 0, ?_⟩
  simp [effWarnStuck, since, after, awake, first, on, Nat.not_lt.mpr due]

omit on after awake in
theorem effWarnStuck_of_early (early : e.now < t0 + 1000000000) : effWarnStuck 0 e d = d := by
  simp [effWarnStuck, since, first, early]

end Stuck

theorem effInputStorm_eq {pin : Nat} (known : pin ≤ 2) : effInputStorm pin e d =
    if (decide (sat lim16 (tget 0 d.dmp.pulses pin + 1) < 16) || d.dmp.storm.contains pin) = true then d.pulsed pin
    else if e.closed = true then ((d.pulsed pin).stormNoted pin).stormEvent e pin
    else ((d.pulsed pin).stormNoted pin).stormKept pin := by
  have guard : (!d.powered || decide (pin > 2)) = false := by simp [on, known]
  unfold effInputStorm
  rw [guard]
  rfl

theorem effInputStorm_of_few {pin : Nat} (known : pin ≤ 2) (few : tget 0 d.dmp.pulses pin + 1 < 16) :
    effInputStorm pin e d = d.pulsed pin := by
  have counted := (sat_lt_iff (by decide : 16 ≤ lim16)).mpr few
  rw [effInputStorm_eq on known, if_pos (by simp [counted])]

/-- From the sixteenth ignored pulse on, the pin's INPUT_STORM has been raised. -/
theorem effInputStorm_of_many {pin : Nat} (known : pin ≤ 2) (many : 16 ≤ tget 0 d.dmp.pulses pin + 1) :
    (effInputStorm pin e d).dmp.pulses = (d.pulsed pin).dmp.pulses ∧
      (effInputStorm pin e d).dmp.storm.contains pin = true := by
  have counted : decide (sat lim16 (tget 0 d.dmp.pulses pin + 1) < 16) = false :=
    decide_eq_false (mt (sat_lt_iff (by decide : 16 ≤ lim16)).mp (Nat.not_lt.mpr many))
  rw [effInputStorm_eq on known, counted, Bool.false_or]
  split
  case isTrue raised => exact ⟨rfl, raised⟩
  case isFalse =>
    split
    · rw [Device.stormEvent, raise_dmp]
      exact ⟨rfl, contains_append_self ..⟩
    · exact ⟨rfl, contains_append_self ..⟩

end Pins

/-- Settles O48. -/
theorem pinEventsTakeEffect : Obligations.PinEventsTakeEffect := by
  rintro t pin s e rfl on
  rw [exec_pwrWarn, exec_pwrWarnRelease, exec_pwrWarnStuck, exec_inputStorm, act_eq, act_eq, act_eq, act_eq]
  refine ⟨?_, ?_, ?_, ?_, fun known => ?_⟩
  · rintro high d rfl
    refine ⟨fun isOpen => ?_, fun closed runs none_due => ?_⟩
    · rw [effPwrWarn_open (e := s.env.tick t) on high isOpen]; rfl
    · rw [effPwrWarn_running (e := s.env.tick t) on high closed runs none_due]; rfl
  · rw [effWarnRelease_of_powered on]
  · rintro b change awake d rfl
    rw [exec_throttle, act_eq, effThrottle_of_change on change awake]
    exact ⟨rfl, factor_eq_min .., factor_raise ..⟩
  · intro t0 since after awake first
    refine ⟨fun due => ?_, fun early => ?_⟩
    · obtain ⟨a, b, heq⟩ := effWarnStuck_of_due (e := s.env.tick t) on since after awake first due
      rw [heq]
      exact ⟨_, rfl, tfind_tset_same .., rfl⟩
    · rw [effWarnStuck_of_early (e := s.env.tick t) since first early]
  · by_cases few : tget 0 s.dev.dmp.pulses pin + 1 < 16
    · rw [effInputStorm_of_few (e := s.env.tick t) on known few]
      exact ⟨_, rfl, tget_tset_same .., fun _ => ⟨rfl, rfl⟩, fun many => absurd few (Nat.not_lt.mpr many)⟩
    · obtain ⟨pulses, raised⟩ := effInputStorm_of_many (e := s.env.tick t) on known (Nat.not_lt.mp few)
      refine ⟨_, rfl, ?_, fun few' => absurd few' few, fun _ => raised⟩
      simp only [pulses]
      exact tget_tset_same ..

end Sys2Proof.Machine
end

section
/-! PROOFS. The Proofer: gate lists (R374–R376), the host outlet (R377, R378), the hold time of a stream record (R43), the
time threshold of interrupts (R44). -/

namespace Sys2Proof.Machine

theorem exec_gateArm (t p v : Nat) (s : State) : exec (.gateArm t p v) s = s.act t (effGateArm p v) := rfl

theorem exec_gateDisarm (t p v : Nat) (s : State) : exec (.gateDisarm t p v) s = s.act t (effGateDisarm p v) := rfl

theorem exec_gateTakeover (t p : Nat) (s : State) : exec (.gateTakeover t p) s = s.act t (effGateTakeover p) := rfl

theorem exec_hostRecordWrite (t : Nat) (s : State) : exec (.hostRecordWrite t) s = s.act t effHostRecordWrite := rfl

theorem exec_streamHoldTimeout (t i : Nat) (s : State) :
    exec (.streamHoldTimeout t i) s = s.act t (effHoldTimeout i) := rfl

theorem exec_interruptTimeThreshold (t k n : Nat) (s : State) :
    exec (.interruptTimeThreshold t k n) s = s.act t (effTimeThreshold k n) := rfl

/-! ## Settling an outlet's credits -/

/-- Credits brought up to now leave the gates and the records that wait. -/
theorem settleOutlet_gates (d : Device) (e : Env) (p : Nat) : (d.settleOutlet e p).prf.gates = d.prf.gates := by
  unfold Device.settleOutlet
  dsimp only
  split <;> rfl

@[simp] theorem settleOutlet_gate (d : Device) (e : Env) (p q : Nat) : (d.settleOutlet e p).gate q = d.gate q := by
  rw [Device.gate, Device.gate, settleOutlet_gates]

@[simp] theorem settleOutlet_hostQueue (d : Device) (e : Env) (p : Nat) :
    (d.settleOutlet e p).prf.hostQueue = d.prf.hostQueue := by
  unfold Device.settleOutlet
  dsimp only
  split <;> rfl

@[simp] theorem settleOutlet_req (d : Device) (e : Env) (p i : Nat) : (d.settleOutlet e p).req i = d.req i := by
  rw [Device.req, Device.req, settleOutlet_reqs]

/-! ## Gate control (Table 15.6) -/

theorem gate_gateCtl (d : Device) (e : Env) (p v q : Nat) :
    (d.gateCtl e p v).gate q = if q = p then (d.gate p).ctl e p v else d.gate q := by
  simp [Device.gateCtl, gate_setGate]

/-- The gate with its pending length and error bit written (Table 15.6). -/
def Gate.written (g : Gate) (v : Nat) : Gate :=
  { g with pendingLen := if g.armed || bits v 8 0 > 256 then g.pendingLen else bits v 8 0,
           error := g.error && !bit v 11 }

section Ctl
variable {g : Gate} {v : Nat} (e : Env) (p : Nat)

theorem ctl_of_arm (arms : bit v 9 = true) (idle : g.armed = false) : g.ctl e p v =
    if (g.written v).mayArm e p = true then { g.written v with armed := true, at_ := (g.written v).instant }
    else { g.written v with error := true } := by
  simp [Gate.ctl, Gate.written, arms, idle]

theorem ctl_of_disarm (disarms : bit v 9 = false) : g.ctl e p v =
    if g.armed = true ∧ e.now < g.at_ then { g.written v with armed := false } else g.written v := by
  simp [Gate.ctl, Gate.written, disarms]

/-- While no takeover is armed the pending length is the one written. -/
theorem written_pendingLen (idle : g.armed = false) (short : bits v 8 0 ≤ 256) :
    (g.written v).pendingLen = bits v 8 0 := by
  simp [Gate.written, idle, Nat.not_lt.mpr short]

/-- R376 and R375 look at the lists and the takeover time, not at the error bit. -/
theorem written_mayArm (idle : g.armed = false) (short : bits v 8 0 ≤ 256) :
    (g.written v).mayArm e p = ({ g with pendingLen := bits v 8 0 } : Gate).mayArm e p := by
  rw [← written_pendingLen idle short]; rfl


end Ctl

section Gates
variable {e : Env} {d : Device} {p v : Nat} (up : d.regsUp = true) (outlet : p ≤ 8)
include up outlet

theorem effGateArm_of_arm (arms : bit v 9 = true) : effGateArm p v e d = d.gateCtl e p v := by
  simp [effGateArm, up, outlet, arms]

theorem effGateDisarm_of_disarm (disarms : bit v 9 = false) : effGateDisarm p v e d = d.gateCtl e p v := by
  simp [effGateDisarm, up, outlet, disarms]

omit up outlet in
/-- A gate's control leaves every other gate. -/
theorem effGateArm_gate_other {q : Nat} (h : q ≠ p) : (effGateArm p v e d).gate q = d.gate q := by
  unfold effGateArm
  split
  · rw [gate_gateCtl, if_neg h]
  · rfl

end Gates

/-- A gate at its takeover instant: the lists change places (R375, log 62). -/
def Gate.takenOver (g : Gate) : Gate :=
  { g with pending := g.active, active := g.pending, activeLen := g.pendingLen, bankB := !g.bankB,
           armed := false, base := g.at_, takeovers := (g.takeovers + 1) % 65536 }

theorem effGateTakeover_of_due {e : Env} {d : Device} {p : Nat} (runs : d.mode = .running) (outlet : p ≤ 8)
    (armed : (d.gate p).armed = true) (due : (d.gate p).at_ ≤ e.now) :
    effGateTakeover p e d = (d.settleOutlet e p).setGate p (d.gate p).takenOver := by
  simp [effGateTakeover, runs, outlet, armed, due, Gate.takenOver]

/-- Settles O10: an idle gate's control, an armed gate's disarm, the takeover. -/
theorem gatesArmDisarmAndTakeOver : Obligations.GatesArmDisarmAndTakeOver := by
  refine ⟨?_, ?_, ?_⟩
  · rintro t p v s e rfl up outlet short idle
    rw [exec_gateArm, exec_gateDisarm, act_eq, act_eq]
    refine ⟨fun arms => ?_, fun disarms => ?_, ?_⟩
    · rw [effGateArm_of_arm up outlet arms]
      refine ⟨_, rfl, ?_⟩
      simp only [gate_gateCtl, if_true, ctl_of_arm _ _ arms idle, ← written_mayArm _ _ idle short]
      refine ⟨⟨fun may => ?_, fun may => ?_⟩, ?_, ?_⟩
      · rw [if_pos may]; exact ⟨rfl, rfl⟩
      · rw [if_neg (by rw [may]; decide)]; exact ⟨idle, rfl⟩
      · split <;> rfl
      · split <;> rfl
    · rw [effGateDisarm_of_disarm up outlet disarms]
      refine ⟨_, rfl, ?_⟩
      simp only [gate_gateCtl, if_true, ctl_of_disarm _ _ disarms, idle, Bool.false_eq_true, false_and, if_false]
      exact ⟨idle, written_pendingLen idle short, rfl⟩
    · rintro q other u h
      cases h
      exact effGateArm_gate_other other
  · rintro t p v s e rfl up outlet disarms armed
    rw [exec_gateDisarm, act_eq, effGateDisarm_of_disarm up outlet disarms]
    refine ⟨_, rfl, ?_⟩
    simp only [gate_gateCtl, if_true, ctl_of_disarm _ _ disarms, armed, true_and]
    by_cases early : (s.env.tick t).now < (s.dev.gate p).at_
    · simp [early, Gate.written, armed]
    · simp [early, Gate.written, armed]
  · rintro t p s e rfl runs outlet armed due
    rw [exec_gateTakeover, act_eq, effGateTakeover_of_due runs outlet armed due]
    refine ⟨_, rfl, ?_, fun q other => ?_, ?_, ?_⟩
    · simp only [gate_setGate_same]
      exact ⟨rfl, rfl, rfl, rfl, rfl, rfl, rfl⟩
    · simp [gate_setGate, other]
    · simp
    · simp

/-! ## The host outlet (R377, R378) -/

theorem takeFirst_length {α : Type} {p : α → Bool} {l r : List α} {x : α} (h : takeFirst p l = some (x, r)) :
    r.length + 1 = l.length := by
  induction l generalizing r with
  | nil => cases h
  | cons a l ih =>
    unfold takeFirst at h
    split at h
    · cases h; rfl
    · split at h
      · rename_i y ys found
        cases h
        rw [List.length_cons, List.length_cons, ih found]
      · cases h

/-- The device with the credit of class c charged and the queue of records as given. -/
def Device.dequeued (e : Env) (d : Device) (c : Nat) (rest : List StreamRec) : Device :=
  { d with prf := { d.prf with hostQueue := rest
                               hostCredit := chargeCredit e 8 c (64 + portOverhead e 8)
                                 (!rest.any (fun x => recClass e x == c)) d.prf.hostCredit } }

theorem effHostRecordWrite_of_head {e : Env} {d : Device} {c : Nat} {r : StreamRec} {rest : List StreamRec}
    (serves : d.serving e = true) (up : d.hif.linkUp = true)
    (first : ((upto 8).reverse.findSome? (fun c => ((d.settleOutlet e 8).hostEligible e c).map (fun r => (c, r))))
      = some (c, r))
    (taken : takeFirst (fun x => recClass e x == c) (d.settleOutlet e 8).prf.hostQueue = some (r, rest))
    (inner : r.last = false) :
    effHostRecordWrite e d = ((d.settleOutlet e 8).dequeued e c rest).putRecord e r := by
  unfold effHostRecordWrite
  simp only [serves, up, first, taken, inner]
  rfl

theorem putRecord_prf (e : Env) (d : Device) (r : StreamRec) : (d.putRecord e r).prf = d.prf := by
  obtain ⟨_, _, _, _, _, h⟩ := putEntry_frame d e .ts r.ring r.bytes true false
  rw [Device.putRecord, h]

theorem putRecord_lp (e : Env) (d : Device) (r : StreamRec) : (d.putRecord e r).lp = d.lp := by
  obtain ⟨_, _, _, _, _, h⟩ := putEntry_frame d e .ts r.ring r.bytes true false
  rw [Device.putRecord, h]

theorem putRecord_reqs (e : Env) (d : Device) (r : StreamRec) : (d.putRecord e r).reqs = d.reqs := by
  obtain ⟨_, _, _, _, _, h⟩ := putEntry_frame d e .ts r.ring r.bytes true false
  rw [Device.putRecord, h]

/-- The ring moves on by one entry (R24). -/
theorem putRecord_next (e : Env) (d : Device) (r : StreamRec) : ((d.putRecord e r).ring .ts r.ring).next =
    if (d.ring .ts r.ring).next + 1 = devSize e .ts r.ring then 0 else (d.ring .ts r.ring).next + 1 := by
  obtain ⟨pend, h⟩ := putEntry_ring d e .ts r.ring r.bytes true false
  rw [Device.putRecord, h]
  simp [DevRing.advance]

/-! ## The hold time (R43) -/

/-- The record that a request's text in hand makes, and the request with the text taken. -/
def Request.formed (r : Request) : OutText × Rec := r.out.close r.genStart r.logged false

section Hold
variable {e : Env} {d : Device} {i t0 : Nat} (since : (d.req i).out.since = some t0)
include since

theorem effHoldTimeout_of_due (serves : d.serving e = true) (going : (d.req i).going = true)
    (unfinished : (d.req i).out.finished = false) (due : t0 + tsHold e (d.req i).stream ≤ e.now) :
    effHoldTimeout i e d =
      (d.modReq i (fun r => { r with out := (d.req i).formed.1 })).emit e i [(d.req i).formed.2] := by
  simp only [effHoldTimeout, since, serves, going, unfinished, Nat.not_lt.mpr due]
  rfl

theorem effHoldTimeout_of_early (early : e.now < t0 + tsHold e (d.req i).stream) : effHoldTimeout i e d = d := by
  simp [effHoldTimeout, since, early]

end Hold

/-- The record as the host outlet's queue holds it (Table 02.12). -/
def Request.streamRec (r : Request) (i : Nat) (x : Rec) : StreamRec :=
  ⟨r.stream, i, r.cookie, if r.tokenMode then 2 else 1, x.last, x.position, x.tokens, x.payload⟩

theorem emit_one_hostQueue (e : Env) (d : Device) (i : Nat) (x : Rec) :
    (d.emit e i [x]).prf.hostQueue = d.prf.hostQueue ++ [(d.req i).streamRec i x] := by
  have kept := settleOutlet_hostQueue d e 8
  have same := settleOutlet_req d e 8 i
  unfold Device.emit
  simp only [List.isEmpty_cons, Bool.false_eq_true, if_false, List.map_cons, List.map_nil, kept, same]
  rfl

/-! ## The time threshold (R44) -/

section Threshold
variable {e : Env} {d : Device} {k n : Nat} {x : Nat × Nat} {rest : List (Nat × Nat)}
  (pending : (d.ring (ringKindOf k) n).pend = x :: rest)
include pending

theorem effTimeThreshold_of_due (heard : d.heard = true) (due : x.2 + devTime e (ringKindOf k) n ≤ e.now) :
    effTimeThreshold k n e d = d.interrupt e (ringKindOf k) n := by
  simp [effTimeThreshold, pending, heard, due]

theorem effTimeThreshold_of_early (early : e.now < x.2 + devTime e (ringKindOf k) n) : effTimeThreshold k n e d = d := by
  simp [effTimeThreshold, pending, Nat.not_le.mpr early]

end Threshold

theorem interrupt_of_not_masked {e : Env} {d : Device} {k : RingKind} {n : Nat}
    (unmasked : d.masked (devVector e k n) = false) : d.interrupt e k n =
      (d.sendMessage (devVector e k n)).setRing k n { d.ring k n with pend := [] } := by
  unfold Device.interrupt
  simp only [unmasked, Bool.false_eq_true, if_false, message_of_not_masked unmasked]
  rfl

/-- Settles O51: the host outlet, the hold time, the time threshold. -/
theorem recordsAndInterruptsGoOut : Obligations.RecordsAndInterruptsGoOut := by
  refine ⟨?_, ?_⟩
  · rintro t c s e d r rest rfl serves up rfl first taken inner
    rw [exec_hostRecordWrite, act_eq, effHostRecordWrite_of_head serves up first taken inner]
    refine ⟨_, rfl, ?_, ?_, ?_, ?_, ?_⟩
    · simp only [putRecord_prf]; rfl
    · have ring : ((s.dev.settleOutlet (s.env.tick t) 8).dequeued (s.env.tick t) c rest).ring .ts r.ring =
          s.dev.ring .ts r.ring := congrArg (fun ts => tget ({} : DevRing) ts r.ring) (settleOutlet_ts ..)
      simp only [putRecord_next, ring]
    · rw [takeFirst_length taken, settleOutlet_hostQueue]
    · simp only [putRecord_lp]; exact settleOutlet_lp ..
    · simp only [putRecord_reqs]; exact settleOutlet_reqs ..
  · rintro t i s e rfl
    refine ⟨fun t0 since serves going unfinished => ⟨fun due => ?_, fun early => ?_⟩,
      fun k n x rest _ pending heard unmasked => ⟨fun due => ?_, fun early => ?_⟩⟩
    · rw [exec_streamHoldTimeout, act_eq, effHoldTimeout_of_due (e := s.env.tick t) since serves going unfinished due]
      refine ⟨_, _, rfl, emit_one_hostQueue .., rfl, rfl, ?_⟩
      simp [Request.streamRec]
    · rw [exec_streamHoldTimeout, act_eq, effHoldTimeout_of_early (e := s.env.tick t) since early]
    · rw [exec_interruptTimeThreshold, act_eq, effTimeThreshold_of_due (e := s.env.tick t) pending heard due,
        interrupt_of_not_masked (e := s.env.tick t) unmasked]
      refine ⟨_, rfl, ?_, ?_, ?_⟩
      · simp only [ring_setRing_same]
      · simp only [setRing_hif]; exact tget_tset_same ..
      · simp only [setRing_host]; rfl
    · rw [exec_interruptTimeThreshold, act_eq, effTimeThreshold_of_early (e := s.env.tick t) pending early]

end Sys2Proof.Machine
end

section
/-! PROOFS. The Sifter: the filter (R332), queries from their start to their end (R331, R335–R338). -/

namespace Sys2Proof.Machine

/-! ## The filter (R332) -/

theorem passes_of_off {f : SiftFilter} (off : f.on = false) (tag a b : Nat) : f.passes tag a b = true := by
  simp [SiftFilter.passes, off]

theorem passes_iff {f : SiftFilter} (on : f.on = true) {tag a b : Nat} : f.passes tag a b = true ↔
    tag &&& f.all = f.all ∧ tag &&& f.none = 0 ∧ (f.any = 0 ∨ tag &&& f.any ≠ 0) ∧ f.aLow ≤ a ∧ a ≤ f.aHigh ∧
      f.bLow ≤ b ∧ b ≤ f.bHigh := by
  simp [SiftFilter.passes, on, and_assoc]

theorem pruned_iff (d : Device) (x : SiftIndex) (f : SiftFilter) (g : Nat) : d.pruned x f g = true ↔ f.on = true ∧
    (d.ix x (g + 0x10) 8 &&& f.all ≠ f.all ∨ (f.any ≠ 0 ∧ d.ix x (g + 0x10) 8 &&& f.any = 0) ∨
      d.ix x (g + 0x1C) 4 < f.aLow ∨ f.aHigh < d.ix x (g + 0x18) 4 ∨
      d.ix x (g + 0x24) 4 < f.bLow ∨ f.bHigh < d.ix x (g + 0x20) 4) := by
  simp [Device.pruned, or_assoc]

/-- A tag that lies in a group's union brings the bits it has to the union. -/
theorem union_and_of_tag_and {tag union mask : Nat} (within : tag &&& union = tag) (has : tag &&& mask = mask) :
    union &&& mask = mask := by
  rw [← has, ← Nat.and_assoc, Nat.and_comm union, within]

theorem tag_and_of_union_and {tag union mask : Nat} (within : tag &&& union = tag) (lacks : union &&& mask = 0) :
    tag &&& mask = 0 := by
  rw [← within, Nat.and_assoc, lacks, Nat.and_zero]

/-- A pruned group holds no record that passes (R332). -/
theorem not_passes_of_pruned {d : Device} {x : SiftIndex} {f : SiftFilter} {g tag a b : Nat}
    (within : tag &&& d.ix x (g + 0x10) 8 = tag) (aLow : d.ix x (g + 0x18) 4 ≤ a) (aHigh : a ≤ d.ix x (g + 0x1C) 4)
    (bLow : d.ix x (g + 0x20) 4 ≤ b) (bHigh : b ≤ d.ix x (g + 0x24) 4) (pruned : d.pruned x f g = true) :
    f.passes tag a b = false := by
  obtain ⟨on, why⟩ := (pruned_iff d x f g).mp pruned
  rw [← Bool.not_eq_true, passes_iff on]
  rintro ⟨hall, -, hany, ha, ha', hb, hb'⟩
  rcases why with lacks | ⟨asked, lacks⟩ | outside | outside | outside | outside
  · exact lacks (union_and_of_tag_and within hall)
  · exact hany.elim asked fun some => some (tag_and_of_union_and within lacks)
  all_goals omega

/-- Settles O35. -/
theorem filterPassesAndPrunes : Obligations.FilterPassesAndPrunes := by
  intro d x f g tag a b
  refine ⟨fun off => passes_of_off off tag a b, fun on => passes_iff on, fun on empty => ?_, pruned_iff d x f g,
    not_passes_of_pruned⟩
  rw [← Bool.not_eq_true, passes_iff on]
  omega

/-! ## Commands -/

theorem exec_siftContextGrant (t : Nat) (s : State) : exec (.siftContextGrant t) s = s.act t effContextGrant := rfl

theorem exec_siftQueryLimit (t c : Nat) (s : State) : exec (.siftQueryLimit t c) s = s.act t (effQueryLimit c) := rfl

theorem exec_siftComplete (t c : Nat) (lb : List Nat) (bad : Bool) (s : State) :
    exec (.siftComplete t c lb bad) s = s.act t (effSiftComplete c lb bad) := rfl

/-! ## Updates write memory alone -/

/-- u is d but for host memory and LPDDR5X. -/
def Device.sameButStores (d u : Device) : Prop := ∃ host lp lpBad, u = { d with host := host, lp := lp, lpBad := lpBad }

theorem Device.sameButStores.refl (d : Device) : d.sameButStores d := ⟨_, _, _, rfl⟩

theorem Device.sameButStores.trans {d u v : Device} : d.sameButStores u → u.sameButStores v → d.sameButStores v := by
  rintro ⟨_, _, _, rfl⟩ ⟨_, _, _, rfl⟩
  exact ⟨_, _, _, rfl⟩

theorem Device.sameButStores.sift {d u : Device} : d.sameButStores u → u.sift = d.sift := by
  rintro ⟨_, _, _, rfl⟩; rfl

theorem hostWrite_sameButStores (d : Device) (a : Nat) (bs : List Byte) : d.sameButStores (d.hostWrite a bs) :=
  ⟨_, _, _, rfl⟩

theorem lpWrites_sameButStores (d : Device) (a : Nat) (bs : List Byte) : d.sameButStores (d.lpWrites a bs) :=
  ⟨_, _, _, rfl⟩

theorem lpClear_sameButStores (d : Device) (lo hi : Nat) : d.sameButStores (d.lpClear lo hi) := ⟨_, _, _, rfl⟩

theorem setIx_sameButStores (d : Device) (x : SiftIndex) (off n v : Nat) : d.sameButStores (d.setIx x off n v) :=
  ⟨_, _, _, rfl⟩

theorem putIndex_sameButStores (e : Env) (d : Device) (h : Nat) (x : SiftIndex) : d.sameButStores (d.putIndex e h x) :=
  lpWrites_sameButStores ..

theorem fillSlot_sameButStores (d : Device) (x : SiftIndex) (g j : Nat) (r : List Byte) (addr : Nat) :
    d.sameButStores (d.fillSlot x g j r addr) :=
  (((lpWrites_sameButStores ..).trans (lpWrites_sameButStores ..)).trans (lpWrites_sameButStores ..)).trans
    (lpWrites_sameButStores ..)

theorem sameButStores_ite {d : Device} (c : Prop) [Decidable c] {x y : Device × Bool} (hx : d.sameButStores x.1)
    (hy : d.sameButStores y.1) : d.sameButStores (if c then x else y).1 := by
  split
  · exact hx
  · exact hy

theorem siftCreate_sameButStores (e : Env) (d : Device) (h : Nat) (r : List Byte) :
    d.sameButStores (d.siftCreate e h r).1 := by
  unfold Device.siftCreate
  exact sameButStores_ite _ (.refl d) (sameButStores_ite _ (lpClear_sameButStores ..)
    ((lpWrites_sameButStores ..).trans (putIndex_sameButStores ..)))

theorem siftInsert_sameButStores (e : Env) (d : Device) (h : Nat) (r : List Byte) (loc : Nat) :
    d.sameButStores (d.siftInsert e h r loc).1 := by
  unfold Device.siftInsert
  split
  · exact hostWrite_sameButStores ..
  dsimp only
  split
  · exact hostWrite_sameButStores ..
  split
  · exact hostWrite_sameButStores ..
  refine Device.sameButStores.trans ?_ (hostWrite_sameButStores ..)
  refine Device.sameButStores.trans ?_ (putIndex_sameButStores ..)
  refine Device.sameButStores.trans ?_ (fillSlot_sameButStores ..)
  split <;> split
  · exact (lpClear_sameButStores ..).trans (setIx_sameButStores ..)
  · exact .refl d
  · exact ((lpClear_sameButStores ..).trans (setIx_sameButStores ..)).trans (lpWrites_sameButStores ..)
  · exact lpWrites_sameButStores ..

theorem siftTombstone_sameButStores (e : Env) (d : Device) (h : Nat) (r : List Byte) :
    d.sameButStores (d.siftTombstone e h r).1 := by
  unfold Device.siftTombstone
  split
  · exact .refl d
  dsimp only
  split
  · exact .refl d
  · exact ((setIx_sameButStores ..).trans (setIx_sameButStores ..)).trans (putIndex_sameButStores ..)

theorem siftDestroy_sameButStores (e : Env) (d : Device) (h : Nat) : d.sameButStores (d.siftDestroy e h) := by
  unfold Device.siftDestroy
  split
  · exact .refl d
  · exact (lpClear_sameButStores ..).trans (lpClear_sameButStores ..)

theorem applyUpdates_sameButStores (e : Env) (d : Device) (q : Query) (n : Nat) :
    d.sameButStores (d.applyUpdates e q n).1 := by
  unfold Device.applyUpdates
  refine List.foldlRecOn (motive := fun s : Device × Nat => d.sameButStores s.1) (upto n) _ (.refl d) fun s h i _ => ?_
  dsimp only
  split
  · exact h.trans (siftInsert_sameButStores ..)
  · exact h.trans (siftTombstone_sameButStores ..)

/-! ## The end of a query -/

/-- What the end of query q leaves of the Sifter of s: q is gone, and counted if it was a SIFT. -/
def Sifter.ended (s : Sifter) (q : Query) : Sifter :=
  { s with queries := s.queries.filter (fun y => y.seq != q.seq),
           completed := sat lim32 (s.completed + b2n (!q.update)) }

theorem endQuery_sift (e : Env) (d : Device) (q : Query) (st det res : Nat) :
    (d.endQuery e q st det res).sift = d.sift.ended q := by
  unfold Device.endQuery
  dsimp only
  rw [complete_sift _ _ _ rfl]
  rfl

theorem endQuery_lp (e : Env) (d : Device) (q : Query) (st det res : Nat) : (d.endQuery e q st det res).lp = d.lp := by
  unfold Device.endQuery
  dsimp only
  rw [complete_lp _ _ _ rfl]
  rfl

/-- v is the end of query q in a device whose queries and count are d's, and for a SIFT its LPDDR5X too. -/
def Device.endsAs (e : Env) (d : Device) (q : Query) (v : Device) : Prop :=
  ∃ (u : Device) (st det res : Nat), v = u.endQuery e q st det res ∧ u.sift.queries = d.sift.queries ∧
    u.sift.completed = d.sift.completed ∧ (q.update = false → u.lp = d.lp)

theorem endsAs_ite {e : Env} {d : Device} {q : Query} (c : Prop) [Decidable c] {x y : Device} (hx : d.endsAs e q x)
    (hy : d.endsAs e q y) : d.endsAs e q (if c then x else y) := by
  split
  · exact hx
  · exact hy

theorem endQuery_endsAs (e : Env) (d : Device) (q : Query) (st det res : Nat) :
    d.endsAs e q (d.endQuery e q st det res) := ⟨_, _, _, _, rfl, rfl, rfl, fun _ => rfl⟩

theorem endQuery_endsAs_of_update {q : Query} (update : q.update = true) {e : Env} {d u : Device}
    (stores : d.sameButStores u) (st det res : Nat) : d.endsAs e q (u.endQuery e q st det res) :=
  ⟨u, _, _, _, rfl, by rw [stores.sift], by rw [stores.sift], fun sift => absurd update (by simp [sift])⟩

theorem Device.endsAs.result {e : Env} {d v : Device} {q : Query} : d.endsAs e q v →
    v.sift.queries = (d.sift.ended q).queries ∧ v.sift.completed = (d.sift.ended q).completed ∧
      (q.update = false → v.lp = d.lp) := by
  rintro ⟨u, st, det, res, rfl, queries, completed, memory⟩
  rw [endQuery_sift, endQuery_lp]
  exact ⟨by simp [Sifter.ended, queries], by simp [Sifter.ended, completed], memory⟩

/-- A SIFT's query ends, its results written to host memory (R336). -/
theorem finishSift_endsAs (e : Env) (d : Device) (q : Query) (lb : List Nat) :
    d.endsAs e q (d.finishSift e q lb) := by
  unfold Device.finishSift
  split
  · exact endQuery_endsAs ..
  · exact endsAs_ite _ (endQuery_endsAs ..) ⟨_, _, _, _, rfl, rfl, rfl, fun _ => rfl⟩

/-- A SIFT_UPDATE's query ends. -/
theorem finishUpdate_endsAs {q : Query} (update : q.update = true) (e : Env) (d : Device) :
    d.endsAs e q (d.finishUpdate e q) := by
  unfold Device.finishUpdate
  refine endsAs_ite _ ?_ (endsAs_ite _ (endQuery_endsAs_of_update update (siftDestroy_sameButStores ..) ..) ?_)
  · have stores := siftCreate_sameButStores e d q.handle (updRec q.block 0)
    generalize d.siftCreate e q.handle (updRec q.block 0) = made at stores ⊢
    obtain ⟨u, ok⟩ := made
    exact endsAs_ite _ (endQuery_endsAs_of_update update stores ..) (endQuery_endsAs_of_update update stores ..)
  · have stores := applyUpdates_sameButStores e d q (bits (q.q.getD 3 0) 47 16)
    generalize d.applyUpdates e q (bits (q.q.getD 3 0) 47 16) = applied at stores ⊢
    exact endQuery_endsAs_of_update update stores ..

section One
variable {e : Env} {d : Device} {q : Query} (only : d.sift.queries = [q])
include only

theorem ended_queries_of_only : (d.sift.ended q).queries = [] := by
  simp [Sifter.ended, only]

section Context
variable {c : Nat} (granted : q.ctx = some c)
include granted

theorem find_ctx_of_only : d.sift.queries.find? (fun y => y.ctx == some c) = some q := by
  simp [only, granted]

theorem effQueryLimit_of_sift (serves : d.serving e = true) (sift : q.update = false) : effQueryLimit c e d =
    if q.since + queryLimit e ≤ e.now then d.endQuery e q 0x31 2 0 else d := by
  simp [effQueryLimit, only, granted, sift, serves]

theorem effSiftComplete_of_only (serves : d.serving e = true) (lb : List Nat) (bad : Bool) :
    effSiftComplete c lb bad e d =
      if d.hif.linkUp = false ∨ d.vectorsOut c = true then d
      else if bad = true then d.endQuery e q 0x43 5 0
      else if q.update = true then d.finishUpdate e q
      else d.finishSift e q lb := by
  simp [effSiftComplete, find_ctx_of_only only granted, serves]

theorem effSiftComplete_ends (serves : d.serving e = true) (up : d.hif.linkUp = true)
    (answered : d.vectorsOut c = false) (lb : List Nat) (bad : Bool) :
    (effSiftComplete c lb bad e d).sift.queries = [] ∧
      (effSiftComplete c lb bad e d).sift.completed = sat lim32 (d.sift.completed + b2n (!q.update)) ∧
      (q.update = false → (effSiftComplete c lb bad e d).lp = d.lp) := by
  rw [effSiftComplete_of_only only granted serves, if_neg (by simp [up, answered]), ← ended_queries_of_only only]
  refine Device.endsAs.result (e := e) ?_
  split
  · exact endQuery_endsAs ..
  split
  · rename_i update
    exact finishUpdate_endsAs update e d
  · exact finishSift_endsAs e d q lb

end Context

/-! ## The grant of a context -/

/-- The completion of a refused query (R338). -/
def Device.queryRefusal (d : Device) (q : Query) (k : Nat) : Completion :=
  ⟨q.seq, q.ring, q.cookie, none, 0x20, 0, k, 0, 0, d.inflight.any (fun y => y.seq == q.seq && y.quiet)⟩

/-- A lone SIFT takes context 0, or is refused (R331, R338). -/
theorem effContextGrant_of_sift (serves : d.serving e = true) (free : d.jobHolds = false) (waits : q.ctx = none)
    (sift : q.update = false) {blk : List Byte}
    (read : blk = d.hostRead (q.q.getD 2 0) (blockBytes (d.siftIndex e q.handle) q.q)) : effContextGrant e d =
      match siftFault (d.siftIndex e q.handle) q.q blk with
      | some k => ({ d with sift := { d.sift with queries := [] } } : Device).complete e (d.queryRefusal q k)
      | none => (({ d with sift := { d.sift with
          queries := [{ q with ctx := some 0, since := e.now, block := blk }] } } : Device).askVectors e 0
          { q with ctx := some 0, since := e.now, block := blk }).settleFabric e := by
  have first : (upto 16).find? (fun i => !([q].any (fun q => q.ctx == some i))) = some 0 := by
    simp [upto, List.range_succ_eq_map, waits]
  have earliest : [q].find? (fun y => y.ctx.isNone && mayTake [q] y) = some q := by simp [waits, mayTake]
  unfold effContextGrant
  simp only [serves, free, only, first, earliest, sift]
  simp only [Bool.not_true, Bool.or_self, Bool.false_eq_true, if_false, List.map_cons, List.map_nil, beq_self_eq_true,
    if_true, List.filter_cons, List.filter_nil, bne_self_eq_false, sift, ← read]
  cases siftFault (d.siftIndex e q.handle) q.q blk <;> rfl

end One

/-- A descriptor taken joins the queries (R331, R340). -/
theorem effSift_of_ring {f : Fetched} {ring : Nat} (bound : f.ring = some ring) (update : Bool) (e : Env) (d : Device) :
    effSift update true e d f = { d with sift := { d.sift with queries := d.sift.queries ++
      [⟨f.seq, ring, f.cookie, f.seq, update, f.q, bits (f.w 3) 15 0, none, 0, [], []⟩] } } := by
  unfold effSift
  rw [bound]
  rfl

/-- Settles O34: a query's start, the grant of its context, the limit, its end. -/
theorem siftQueriesQueueRunAndEnd : Obligations.SiftQueriesQueueRunAndEnd := by
  refine ⟨⟨?_, ?_⟩, ?_, ?_⟩
  · rintro t ring upd s e f d rfl taken bound
    cases upd with
    | false => exact (act_onDesc_of_take taken _).trans (by rw [effSift_of_ring bound])
    | true => exact (act_onDesc_of_take taken _).trans (by rw [effSift_of_ring bound])
  · rintro t s e q g blk rfl serves free only waits sift read rfl
    rw [exec_siftContextGrant, act_eq, effContextGrant_of_sift only serves free waits sift read]
    refine ⟨fun sound => ?_, fun k fault => ?_⟩
    · rw [sound]
    · rw [fault]
      refine ⟨_, rfl, ?_, ?_⟩
      · simp only [complete_sift _ _ (s.dev.queryRefusal q k) rfl]
      · simp only [complete_lp _ _ (s.dev.queryRefusal q k) rfl]
  · rintro t c s e q rfl serves only granted sift
    rw [exec_siftQueryLimit, act_eq, effQueryLimit_of_sift only granted serves sift]
    refine ⟨fun past => ?_, fun early => ?_⟩
    · rw [if_pos past]
      exact ⟨_, rfl, rfl, by rw [endQuery_sift, ended_queries_of_only only]⟩
    · rw [if_neg (Nat.not_le.mpr early)]
  · rintro t c lb bad s e q rfl serves only granted
    rw [exec_siftComplete, act_eq]
    refine ⟨fun up answered => ⟨_, rfl, effSiftComplete_ends only granted serves up answered lb bad⟩, fun waits => ?_⟩
    rw [effSiftComplete_of_only only granted serves, if_pos waits]

end Sys2Proof.Machine
end

section
/-! PROOFS. Hearth: FW_BLOCK and FW_COMMIT (R384, R385), ATTEST (R395), CAL_WRITE (R393), the end of a flash write
(R382). -/

namespace Sys2Proof.Machine

theorem exec_fwBlock (t ring : Nat) (hostOk flashOk : Bool) (s : State) :
    exec (.fwBlock t ring hostOk flashOk) s = s.act t (onDesc ring 0x30 (effFwBlock hostOk flashOk)) := rfl

theorem exec_fwCommit (t ring : Nat) (s : State) :
    exec (.fwCommit t ring) s = s.act t (onDesc ring 0x31 effFwCommit) := rfl

theorem exec_attest (t ring : Nat) (s : State) : exec (.attest t ring) s =
    s.act t (fun e d => if d.hif.linkUp then onDesc ring 0x32 effAttest e d else d) := rfl

theorem exec_calWrite (t ring : Nat) (hostOk : Bool) (s : State) :
    exec (.calWrite t ring hostOk) s = s.act t (onDesc ring 0x33 (effCalWrite hostOk)) := rfl

theorem exec_flashWriteComplete (t : Nat) (how : FlashEnd) (s : State) :
    exec (.flashWriteComplete t how) s = s.act t (effFlashComplete how) := rfl

theorem take_hearth {e : Env} {d d' : Device} {ring op : Nat} {f : Fetched} (h : d.take e ring op = some (f, d')) :
    d'.hearth = d.hearth := by
  obtain ⟨_, _, rfl⟩ := take_frame h; rfl

/-! ## FW_BLOCK in service (R384) -/

section Block
variable {e : Env} {d : Device} {f : Fetched} {off len : Nat} (offset : off = bits (f.w 3) 63 32)
  (length : len = bits (f.w 3) 16 0)

/-- The granules that stay staged when a block arrives at an offset: a block at offset 0 starts afresh. -/
def Hearth.stagedBefore (h : Hearth) (off : Nat) : List Nat := if off = 0 then [] else h.granules

/-- The device with a block's bytes in the staging area and its granules marked. -/
def Device.withBlock (e : Env) (d : Device) (off : Nat) (bs : List Byte) (gs : List Nat) : Device :=
  let u := d.lpWrites (stageBase e + off) bs
  let had := d.hearth.stagedBefore off
  { u with hearth := { u.hearth with granules := had ++ gs.filter (fun g => !had.contains g) } }

include offset length

theorem stageBlock_of_placed (aligned : off % 4096 = 0) (fits : off + len ≤ Config.maxImage)
    (whole : len % 4096 = 0) : d.stageBlock e f =
      (d.withBlock e off (d.hostRead (f.w 2) len) (granules off len)).completeD e f 0 0 0 := by
  subst offset length
  have guard : (bits (f.w 3) 63 32 % 4096 != 0 || decide (bits (f.w 3) 63 32 + bits (f.w 3) 16 0 > Config.maxImage) ||
      (bits (f.w 3) 16 0 % 4096 != 0 && !d.endsImage e (bits (f.w 3) 63 32) (bits (f.w 3) 16 0)
        (d.hostRead (f.w 2) (bits (f.w 3) 16 0)))) = false := by
    rw [aligned, whole, decide_eq_false (Nat.not_lt.mpr fits)]; rfl
  unfold Device.stageBlock
  rw [if_neg (by rw [guard]; decide)]
  rfl

theorem stageBlock_of_misplaced (misplaced : off % 4096 ≠ 0 ∨ Config.maxImage < off + len) :
    d.stageBlock e f = d.completeD e f 0x20 3 0 := by
  subst offset length
  have guard : (bits (f.w 3) 63 32 % 4096 != 0 ||
      decide (bits (f.w 3) 63 32 + bits (f.w 3) 16 0 > Config.maxImage)) = true := by
    rcases misplaced with h | h
    · rw [bne_iff_ne.mpr h]; rfl
    · rw [decide_eq_true h, Bool.or_true]
  unfold Device.stageBlock
  rw [if_pos (by rw [guard]; rfl)]

end Block

theorem effFwBlock_of_running {d : Device} (runs : d.mode = .running) (flashOk : Bool) (e : Env) (f : Fetched) :
    effFwBlock true flashOk e d f = d.stageBlock e f := by
  simp [effFwBlock, runs]

theorem mem_withBlock_granules (e : Env) (d : Device) (off : Nat) (bs : List Byte) (gs : List Nat) (g : Nat) :
    g ∈ (d.withBlock e off bs gs).hearth.granules ↔ g ∈ gs ∨ (off ≠ 0 ∧ g ∈ d.hearth.granules) := by
  have before : g ∈ d.hearth.stagedBefore off ↔ off ≠ 0 ∧ g ∈ d.hearth.granules := by
    unfold Hearth.stagedBefore; split <;> simp [*]
  have after : g ∈ (d.withBlock e off bs gs).hearth.granules ↔
      g ∈ d.hearth.stagedBefore off ∨ (g ∈ gs ∧ g ∉ d.hearth.stagedBefore off) := by
    simp [Device.withBlock]
  rw [after, ← before]
  tauto

/-! ## FW_COMMIT in service (R385) -/

/-- The device with no granule marked. -/
def Device.unstaged (d : Device) : Device := { d with hearth := { d.hearth with granules := [] } }

/-- Is an image of a length staged whole, with its header giving that length (Table 16.5, check 1). -/
def Device.stagedWhole (d : Device) (im : List Byte) (total : Nat) : Bool :=
  total ≤ Config.maxImage && secNat im 0x18 8 == total && 0x28 ≤ total &&
    (granules 0 total).all (fun g => d.hearth.granules.contains g)

theorem effFwCommit_of_running {e : Env} {d : Device} (runs : d.mode = .running) {f : Fetched} {im : List Byte}
    {total : Nat} (length : total = bits (f.w 3) 31 0)
    (read : im = mreads 0 d.lp (stageBase e) (sat Config.maxImage total)) : effFwCommit e d f =
      match (if d.stagedWhole im total = true then imageChecks d.hearth.fuses im total else some (0x20, 3)) with
      | some k => d.unstaged.completeD e f k.1 k.2 0
      | none => d.unstaged.pushFlash (.commit f (!d.hearth.bootB) im) := by
  have rom : (d.mode == .recovery) = false := by rw [runs]; rfl
  subst length read
  unfold effFwCommit
  simp only [rom, Bool.false_eq_true, if_false, Bool.decide_eq_true]
  rfl

section Whole
variable {d : Device} {im : List Byte} {total : Nat}

theorem stagedWhole_eq_true (fits : total ≤ Config.maxImage) (header : secNat im 0x18 8 = total) (long : 0x28 ≤ total)
    (marked : ∀ g ∈ granules 0 total, g ∈ d.hearth.granules) : d.stagedWhole im total = true := by
  simpa [Device.stagedWhole, fits, header, long] using marked

theorem stagedWhole_eq_false (missing : ∃ g ∈ granules 0 total, g ∉ d.hearth.granules) :
    d.stagedWhole im total = false := by
  obtain ⟨g, needed, unmarked⟩ := missing
  rw [← Bool.not_eq_true]
  intro whole
  simp only [Device.stagedWhole, Bool.and_eq_true, List.all_eq_true] at whole
  exact unmarked (by simpa using whole.2 g needed)

end Whole

/-- Settles O36: a placed block and a misplaced one, a whole image that passes its checks, one that fails, one that is not
whole. -/
theorem firmwareStagesAndCommits : Obligations.FirmwareStagesAndCommits := by
  refine ⟨?_, ?_⟩
  · rintro t ring s e f d rfl runs taken off len offset length
    rw [exec_fwBlock, act_onDesc_of_take taken, effFwBlock_of_running runs]
    refine ⟨fun aligned fits whole => ?_, fun misplaced => by rw [stageBlock_of_misplaced offset length misplaced]⟩
    rw [stageBlock_of_placed offset length aligned fits whole]
    refine ⟨_, rfl, ?_, fun g => ?_, ?_, ?_⟩
    · rw [completeD_lp, ← take_lp taken]; rfl
    · rw [completeD_hearth, mem_withBlock_granules, take_hearth taken]
    · rw [completeD_hearth, ← take_hearth taken]; rfl
    · rw [completeD_hearth, ← take_hearth taken]; rfl
  · rintro t ring s e f d d' im total rfl runs taken length read rfl
    rw [exec_fwCommit, act_onDesc_of_take taken, effFwCommit_of_running runs length read]
    refine ⟨fun fits header long marked => ⟨fun sound => ?_, fun k fails => ?_⟩, fun missing => ?_⟩
    · rw [stagedWhole_eq_true fits header long marked, if_pos rfl, sound]; rfl
    · rw [stagedWhole_eq_true fits header long marked, if_pos rfl, fails]; rfl
    · rw [stagedWhole_eq_false missing]; rfl

/-! ## ATTEST (R395, Table 16.8) -/

/-- The first 64 bytes of the report, and the nonce that follows them. -/
def Device.reportHead (e : Env) (d : Device) : List Byte :=
  let h := d.hearth
  let mode := if d.mode == .recovery then 2 else b2n h.trial
  toBytes 8 (0x54525441 + 2 ^ 32 * 1) ++ toBytes 8 (6144 + 1536 * 2 ^ 32)
    ++ toBytes 8 (0x0720 + h.fuses.grade % 2 * 2 ^ 16 + b2n h.bootB * 2 ^ 17 + mode * 2 ^ 18 + b2n d.calValid * 2 ^ 20
      + b2n h.settingsApplied * 2 ^ 21)
    ++ toBytes 8 (h.version + secNat h.bootHeader 0x0D 1 * 2 ^ 32 + h.fuses.rollback * 2 ^ 40
      + secNat h.bootHeader 0x0E 2 * 2 ^ 48)
    ++ toBytes 16 h.fuses.unitId ++ toBytes 8 e.now
    ++ toBytes 8 (d.health.generation + (24576 - d.health.out.length) * 2 ^ 32)

def Fetched.nonce (f : Fetched) : List Byte :=
  toBytes 8 (f.w 4) ++ toBytes 8 (f.w 5) ++ toBytes 8 (f.w 6) ++ toBytes 8 (f.w 7)

/-- What follows the nonce in the signed part of the report. -/
def Device.reportRest (d : Device) : List Byte :=
  let h := d.hearth
  zeros 32 ++ digestOr h.bootHeader ++ digestOr h.calSet ++ digestOr h.appliedBlob
    ++ sha512 (toBytesBE 512 Config.identityModulus) ++ zeros 128
    ++ ((upto 16).map (fun r => match d.recipe r with
      | some s => toBytes 64 s.digest
      | none => zeros 64)).flatten

theorem reportBody_eq (e : Env) (d : Device) (f : Fetched) :
    d.reportBody e f = d.reportHead e ++ (f.nonce ++ d.reportRest) := by
  unfold Device.reportBody Device.reportHead Fetched.nonce Device.reportRest
  simp only [List.append_assoc] <;> rfl

theorem length_reportHead (e : Env) (d : Device) : (d.reportHead e).length = 0x40 := by
  simp [Device.reportHead]

theorem take_toBytes (n k v : Nat) : (toBytes (n + k) v).take n = toBytes n v := by
  induction n generalizing v with
  | zero => rfl
  | succ n ih => rw [Nat.add_right_comm]; simp [toBytes, ih]

theorem reportHead_magic (e : Env) (d : Device) (rest : List Byte) :
    ofBytes ((d.reportHead e ++ rest).take 4) = 0x54525441 := by
  unfold Device.reportHead
  simp only [List.append_assoc]
  rw [List.take_append_of_le_length (by simp), take_toBytes 4 4, ofBytes_toBytes]
  rfl

/-- The report's qwords 8 to 11 are the nonce (Table 16.8). -/
theorem nonce_qword {f : Fetched} {i : Nat} (hi : i < 4) (rest : List Byte) :
    ((f.nonce ++ rest).drop (8 * i)).take 8 = toBytes 8 (f.w (4 + i)) := by
  unfold Fetched.nonce
  obtain rfl | rfl | rfl | rfl : i = 0 ∨ i = 1 ∨ i = 2 ∨ i = 3 := by omega
  all_goals simp [List.drop_append, List.drop_eq_nil_of_le]

/-- The report: its signed part, the signature drawn, the certificate (Table 16.8). -/
def Device.report (e : Env) (d : Device) (f : Fetched) : List Byte :=
  let body := d.reportBody e f
  let cert := d.hearth.certificate.take 4088
  body ++ toBytesBE 512 (Config.identitySignature d.free (sha512N body)) ++ toBytes 8 cert.length ++ cert
    ++ zeros (4088 - cert.length)

theorem effAttest_eq (e : Env) (d : Device) (f : Fetched) : effAttest e d f =
    (({ d with free := d.free + 1 } : Device).hostWrite (f.w 2) (d.report e f)).completeD e f 0 0 6144 := rfl

theorem report_eq (e : Env) (d : Device) (f : Fetched) :
    ∃ rest, d.report e f = d.reportHead e ++ (f.nonce ++ rest) := by
  unfold Device.report
  simp only [reportBody_eq, List.append_assoc]
  exact ⟨_, rfl⟩

theorem report_magic (e : Env) (d : Device) (f : Fetched) : ofBytes ((d.report e f).take 4) = 0x54525441 := by
  obtain ⟨rest, h⟩ := report_eq e d f
  rw [h, reportHead_magic]

theorem report_nonce (e : Env) (d : Device) (f : Fetched) {i : Nat} (hi : i < 4) :
    ofBytes (((d.report e f).drop (0x40 + 8 * i)).take 8) = f.w (4 + i) % 2 ^ 64 := by
  obtain ⟨rest, h⟩ := report_eq e d f
  rw [h, List.drop_append, length_reportHead, List.drop_eq_nil_of_le (by rw [length_reportHead]; omega),
    Nat.add_sub_cancel_left, List.nil_append, nonce_qword hi, ofBytes_toBytes]
  rfl

/-! ## CAL_WRITE (R393) -/

section Calibration
variable {d : Device} {f : Fetched} {set : List Byte} (read : set = d.hostRead (f.w 2) (bits (f.w 3) 31 0))
include read

theorem effCalWrite_of_sound (sound : calOk set = true) (e : Env) :
    effCalWrite true e d f = d.pushFlash (.calibration f (!d.hearth.cal0.isEmpty) set) := by
  subst read
  simp [effCalWrite, sound]

theorem effCalWrite_of_unsound (unsound : calOk set = false) (e : Env) :
    effCalWrite true e d f = d.completeD e f 0x20 3 0 := by
  subst read
  simp [effCalWrite, unsound]

end Calibration

/-! ## The end of a flash write (R382) -/

section Flash
variable {e : Env} {d : Device} (runs : d.mode = .running) (awake : d.logicFrozen = false)
include runs awake

theorem serves_flash : (!(d.mode == .running || d.mode == .recovery) || d.logicFrozen) = false := by
  simp [runs, awake]

/-- The device with the flash write in progress programmed and no other waiting. -/
def Device.programmed (d : Device) (o : FlashOp) : Device :=
  { d with hearth := { d.hearth.programmed o with ops := [] } }

/-- A lone write of a bank or a calibration set that is done programs its region and completes its descriptor. -/
theorem effFlashComplete_of_done {o : FlashOp} (only : d.hearth.ops = [o]) {f : Fetched}
    (desc : flashDesc o = some f) : effFlashComplete .done e d = (d.programmed o).completeD e f 0 0 0 := by
  cases o with
  | settings | census => cases desc
  | commit | calibration =>
    cases desc
    unfold effFlashComplete
    simp only [only, serves_flash runs awake]
    rfl

/-- One that mismatches programs nothing. -/
theorem effFlashComplete_of_mismatch {f : Fetched} {b : Bool} {im : List Byte} (only : d.hearth.ops = [.commit f b im]) :
    effFlashComplete .mismatch e d =
      ({ d with hearth := { d.hearth with ops := [] } } : Device).completeD e f 0x43 6 0 := by
  unfold effFlashComplete
  simp only [only, serves_flash runs awake]
  rfl

end Flash

theorem programmed_commit_bank (h : Hearth) (f : Fetched) (b : Bool) (im : List Byte) :
    (h.programmed (.commit f b im)).bank b = ⟨0x7F, h.nextSeq, im.length, im, false⟩ ∧
      (h.programmed (.commit f b im)).bank (!b) = h.bank (!b) := by
  cases b <;> exact ⟨rfl, rfl⟩

/-- Settles O38: the report, CAL_WRITE, and the flash writes of a bank and of a calibration set. -/
theorem reportsAndFlashWrites : Obligations.ReportsAndFlashWrites := by
  refine ⟨?_, ?_, ?_⟩
  · rintro t ring s e f d rfl taken up
    refine ⟨d.report (s.env.tick t) f, ?_, report_magic .., fun i hi => report_nonce _ _ _ hi⟩
    rw [exec_attest, act_eq, if_pos up, onDesc_some _ taken, effAttest_eq]
  · rintro t ring s e f d set rfl taken read
    rw [exec_calWrite, act_onDesc_of_take taken]
    exact ⟨fun sound => by rw [effCalWrite_of_sound read sound],
      fun unsound => by rw [effCalWrite_of_unsound read unsound]⟩
  · rintro t s e f im b rfl runs awake
    rw [exec_flashWriteComplete, exec_flashWriteComplete, act_eq, act_eq]
    refine ⟨fun only => ⟨?_, ?_⟩, fun only => ?_⟩
    · rw [effFlashComplete_of_done runs awake only rfl]
      obtain ⟨written, other⟩ := programmed_commit_bank s.dev.hearth f b im
      refine ⟨_, rfl, ?_⟩
      simp only [completeD_hearth]
      exact ⟨rfl, written, other⟩
    · rw [effFlashComplete_of_mismatch runs awake only]
      refine ⟨_, rfl, ?_, rfl⟩
      simp only [completeD_hearth]
    · rw [effFlashComplete_of_done runs awake only rfl]
      refine ⟨_, rfl, ?_⟩
      simp only [completeD_hearth]
      cases b <;> exact ⟨rfl, rfl, rfl⟩

end Sys2Proof.Machine
end

section
/-! PROOFS. Power, rails, resets and starts (R386–R392, R413–R415, R433). -/

namespace Sys2Proof.Machine

/-! ## The choice of a bank keeps the fuses (R386) -/

theorem fit_fuses (h : Hearth) (im : Option (List Byte)) : (h.fit im).fuses = h.fuses := by
  cases im <;> rfl

theorem setState_fuses (h : Hearth) (b : Bool) (st : Nat) : (h.setState b st).fuses = h.fuses := by
  cases b <;> rfl

theorem failTrial_fuses (h : Hearth) (b : Bool) : (h.failTrial b).fuses = h.fuses := by
  unfold Hearth.failTrial
  split
  · exact setState_fuses ..
  · rfl

theorem tryBanks_fuses (bs : List Bool) (h : Hearth) : (tryBanks bs h).1.fuses = h.fuses := by
  induction bs generalizing h with
  | nil => rfl
  | cons b bs ih =>
    have trying : (if (h.bank b).state = 0x7F then h.setState b 0x3F else h).fuses = h.fuses := by
      split
      · exact setState_fuses ..
      · rfl
    unfold tryBanks
    generalize (if (h.bank b).state = 0x7F then h.setState b 0x3F else h) = tried at trying
    dsimp only
    split
    · exact trying
    · rw [ih, setState_fuses, trying]

theorem choose_fuses (h : Hearth) : h.choose.1.fuses = h.fuses := by
  unfold Hearth.choose
  rw [tryBanks_fuses, failTrial_fuses, failTrial_fuses]

/-! ## The settings blob changes registers and Hearth alone (R391, R392) -/

theorem eraseRecord_boot (h : Hearth) (o : FlashOp) :
    (h.eraseRecord o).bootB = h.bootB ∧ (h.eraseRecord o).fuses = h.fuses := by
  cases o with
  | commit f b im => cases b <;> exact ⟨rfl, rfl⟩
  | calibration f b set => cases b <;> exact ⟨rfl, rfl⟩
  | settings b blob => cases b <;> exact ⟨rfl, rfl⟩
  | census b => exact ⟨rfl, rfl⟩

theorem startFirst_boot (h : Hearth) : h.startFirst.bootB = h.bootB ∧ h.startFirst.fuses = h.fuses := by
  unfold Hearth.startFirst
  split
  · exact ⟨rfl, rfl⟩
  · exact eraseRecord_boot ..

/-- The same device but for what Hearth holds beside the booted bank and the fuses. -/
def Device.SameButHearth (d d' : Device) : Prop :=
  ∃ h : Hearth, d' = { d with hearth := h } ∧ h.bootB = d.hearth.bootB ∧ h.fuses = d.hearth.fuses

theorem sameButHearth_of_boot (d : Device) {h : Hearth} (boot : h.bootB = d.hearth.bootB)
    (fuses : h.fuses = d.hearth.fuses) : d.SameButHearth { d with hearth := h } := ⟨h, rfl, boot, fuses⟩

theorem pushFlash_sameButHearth (d : Device) (o : FlashOp) : d.SameButHearth (d.pushFlash o) := by
  unfold Device.pushFlash
  refine ⟨_, rfl, ?_⟩
  split
  · exact startFirst_boot _
  · exact ⟨rfl, rfl⟩

theorem Device.SameButHearth.trans {a b c : Device} (h : a.SameButHearth b) (h' : b.SameButHearth c) : a.SameButHearth c := by
  obtain ⟨_, rfl, boot, fuses⟩ := h
  obtain ⟨k, rfl, boot', fuses'⟩ := h'
  exact ⟨k, rfl, boot'.trans boot, fuses'.trans fuses⟩

theorem applySettings_sameButHearth (st : StartInput) (e : Env) (d : Device) :
    d.SameButHearth (applySettings st e d).2 := by
  have same : d.SameButHearth d := ⟨_, rfl, rfl, rfl⟩
  unfold applySettings
  dsimp only
  split
  · exact same
  split
  · split
    · exact sameButHearth_of_boot d rfl rfl
    · exact same
  split
  · exact sameButHearth_of_boot d rfl rfl
  · exact .trans (sameButHearth_of_boot d rfl rfl) (pushFlash_sameButHearth _ _)

theorem applyEntries_closed (e : Env) (es : List (Nat × Nat)) : (applyEntries e es).closed = e.closed := by
  unfold applyEntries
  induction es generalizing e with
  | nil => rfl
  | cons x es ih => rw [List.foldl_cons, ih, regStore_closed]

theorem applyEntries_now (e : Env) (es : List (Nat × Nat)) : (applyEntries e es).now = e.now := by
  unfold applyEntries
  induction es generalizing e with
  | nil => rfl
  | cons x es ih => rw [List.foldl_cons, ih, regStore_now]

/-! ## A start (R387, R415) -/

section Boot
variable {st : StartInput} {d : Device} {h : Hearth}

theorem boot_of_no_bank (none_found : (d.bare.hearth.fit st.fitted).choose = (h, none)) (e : Env) : boot st e d =
    ({}, { d.bare with mode := .recovery, hearth := { h with calSet := h.validCal } }) := by
  unfold boot
  simp only [none_found]

/-- Hearth when a bank is found and started. -/
def Hearth.started (h : Hearth) (b : Bool) (grade : Nat) : Hearth :=
  let im := (h.bank b).image
  { h with bootB := b, version := secNat im 8 4, bootHeader := im.take 0xA00, calSet := h.validCal,
           trial := (h.bank b).state == 0x3F, grade := grade }

theorem boot_of_bank {b : Bool} (found : (d.bare.hearth.fit st.fitted).choose = (h, some b)) (trained : st.grade ≠ 0)
    (e : Env) : boot st e d = applySettings st {} { d.bare with
      mode := .running, hearth := h.started b st.grade, health := { d.bare.health with out := h.census } } := by
  unfold boot
  simp only [found, if_neg trained]
  rfl

end Boot

/-- Settles O49: power and rails by the commands' definitions; each of the three start commands is `boot`, which finds a
bank or does not; the soft reset's key is a halt. -/
theorem startsAndResets : Obligations.StartsAndResets := by
  rintro t st s e rfl
  refine ⟨rfl, fun on => ?_, fun off => ?_, fun c start => ?_, fun runs up awake => ?_⟩
  · have powered : ¬ (s.dev.mode == .off) = true := by simpa using on
    change s.actEnv t effFixedRail = _
    rw [actEnv_eq, effFixedRail, if_neg powered]
  · change s.actEnv t (effPowerOn true st) = _
    rw [actEnv_eq, effPowerOn, if_neg (by simp [off]), if_pos rfl]
  · have starts : exec c s = .next { s with env := (boot st (s.env.tick t) s.dev).1
                                            dev := (boot st (s.env.tick t) s.dev).2 } := by
      rcases start with ⟨rfl, off⟩ | ⟨rfl, on, good⟩ | ⟨rfl, soft, halted⟩
      · change s.actEnv t (effPowerOn false st) = _
        rw [actEnv_eq, effPowerOn, if_neg (by simp [off]), if_neg (by decide)]
      · change s.actEnv t (effPinReset st) = _
        rw [actEnv_eq, effPinReset, if_neg (by simp [on, good])]
      · change s.actEnv t (effSoftStart st) = _
        rw [actEnv_eq, effSoftStart, if_pos (by simp [soft, halted])]
    rw [starts]
    refine ⟨fun h none_found => by rw [boot_of_no_bank none_found], fun h b found trained => ⟨_, rfl, ?_⟩⟩
    obtain ⟨es, env⟩ := boot_env st (s.env.tick t) s.dev
    rw [env, applyEntries_closed, applyEntries_now, boot_of_bank found trained]
    obtain ⟨h', dev, boot, fuses⟩ := applySettings_sameButHearth st {} { s.dev.bare with
      mode := .running, hearth := h.started b st.grade, health := { s.dev.bare.health with out := h.census } }
    have kept : h.fuses = s.dev.hearth.fuses := by
      have chosen := choose_fuses (s.dev.bare.hearth.fit st.fitted)
      rw [found, fit_fuses] at chosen
      exact chosen
    rw [dev]
    exact ⟨rfl, rfl, rfl, rfl, rfl, rfl, rfl, rfl, boot, fuses.trans kept, rfl⟩
  · refine ⟨_, rfl, ?_⟩
    have key : effSoftReset false 8 0x54534B52 (s.env.tick t) s.dev =
        ({ s.dev with dmp := { s.dev.dmp with soft := true } } : Device).halt (s.env.tick t) 8 := by
      simp [effSoftReset, runs, up]
    change (effSoftReset false 8 0x54534B52 (s.env.tick t) s.dev).mode = _
    rw [key]
    exact halt_mode (d := { s.dev with dmp := { s.dev.dmp with soft := true } }) runs awake (by decide) _

end Sys2Proof.Machine
end

section
/-! PROOFS. Pemos: what the queueing of a packet leaves alone, the limits of issue (R358), the links (R347–R349, R355) and
the packet boundary (R370–R373). -/

namespace Sys2Proof.Machine

/-! ## What queueing a packet changes: the ports alone, and the shaper credits -/

/-- The same device but for the ports' records and the Proofer's. -/
def Device.SameButPorts (d d' : Device) : Prop :=
  ∃ ports prf, d' = { d with pem := { d.pem with ports := ports }, prf := prf }

theorem Device.SameButPorts.trans {a b c : Device} (h : a.SameButPorts b) (h' : b.SameButPorts c) :
    a.SameButPorts c := by
  obtain ⟨_, _, rfl⟩ := h
  obtain ⟨x, y, rfl⟩ := h'
  exact ⟨x, y, rfl⟩

theorem setPort_sameButPorts (d : Device) (p : Nat) (x : Port) : d.SameButPorts (d.setPort p x) := ⟨_, d.prf, rfl⟩

theorem settleOutlet_sameButPorts (d : Device) (e : Env) (p : Nat) : d.SameButPorts (d.settleOutlet e p) := by
  simp only [Device.settleOutlet]
  split
  · exact ⟨d.pem.ports, _, rfl⟩
  · exact setPort_sameButPorts ..

theorem enqueue_sameButPorts (d : Device) (e : Env) (p kind : Nat) (k : Pkt) :
    d.SameButPorts (d.enqueue e p kind k) := by
  refine (settleOutlet_sameButPorts d e p).trans ?_
  unfold Device.enqueue
  dsimp only
  split <;> exact setPort_sameButPorts ..

theorem sendTo_sameButPorts (d : Device) (e : Env) (kind : Nat) (k : Pkt) : d.SameButPorts (d.sendTo e kind k) := by
  unfold Device.sendTo
  split
  · exact enqueue_sameButPorts ..
  · exact ⟨d.pem.ports, d.prf, rfl⟩

theorem Device.SameButPorts.ops {d d' : Device} (h : d.SameButPorts d') : d'.pem.ops = d.pem.ops := by
  obtain ⟨_, _, rfl⟩ := h; rfl

/-! ## The limits of issue (R358) -/

theorem findTag_fresh {e : Env} {d : Device} {fuel n t : Nat} (found : d.findTag e fuel n = some t) :
    ∀ o ∈ d.pem.ops, o.pkt.tag ≠ t := by
  induction fuel generalizing n with
  | zero => cases found
  | succ fuel ih =>
    simp only [Device.findTag] at found
    split at found
    · exact ih found
    · next unused =>
      obtain rfl := Option.some.inj found
      intro o mem taken
      exact unused (Bool.or_eq_true _ _ ▸ .inl (List.any_eq_true.mpr ⟨o, mem, by simp [taken]⟩))

/-- An operation issued stands last among the outstanding ones, with a tag none of them has; one without a tag waits. -/
theorem issueOp_ops (e : Env) (d : Device) (o : FabOp) : (d.issueOp e o).pem.ops = d.pem.ops ∨
    ∃ o', (d.issueOp e o).pem.ops = d.pem.ops ++ [o'] ∧ ∀ x ∈ d.pem.ops, x.pkt.tag ≠ o'.pkt.tag := by
  unfold Device.issueOp
  split
  · exact .inl rfl
  · next t found => exact .inr ⟨_, (sendTo_sameButPorts ..).ops, findTag_fresh found⟩

theorem askStagings_ops (d : Device) : d.askStagings.pem.ops = d.pem.ops := by
  unfold Device.askStagings
  refine List.foldlRecOn (motive := fun u : Device => u.pem.ops = d.pem.ops) _ _ rfl fun u same f _ => ?_
  split
  · split <;> exact same
  · exact same

/-- What every issue that R358 allows keeps of the outstanding operations, issuing all that waits keeps. -/
theorem pump_ops_keep {P : List FabOp → Prop} {e : Env} {d : Device}
    (issue : ∀ (u : Device) (o : FabOp), P u.pem.ops → u.mayIssue e o = true → P (u.issueOp e o).pem.ops)
    (start : P d.pem.ops) : P (d.pump e).pem.ops := by
  unfold Device.pump
  refine List.foldlRecOn (motive := fun u : Device × List Nat => P u.1.pem.ops) _ _ ?_ fun u kept o _ => ?_
  · change P d.askStagings.pem.ops
    rw [askStagings_ops]; exact start
  · obtain ⟨u, held⟩ := u
    dsimp only
    split
    · exact kept
    split
    · next allowed => exact issue u o kept allowed
    · exact kept

theorem length_ops_lt_of_mayIssue {e : Env} {d : Device} {o : FabOp} (allowed : d.mayIssue e o = true) :
    d.pem.ops.length < 16384 := by
  simp only [Device.mayIssue, Bool.and_eq_true, decide_eq_true_eq] at allowed
  obtain ⟨⟨few, _⟩, _⟩ := allowed
  exact few

/-- Settles O60: an issue that the limits allow adds one operation to fewer than 16,384, with a fresh tag. -/
theorem issueKeepsItsLimits : Obligations.IssueKeepsItsLimits := by
  refine ⟨?_, fun e d few => ?_, fun e d distinct => ?_⟩
  · rintro t s e rfl
    exact act_fabric_of_eq rfl
  · refine pump_ops_keep (P := fun ops => ops.length ≤ 16384) (fun u o le allowed => ?_) few
    have room := length_ops_lt_of_mayIssue allowed
    rcases issueOp_ops e u o with same | ⟨o', more, _⟩
    · rwa [same]
    · rw [more, List.length_append]; exact room
  · refine pump_ops_keep (P := fun ops => (ops.map (fun o => o.pkt.tag)).Nodup) (fun u o nodup _ => ?_) distinct
    rcases issueOp_ops e u o with same | ⟨o', more, fresh⟩
    · rwa [same]
    · rw [more, List.map_append]
      refine List.nodup_append.mpr ⟨nodup, List.nodup_singleton _, fun a mem b hb => ?_⟩
      obtain ⟨x, hx, rfl⟩ := List.mem_map.mp mem
      obtain rfl := List.mem_singleton.mp hb
      exact fresh x hx

end Sys2Proof.Machine
end

section
/-! PROOFS. Pemos: links that come up, train, replay, acknowledge and go down (R347–R349, R355). -/

namespace Sys2Proof.Machine

theorem exec_linkDown (t p : Nat) (up : Bool) (cause lanes : Nat) (s : State) :
    exec (.linkDown t p up cause lanes) s = s.act t (fabric (effLinkDown p up cause lanes)) := rfl

theorem exec_portTrainTimeout (t p : Nat) (s : State) :
    exec (.portTrainTimeout t p) s = s.act t (fabric (effTrainTimeout p)) := rfl

theorem exec_linkReplay (t p : Nat) (received : Bool) (s : State) :
    exec (.linkReplay t p received) s = s.act t (fabric (effLinkReplay p received)) := rfl

theorem exec_link (t p : Nat) (k : Pkt) (s : State) :
    exec (.link t p k) s = s.act t (serve p { k with type := 0 } (fun _ d _ => d)) := rfl

/-! ## A route that moves leaves the links as they are (R351) -/

/-- What the link layer holds of a port: its state, the packets not acknowledged, those to send again. -/
def Port.link (x : Port) : Nat × List Pkt × List Pkt := (x.state, x.unacked, x.replay)

/-- The same links, whatever waits in the ports' queues. -/
def Device.SameLinks (d d' : Device) : Prop := ∀ p, (d'.port p).link = (d.port p).link

theorem Device.SameLinks.trans {a b c : Device} (h : a.SameLinks b) (h' : b.SameLinks c) : a.SameLinks c :=
  fun p => (h' p).trans (h p)

theorem setPort_sameLinks {d : Device} {p : Nat} {x : Port} (same : x.link = (d.port p).link) :
    d.SameLinks (d.setPort p x) := by
  intro q
  rw [port_setPort]
  split
  · next at_p => rw [same, at_p]
  · rfl

theorem settleOutlet_sameLinks (d : Device) (e : Env) (p : Nat) : d.SameLinks (d.settleOutlet e p) := by
  simp only [Device.settleOutlet]
  split
  · exact fun _ => rfl
  · exact setPort_sameLinks rfl

/-- A port with the packets of another that go to a node at the end of its queues. -/
def Port.taking (y x : Port) (n : Nat) : Port :=
  let go := fun (l : List Pkt) => l.filter (fun k => k.dest == n)
  let y' := (upto 8).foldl (fun (y : Port) c =>
    let more := go (tget [] x.queues c)
    if more.isEmpty then y else { y with queues := tset y.queues c (tget [] y.queues c ++ more) }) y
  { y' with mgmt := y.mgmt ++ go x.mgmt }

/-- A port without the packets that go to a node. -/
def Port.without (x : Port) (n : Nat) : Port :=
  let stay := fun (l : List Pkt) => l.filter (fun k => k.dest != n)
  { x with mgmt := stay x.mgmt, queues := x.queues.map (fun (c : Nat × List Pkt) => (c.1, stay c.2)) }

theorem taking_link (y x : Port) (n : Nat) : (y.taking x n).link = y.link := by
  unfold Port.taking
  refine List.foldlRecOn (motive := fun z : Port => z.link = y.link) _ _ rfl fun z same c _ => ?_
  dsimp only
  split <;> exact same

/-- The device with a node's route on its other port, and both ports' credits brought up to now. -/
def Device.routed (e : Env) (d : Device) (n p q : Nat) : Device :=
  let alt := if d.pem.alternate.contains n then d.pem.alternate.filter (· != n) else d.pem.alternate ++ [n]
  (({ d with pem := { d.pem with alternate := alt } } : Device).settleOutlet e p).settleOutlet e q

theorem switchRoute_eq (e : Env) (d : Device) (n p q : Nat) : d.switchRoute e n p q =
    ((d.routed e n p q).setPort q (((d.routed e n p q).port q).taking ((d.routed e n p q).port p) n)).setPort p
      (((d.routed e n p q).port p).without n) := rfl

theorem routed_sameLinks (e : Env) (d : Device) (n p q : Nat) : d.SameLinks (d.routed e n p q) := by
  unfold Device.routed
  generalize (if d.pem.alternate.contains n = true then _ else _) = alternate
  exact .trans (settleOutlet_sameLinks { d with pem := { d.pem with alternate := alternate } } e p)
    (settleOutlet_sameLinks _ e q)

theorem switchRoute_sameLinks (e : Env) (d : Device) (n p q : Nat) : d.SameLinks (d.switchRoute e n p q) := by
  rw [switchRoute_eq]
  refine (routed_sameLinks e d n p q).trans ?_
  generalize d.routed e n p q = u
  have taken := setPort_sameLinks (taking_link (u.port q) (u.port p) n)
  exact taken.trans (setPort_sameLinks (x := (u.port p).without n) (taken p).symm)

theorem moveRoutes_sameLinks (e : Env) (d : Device) (p : Nat) : d.SameLinks (d.moveRoutes e p) := by
  unfold Device.moveRoutes
  refine List.foldlRecOn (motive := fun u : Device => d.SameLinks u) _ _ (fun _ => rfl) fun u same n _ => ?_
  split
  · split
    · exact same.trans (switchRoute_sameLinks e u n p _)
    · exact same
  · exact same

/-! ## Up and down (R347, R348) -/

theorem linkEvent_port (e : Env) (d : Device) (p : Nat) (up : Bool) (cause lanes q : Nat) :
    (d.linkEvent e p up cause lanes).port q = d.port q := by
  simp [Device.linkEvent, Device.port]

theorem isUp_eq_of_sameLinks {d d' : Device} (same : d.SameLinks d') (p : Nat) : d'.isUp p = d.isUp p := by
  have state : (d'.port p).state = (d.port p).state := congrArg Prod.fst (same p)
  unfold Device.isUp
  rw [state]

/-- A port that has just come up. -/
def Port.fresh (x : Port) (lanes : Nat) : Port :=
  { x with state := 2, lanes := lanes, sinceUp := 0, txSeq := 0, rxSeq := 0, nack := false,
           unacked := [], replay := [], streak := 0, credits := [2048, 2048, 16384, 128], freed := [0, 0, 0, 0] }

theorem portUp_port (e : Env) (d : Device) (p lanes : Nat) : (d.portUp e p lanes).port p = (d.port p).fresh lanes := by
  unfold Device.portUp
  rw [linkEvent_port, modPort_eq, port_setPort_same]
  rfl

/-- A port that has just gone down. -/
def Port.retraining (x : Port) (now lanes : Nat) : Port :=
  { x with state := 1, lanes := lanes, trainAt := now, unacked := [], replay := [], streak := 0, nack := false }

section Down
variable {d : Device} {p : Nat} (up : d.isUp p = true) (e : Env) (cause lanes : Nat)
include up

theorem portDown_eq : d.portDown e p cause lanes =
    ((d.setPort p ((d.port p).retraining e.now lanes)).linkEvent e p false cause lanes).moveRoutes e p := by
  unfold Device.portDown
  rw [up]
  rfl

theorem portDown_link : ((d.portDown e p cause lanes).port p).link = (1, [], []) := by
  rw [portDown_eq up, moveRoutes_sameLinks, linkEvent_port, port_setPort_same]
  rfl

theorem portDown_isUp_other {q : Nat} (other : q ≠ p) : (d.portDown e p cause lanes).isUp q = d.isUp q := by
  rw [portDown_eq up, isUp_eq_of_sameLinks (moveRoutes_sameLinks _ _ _), Device.isUp, linkEvent_port, port_setPort,
    if_neg other]
  rfl

theorem portDown_isUp_self : (d.portDown e p cause lanes).isUp p = false := by
  have state : ((d.portDown e p cause lanes).port p).state = 1 := congrArg Prod.fst (portDown_link up e cause lanes)
  unfold Device.isUp
  rw [state]
  rfl

end Down

section LinkDown
variable {e : Env} {d : Device} {p : Nat} (serves : d.serving e = true) (cause lanes : Nat)
include serves

theorem effLinkDown_up (port : p < 8) (enabled : portEnabled e p = true) (down : d.isUp p = false) :
    effLinkDown p true cause lanes e d = d.portUp e p lanes := by
  simp [effLinkDown, serves, enabled, down, Nat.not_le.mpr port]

theorem effLinkDown_down (port : p < 8) (enabled : portEnabled e p = true) :
    effLinkDown p false cause lanes e d = d.portDown e p cause lanes := by
  simp [effLinkDown, serves, enabled, Nat.not_le.mpr port]

omit serves in
theorem effLinkDown_of_disabled (disabled : portEnabled e p = false) : effLinkDown p true cause lanes e d = d := by
  simp [effLinkDown, disabled]

end LinkDown

/-! ## Training (R348) -/

section Training
variable {e : Env} {d : Device} {p : Nat} (serves : d.serving e = true)
include serves

theorem effTrainTimeout_of_training (training : (d.port p).state = 1) (late : (d.port p).trainAt + 500000000 ≤ e.now) :
    effTrainTimeout p e d = d.modPort p (fun x => { x with state := 3 }) := by
  simp only [effTrainTimeout, serves, training, late]
  rfl

theorem effTrainTimeout_of_down (down : (d.port p).state = 3) (late : (d.port p).trainAt + 1000000000 ≤ e.now) :
    effTrainTimeout p e d = d.modPort p (fun x => { x with state := 1, trainAt := e.now }) := by
  simp only [effTrainTimeout, serves, down, late]
  rfl

omit serves in
theorem effTrainTimeout_of_other (h1 : (d.port p).state ≠ 1) (h3 : (d.port p).state ≠ 3) :
    effTrainTimeout p e d = d := by
  simp [effTrainTimeout, h1, h3]

end Training

/-! ## Replays (R349) -/

theorem goBack_of_unacked {x : Port} (some_unacked : x.unacked ≠ []) : x.goBack =
    { x with replay := x.unacked, replays := sat lim32 (x.replays + 1), sinceUp := sat lim32 (x.sinceUp + 1),
             streak := x.streak + 1 } := by
  unfold Port.goBack
  rw [if_neg (by simpa using some_unacked)]

theorem goBack_state (x : Port) : x.goBack.state = x.state := by
  unfold Port.goBack; split <;> rfl

theorem goBack_rxSeq (x : Port) : x.goBack.rxSeq = x.rxSeq := by
  unfold Port.goBack; split <;> rfl

theorem goBack_credits (x : Port) : x.goBack.credits = x.credits := by
  unfold Port.goBack; split <;> rfl

section Replay
variable {e : Env} {d : Device} {p : Nat} (serves : d.serving e = true) (up : d.isUp p = true)
include serves up

theorem effLinkReplay_received : effLinkReplay p true e d =
    if (d.port p).goBack.streak ≥ 16 then
      (d.setPort p (d.port p).goBack).portDown e p 1 (d.port p).goBack.lanes
    else d.setPort p (d.port p).goBack := by
  unfold effLinkReplay
  rw [serves, up]
  simp only [modPort_eq, port_setPort_same]
  rfl

theorem effLinkReplay_dropped : effLinkReplay p false e d = d.setPort p { d.port p with nack := true } := by
  unfold effLinkReplay
  rw [serves, up]
  rfl

end Replay

/-! ## A packet that arrives (R349, R355) -/

/-- A port after a packet's link word. -/
def Port.heard (x : Port) (k : Pkt) : Port :=
  let y := if k.neg then (x.acked k).goBack else x.acked k
  { y with rxSeq := if k.type = 0 then y.rxSeq else k.seq,
           freed := (upto 4).map (fun c => y.freed.getD c 0 + (if c = k.chan && k.type != 0 then k.units + 1 else 0)) }

/-- A packet for this node at a port that is up is taken: its link word, then what its type says. -/
theorem arrive_of_taken {e : Env} {d : Device} {p : Nat} {k : Pkt} (serves : d.serving e = true)
    (up : d.isUp p = true) (mine : k.type = 0 ∨ k.dest = nodeNumber e) (f : Device → Device) :
    d.arrive e p k f = f (d.setPort p ((d.port p).heard k)) := by
  have taken : (!d.serving e || !d.isUp p || (k.type != 0 && k.dest != nodeNumber e)) = false := by
    rw [serves, up]
    rcases mine with h | h <;> simp [h]
  unfold Device.arrive
  rw [taken]
  rfl

theorem acked_after (k : Pkt) {a : List Pkt} {u : Pkt} (b : List Pkt) (hit : u.seq = k.ack)
    (first : ∀ v ∈ a, v.seq ≠ k.ack) : Port.acked.after k (a ++ u :: b) = b := by
  induction a with
  | nil => simp [Port.acked.after, hit]
  | cons v a ih =>
    rw [List.cons_append, Port.acked.after, if_neg (by simpa using first v (List.mem_cons_self ..))]
    exact ih fun w mem => first w (List.mem_cons_of_mem _ mem)

theorem acked_of_hit {x : Port} {k : Pkt} {a : List Pkt} {u : Pkt} {b : List Pkt} (sent : x.unacked = a ++ u :: b)
    (hit : u.seq = k.ack) (first : ∀ v ∈ a, v.seq ≠ k.ack) : (x.acked k).unacked = b ∧ (x.acked k).streak = 0 := by
  have found : x.unacked.any (fun u => u.seq == k.ack) = true := by
    rw [sent]; simp [hit]
  have after := acked_after k b hit first
  rw [← sent] at after
  unfold Port.acked
  rw [found]
  exact ⟨after, rfl⟩

theorem acked_credits (x : Port) (k : Pkt) {c : Nat} (channel : c < 4) :
    (x.acked k).credits.getD c 0 = x.credits.getD c 0 + bits k.credits (8 * c + 7) (8 * c) := by
  simp [Port.acked, upto, List.getD_eq_getElem?_getD, channel]

theorem heard_credits (x : Port) (k : Pkt) : (x.heard k).credits = (x.acked k).credits := by
  unfold Port.heard
  dsimp only
  split
  · exact goBack_credits _
  · rfl

theorem heard_rxSeq_of_link (x : Port) {k : Pkt} (link : k.type = 0) : (x.heard k).rxSeq = x.rxSeq := by
  unfold Port.heard
  simp only [link, if_true]
  split
  · exact goBack_rxSeq _
  · rfl

theorem heard_of_ack (x : Port) {k : Pkt} (ack : k.neg = false) :
    (x.heard k).unacked = (x.acked k).unacked ∧ (x.heard k).streak = (x.acked k).streak := by
  unfold Port.heard
  rw [ack]
  exact ⟨rfl, rfl⟩

/-- Settles O52: up and down, training, the replays, a link word. -/
theorem linksComeUpReplayAndGoDown : Obligations.LinksComeUpReplayAndGoDown := by
  refine ⟨?_, ?_, ?_⟩
  · rintro t p cause lanes s e rfl serves
    rw [exec_linkDown, exec_linkDown, exec_portTrainTimeout]
    refine ⟨?_, ?_, fun disabled => act_fabric_of_eq (effLinkDown_of_disabled cause lanes disabled), ?_, ?_,
      fun h1 h3 => act_fabric_of_eq (effTrainTimeout_of_other h1 h3)⟩
    · rintro port enabled down d rfl
      rw [portUp_port]
      exact ⟨act_fabric_of_eq (effLinkDown_up serves cause lanes port enabled down), rfl, rfl, rfl, rfl, rfl, rfl⟩
    · rintro port enabled up d rfl
      have link := portDown_link up (s.env.tick t) cause lanes
      simp only [Port.link, Prod.mk.injEq] at link
      obtain ⟨state, unacked, replay⟩ := link
      exact ⟨act_fabric_of_eq (effLinkDown_down serves cause lanes port enabled), state, unacked, replay,
        fun q other => portDown_isUp_other up _ cause lanes other⟩
    · rintro training late d rfl
      exact act_fabric_of_eq (effTrainTimeout_of_training serves training late)
    · rintro down late d rfl
      exact act_fabric_of_eq (effTrainTimeout_of_down serves down late)
  · rintro t p s e x rfl serves up rfl
    rw [exec_linkReplay, exec_linkReplay]
    refine ⟨?_, fun unacked long => ?_, ?_⟩
    · rintro unacked short d rfl
      refine act_fabric_of_eq ?_
      rw [effLinkReplay_received serves up, goBack_of_unacked unacked, if_neg (by dsimp only; omega)]
    · refine ⟨_, act_fabric_of_eq rfl, ?_⟩
      rw [effLinkReplay_received serves up, if_pos (by rw [goBack_of_unacked unacked]; dsimp only; omega)]
      refine portDown_isUp_self ?_ _ _ _
      rw [Device.isUp, port_setPort_same, goBack_state]
      exact up
    · rintro d rfl
      exact act_fabric_of_eq (effLinkReplay_dropped serves up)
  · rintro t p k s e rfl serves up
    rw [exec_link]
    refine ⟨_, act_fabric_of_eq (arrive_of_taken serves up (.inl rfl) _), fun q other => ?_, ?_, ?_, ?_, rfl⟩
    · rw [port_setPort, if_neg other]
    · rw [port_setPort_same, heard_rxSeq_of_link _ rfl]
    · intro ack a u b sent hit first
      obtain ⟨unacked, streak⟩ := heard_of_ack (s.dev.port p) (k := { k with type := 0 }) ack
      rw [port_setPort_same, unacked, streak]
      exact acked_of_hit (k := { k with type := 0 }) sent hit first
    · intro c channel
      rw [port_setPort_same, heard_credits]
      exact acked_credits _ _ channel

end Sys2Proof.Machine
end

section
/-! PROOFS. Pemos: what a port sends at a packet boundary (R349, R368, R370–R373). -/

namespace Sys2Proof.Machine

theorem exec_portPacketBoundary (t p : Nat) (s : State) :
    exec (.portPacketBoundary t p) s = s.act t (effPacketBoundary p) := rfl

/-- The head packet of a class that is eligible and clears the guard, with its class. -/
def Device.classSends (e : Env) (d : Device) (p c : Nat) : Option (Nat × Pkt) :=
  match d.classHead e p c with
  | some k => if d.guardOk e p c k then some (c, k) else none
  | none => none

/-- A packet that only acknowledges and returns credit. -/
def linkOnly (e : Env) (seq : Nat) : Pkt := ⟨0, nodeNumber e, 0, 0, 0, 0, 0, 0, 0, 0, 0, seq, 0, false, 0, []⟩

/-- A port sends the head packet of a class, its credit charged; no class, a link-only packet. -/
def Device.sendClass (e : Env) (d : Device) (p : Nat) : Option (Nat × Pkt) → Device
  | some (c, k) =>
    let x := d.port p
    let rest := (tget [] x.queues c).drop 1
    (d.setPort p { x with queues := tset x.queues c rest,
                          credit := chargeCredit e p c (wireLen e p k) rest.isEmpty x.credit }).sendNew e p k
  | none => d.transmit e p (linkOnly e (d.port p).txSeq)

/-- A port sends a new packet: a management packet, else what its classes have. -/
def Device.sendQueued (e : Env) (d : Device) (p : Nat) : Device :=
  let x := d.port p
  match (x.mgmt.filter x.mayCarry).head?, x.mgmt with
  | some k, m :: rest => if k == m then (d.setPort p { x with mgmt := rest }).sendNew e p k else d
  | _, _ => d.sendClass e p ((upto 8).reverse.findSome? (d.classSends e p))

/-- A port sends: a replayed packet, else a new one. -/
def Device.sendNext (e : Env) (d : Device) (p : Nat) : Device :=
  match (d.port p).replay with
  | k :: r => (d.setPort p { d.port p with replay := r }).transmit e p k
  | [] => d.sendQueued e p

section Boundary
variable {e : Env} {d : Device} {p : Nat}

theorem effPacketBoundary_of_busy (busy : 100 * e.now < (d.port p).busyUntil) : effPacketBoundary p e d = d := by
  simp [effPacketBoundary, busy]

theorem effPacketBoundary_of_free (serves : d.serving e = true) (up : d.isUp p = true)
    (free : (d.port p).busyUntil ≤ 100 * e.now) :
    effPacketBoundary p e d = (((d.pump e).settleOutlet e p).noteHold e p).sendNext e p := by
  unfold effPacketBoundary
  rw [if_neg (by simp [serves, up, free])]
  rfl

theorem sendNext_of_replay {k : Pkt} {r : List Pkt} (replay : (d.port p).replay = k :: r) :
    d.sendNext e p = (d.setPort p { d.port p with replay := r }).transmit e p k := by
  unfold Device.sendNext
  rw [replay]

theorem sendNext_of_mgmt {k : Pkt} {r : List Pkt} (none_replayed : (d.port p).replay = [])
    (mgmt : (d.port p).mgmt = k :: r) (credit : (d.port p).mayCarry k = true) :
    d.sendNext e p = (d.setPort p { d.port p with mgmt := r }).sendNew e p k := by
  unfold Device.sendNext
  rw [none_replayed]
  simp [Device.sendQueued, mgmt, credit]

theorem sendNext_of_queues (none_replayed : (d.port p).replay = []) (no_mgmt : (d.port p).mgmt = []) :
    d.sendNext e p = d.sendClass e p ((upto 8).reverse.findSome? (d.classSends e p)) := by
  unfold Device.sendNext
  rw [none_replayed]
  simp [Device.sendQueued, no_mgmt]

theorem classSends_of_clear {c : Nat} {k : Pkt} (head : d.classHead e p c = some k)
    (clear : d.guardOk e p c k = true) : d.classSends e p c = some (c, k) := by
  simp [Device.classSends, head, clear]

theorem classSends_of_held {c : Nat} (held : ∀ k, d.classHead e p c = some k → d.guardOk e p c k = false) :
    d.classSends e p c = none := by
  unfold Device.classSends
  split
  · next k head => rw [held k head]; rfl
  · rfl

end Boundary

/-- The highest number that a search from the top finds. -/
theorem findSome?_reverse_upto {α : Type} {f : Nat → Option α} {n c : Nat} {a : α} (lt : c < n) (found : f c = some a)
    (highest : ∀ c', c < c' → c' < n → f c' = none) : (upto n).reverse.findSome? f = some a := by
  induction n with
  | zero => exact absurd lt (Nat.not_lt_zero c)
  | succ n ih =>
    rw [upto, List.range_succ, List.reverse_concat, List.findSome?_cons]
    rcases Nat.lt_or_eq_of_le (Nat.lt_succ_iff.mp lt) with below | rfl
    · rw [highest n below n.lt_succ_self]
      exact ih below fun c' above at_most => highest c' above (Nat.lt_succ_of_lt at_most)
    · rw [found]

theorem transmit_port (e : Env) (d : Device) (p : Nat) (k : Pkt) :
    ((d.transmit e p k).port p).txSeq = (d.port p).txSeq ∧ ((d.transmit e p k).port p).queues = (d.port p).queues ∧
      ((d.transmit e p k).port p).unacked = (d.port p).unacked ∧
      ((d.transmit e p k).port p).busyUntil = 100 * e.now + wireLen e p k ∧
      ∃ k', ((d.transmit e p k).port p).sent = some k' ∧ k'.type = k.type ∧ k'.ack = (d.port p).rxSeq := by
  unfold Device.transmit
  rw [modPort_eq, port_setPort_same]
  exact ⟨rfl, rfl, rfl, rfl, _, rfl, rfl, rfl⟩

theorem sendNew_port (e : Env) (d : Device) (p : Nat) (k : Pkt) :
    ((d.sendNew e p k).port p).txSeq = ((d.port p).txSeq + 1) % 4096 ∧
      ((d.sendNew e p k).port p).unacked = (d.port p).unacked ++ [{ k with seq := (d.port p).txSeq }] ∧
      ((d.sendNew e p k).port p).busyUntil = 100 * e.now + wireLen e p k := by
  unfold Device.sendNew
  obtain ⟨txSeq, _, unacked, busy, _⟩ := transmit_port e (d.modPort p (fun x => { x with
    txSeq := (x.txSeq + 1) % 4096, unacked := x.unacked ++ [{ k with seq := (d.port p).txSeq }],
    credits := (upto 4).map (fun c => x.credits.getD c 0 - (if c = k.chan then k.units + 1 else 0)) })) p
    { k with seq := (d.port p).txSeq }
  rw [modPort_eq, port_setPort_same] at txSeq unacked
  exact ⟨txSeq, unacked, busy⟩

/-- Settles O53: a port that is free sends by the first of its kinds of packet that has one. -/
theorem packetBoundarySendsNext : Obligations.PacketBoundarySendsNext := by
  rintro t p s e d x rfl serves up
  rw [exec_portPacketBoundary, act_eq]
  refine ⟨fun busy => by rw [effPacketBoundary_of_busy busy], ?_⟩
  rintro free hd rfl
  rw [effPacketBoundary_of_free serves up free, ← hd]
  refine ⟨fun k r replay => by rw [sendNext_of_replay replay],
    fun k r none_replayed mgmt credit => by rw [sendNext_of_mgmt none_replayed mgmt credit], ?_, ?_,
    fun k => sendNew_port _ d p k⟩
  · intro c k none_replayed no_mgmt lt head clear higher
    rw [sendNext_of_queues none_replayed no_mgmt, findSome?_reverse_upto lt (classSends_of_clear head clear)
      fun c' above below => classSends_of_held (higher c' above below)]
    rfl
  · intro none_replayed no_mgmt held
    have none_sends : (upto 8).reverse.findSome? (d.classSends (s.env.tick t) p) = none := by
      refine List.findSome?_eq_none_iff.mpr fun c mem => classSends_of_held (held c ?_)
      simpa [upto] using mem
    rw [sendNext_of_queues none_replayed no_mgmt, none_sends]
    obtain ⟨txSeq, queues, _, _, k, sent, type, ack⟩ :=
      transmit_port (s.env.tick t) d p (linkOnly (s.env.tick t) (d.port p).txSeq)
    exact ⟨_, rfl, txSeq, queues, k, sent, type, ack⟩

end Sys2Proof.Machine
end

section
/-! PROOFS. Pemos: what a home serves (R350, R352–R354, R357, R360, R361): reads, writes, atomics, and the replay store. -/

namespace Sys2Proof.Machine

theorem exec_read (t port : Nat) (p : Pkt) (s : State) : exec (.read t port p) s =
    s.act t (serve port (pktAs p 0x01) (fun e d k => d.serveRead e port k)) := rfl

theorem exec_write (t port : Nat) (p : Pkt) (s : State) : exec (.write t port p) s =
    s.act t (serve port (pktAs p 0x02) (fun e d k => d.serveWrite e port k)) := rfl

/-- A command that serves a packet for this node, on a port that is up: by what it leaves after the link word. -/
theorem act_serve_of_eq {s : State} {t port : Nat} {k : Pkt} {f : Env → Device → Pkt → Device} {d u : Device}
    (serves : s.dev.serving (s.env.tick t) = true) (up : s.dev.isUp port = true)
    (mine : k.dest = nodeNumber (s.env.tick t)) (arrived : d = s.dev.arrive (s.env.tick t) port k (fun d => d))
    (left : f (s.env.tick t) d k = u) :
    s.act t (serve port k f) = .next { s with env := s.env.tick t, dev := u.settleFabric (s.env.tick t) } := by
  refine act_fabric_of_eq ?_
  rw [arrive_of_taken serves up (.inr mine)] at arrived ⊢
  rw [← arrived]
  exact left

/-- A packet that arrives changes its port alone. -/
theorem arrive_lp {e : Env} {d : Device} {port : Nat} {k : Pkt} (serves : d.serving e = true)
    (up : d.isUp port = true) (mine : k.dest = nodeNumber e) : (d.arrive e port k (fun d => d)).lp = d.lp := by
  rw [arrive_of_taken serves up (.inr mine), setPort_lp]

/-! ## Answers (R352) -/

theorem respond_lastResponse (e : Env) (d : Device) (port status : Nat) (k : Pkt) (bs : List Byte) :
    (d.respond e port k status bs).pem.lastResponse = some ⟨k.src, nodeNumber e, if k.chan = 3 then 3 else 1,
      respType k.type, k.attempt, k.tag, bs.length / 32, status, k.addr, 0, 0, 0, 0, false, 0, bs⟩ := by
  unfold Device.respond
  dsimp only
  split
  all_goals
    obtain ⟨ports, prf, queued⟩ := enqueue_sameButPorts _ _ _ _ _
    rw [queued]

/-! ## READ (R350, R353, R354) -/

section Read
variable {e : Env} {d : Device} {port : Nat} {k : Pkt}

theorem serveRead_of_sound (aligned : pktOff k % 32 = 0) (inside : exported e (pktOff k) (32 * k.readUnits) = true)
    (some_units : 1 ≤ k.readUnits) (fits : k.readUnits ≤ if k.chan = 2 then 128 else 8) :
    d.serveRead e port k = if d.anyPoison (pktOff k) (32 * k.readUnits) then d.respond e port k 1 (onesPayload k.readUnits)
      else d.respond e port k 0 (d.lpSeen e (pktOff k) (32 * k.readUnits)) := by
  have sound : (pktOff k % 32 != 0 || !exported e (pktOff k) (32 * k.readUnits) || decide (k.readUnits = 0) ||
      decide (k.readUnits > if k.chan = 2 then 128 else 8)) = false := by
    simp [aligned, inside, Nat.ne_of_gt some_units, Nat.not_lt.mpr fits]
  unfold Device.serveRead
  rw [if_neg (by rw [sound]; decide)]

theorem serveRead_of_refused (bad : pktOff k % 32 ≠ 0 ∨ exported e (pktOff k) (32 * k.readUnits) = false ∨
    k.readUnits = 0 ∨ (if k.chan = 2 then 128 else 8) < k.readUnits) :
    d.serveRead e port k = d.respond e port k 3 (onesPayload (sat 128 k.readUnits)) := by
  have refused : (pktOff k % 32 != 0 || !exported e (pktOff k) (32 * k.readUnits) || decide (k.readUnits = 0) ||
      decide (k.readUnits > if k.chan = 2 then 128 else 8)) = true := by
    simpa [or_assoc] using bad
  unfold Device.serveRead
  rw [if_pos refused]

end Read

/-- Settles O54: a READ that its home may serve, one it refuses, the header of an answer, a PROBE. -/
theorem readsAreAnswered : Obligations.ReadsAreAnswered := by
  refine ⟨?_, ?_, ?_⟩
  · rintro t port n p k s e d rfl serves up mine rfl arrived rfl
    rw [exec_read]
    refine ⟨by rw [arrived]; exact arrive_lp serves up mine, fun aligned inside some_units fits => ?_, fun bad => ?_⟩
    · refine ⟨fun good => ?_, fun poisoned => ?_⟩
      · refine act_serve_of_eq serves up mine arrived ?_
        rw [serveRead_of_sound aligned inside some_units fits, good, if_neg (by decide)]
      · refine act_serve_of_eq serves up mine arrived ?_
        rw [serveRead_of_sound aligned inside some_units fits, poisoned, if_pos rfl]
    · exact act_serve_of_eq serves up mine arrived (serveRead_of_refused bad)
  · intro e d port status k bs
    exact ⟨_, respond_lastResponse .., rfl, rfl, rfl, rfl, rfl, rfl, rfl, respond_lp ..⟩
  · rintro t port p s e d rfl serves up mine arrived
    exact act_serve_of_eq serves up mine arrived rfl

/-! ## Once-operations (R357, R360, R361, Table 14.6) -/

section Once
variable {e : Env} {d : Device} {port : Nat} {k : Pkt} {run : Device → Nat × Nat × Device}

theorem once_of_live {x : ReplayEntry} (live : d.replayed e k.src k.tag = some x) : d.once e port k run =
    ({ d with pem := { d.pem with served := sat lim32 (d.pem.served + 1) } } : Device).respond e port k x.status
      (onceAnswer k x.status x.result) := by
  unfold Device.once
  rw [live]

theorem once_of_expired (gone : d.replayed e k.src k.tag = none)
    (applied : d.pem.applied.contains (k.src, k.tag) = true) (again : k.attempt ≠ 0) : d.once e port k run =
    ({ d with pem := { d.pem with expired := sat lim32 (d.pem.expired + 1) } } : Device).respond e port k 2
      (onceAnswer k 2 0) := by
  unfold Device.once
  rw [gone]
  dsimp only
  rw [if_pos (by rw [applied, Bool.true_and]; exact bne_iff_ne.mpr again)]

/-- An operation not applied yet runs; done, it is entered in the replay store, and it is answered. -/
theorem once_of_new (gone : d.replayed e k.src k.tag = none)
    (new : d.pem.applied.contains (k.src, k.tag) = false ∨ k.attempt = 0) {result : Nat} {w : Device}
    (ran : run d = (0, result, w)) : d.once e port k run =
    (w.remember e k 0 result).respond e port k 0 (onceAnswer k 0 result) := by
  have first : ¬ (d.pem.applied.contains (k.src, k.tag) && k.attempt != 0) = true := by
    rcases new with h | h
    · rw [h, Bool.false_and]; decide
    · rw [h, bne_self_eq_false, Bool.and_false]; decide
  unfold Device.once
  rw [gone]
  dsimp only
  rw [if_neg first, ran]
  rfl

end Once

/-- Settles O57: an operation with a live entry, one whose entry is gone, the end of an entry. -/
theorem replayedRequestsApplyNothing : Obligations.ReplayedRequestsApplyNothing := by
  rintro t port src tag p k s e d c rfl serves up mine arrived form
  obtain ⟨run, mine', once⟩ : ∃ run, k.dest = nodeNumber (s.env.tick t) ∧
      ∀ u, d.once (s.env.tick t) port k run = u →
        exec c s = .next { s with env := s.env.tick t, dev := u.settleFabric (s.env.tick t) } := by
    rcases form with ⟨rfl, rfl, request⟩ | ⟨rfl, rfl⟩ | ⟨rfl, rfl⟩ | ⟨rfl, rfl⟩ | ⟨rfl, rfl⟩ | ⟨rfl, rfl⟩ | ⟨rfl, rfl⟩
    · refine ⟨fun d => d.applyWrite (s.env.tick t) (pktAs p 2), mine, fun u h => ?_⟩
      refine act_serve_of_eq serves up mine arrived ?_
      unfold Device.serveWrite
      exact (if_neg request).trans h
    all_goals exact ⟨fun d => d.applyAtomic (s.env.tick t) _, mine, fun u h => act_serve_of_eq serves up mine arrived h⟩
  have unchanged : d.lp = s.dev.lp := by rw [arrived]; exact arrive_lp serves up mine'
  refine ⟨?_, ?_, _, rfl, rfl, fun x => ?_⟩
  · rintro x live w rfl
    exact ⟨once _ (once_of_live live), (respond_lp ..).trans unchanged⟩
  · rintro gone applied again w rfl
    exact ⟨once _ (once_of_expired gone applied again), (respond_lp ..).trans unchanged⟩
  · change x ∈ s.dev.pem.store.filter _ ↔ _
    rw [List.mem_filter]
    refine and_congr_right fun _ => ?_
    rw [Bool.not_eq_true', ← Bool.not_eq_true]
    exact not_congr (by simp [and_assoc])

/-! ## WRITE (R350, R353) -/

section Write
variable {e : Env} {d : Device} {port : Nat} {k : Pkt}

/-- The device with the units of a WRITE stored, good data. -/
def Device.withUnits (d : Device) (k : Pkt) : Device :=
  let n := 32 * k.units
  { d with lp := mwrites 0 d.lp (pktOff k) (k.payload.take n)
           lpBad := d.lpBad.filter (fun u => 32 * u + 32 ≤ pktOff k || pktOff k + n ≤ 32 * u) }

theorem applyWrite_of_sound (aligned : pktOff k % 32 = 0) (inside : exported e (pktOff k) (32 * k.units) = true)
    (some_units : 1 ≤ k.units) (fits : k.units ≤ if k.chan = 2 then 128 else 8) :
    d.applyWrite e k = (0, 0, d.withUnits k) := by
  have sound : (pktOff k % 32 != 0 || !exported e (pktOff k) (32 * k.units) || decide (k.units = 0) ||
      decide (k.units > if k.chan = 2 then 128 else 8)) = false := by
    simp [aligned, inside, Nat.ne_of_gt some_units, Nat.not_lt.mpr fits]
  unfold Device.applyWrite
  rw [if_neg (by rw [sound]; decide)]
  rfl

theorem applyWrite_of_outside (outside : exported e (pktOff k) (32 * k.units) = false) :
    d.applyWrite e k = (3, 0, d) := by
  unfold Device.applyWrite
  rw [if_pos (by simp [outside])]

theorem serveWrite_of_bulk (bulk : k.chan = 2) : d.serveWrite e port k =
    (d.applyWrite e k).2.2.respond e port k (d.applyWrite e k).1 [] := by
  unfold Device.serveWrite
  rw [if_pos bulk]

theorem serveWrite_of_request (request : k.chan ≠ 2) :
    d.serveWrite e port k = d.once e port k (fun d => d.applyWrite e k) := by
  unfold Device.serveWrite
  rw [if_neg request]

theorem withUnits_mread (whole : k.payload.length = 32 * k.units) (a : Nat) : mread 0 (d.withUnits k).lp a =
    if pktOff k ≤ a ∧ a < pktOff k + 32 * k.units then k.payload.getD (a - pktOff k) 0 else mread 0 d.lp a := by
  unfold Device.withUnits
  rw [mread_mwrites, List.take_of_length_le (Nat.le_of_eq whole), whole]

theorem withUnits_good (d : Device) (k : Pkt) : (d.withUnits k).anyPoison (pktOff k) (32 * k.units) = false := by
  rw [← Bool.not_eq_true]
  intro poisoned
  simp only [Device.anyPoison, Device.withUnits, List.any_filter, List.any_eq_true, Bool.and_eq_true, Bool.or_eq_true,
    decide_eq_true_eq] at poisoned
  obtain ⟨u, _, apart, meets⟩ := poisoned
  omega

end Write

/-- Settles O55: a WRITE that its home may store, by either channel, and one outside the window. -/
theorem writesStoreWholeUnits : Obligations.WritesStoreWholeUnits := by
  rintro t port n p k s e d w rfl serves up mine rfl arrived rfl whole hw
  rw [exec_write]
  have unchanged : d.lp = s.dev.lp := by rw [arrived]; exact arrive_lp serves up mine
  refine ⟨fun aligned inside some_units fits => ?_, fun bulk outside => ?_⟩
  · have stored := applyWrite_of_sound (d := d) aligned inside some_units fits
    have units : w = d.withUnits (pktAs p 2) := by rw [hw, stored]
    refine ⟨fun bulk => ?_, fun request gone new => ?_, fun i lt => ?_, fun a apart => ?_, ?_⟩
    · refine act_serve_of_eq serves up mine arrived ?_
      rw [serveWrite_of_bulk bulk, stored, units]
    · refine act_serve_of_eq serves up mine arrived ?_
      rw [serveWrite_of_request request, once_of_new gone new stored, units]
      rfl
    · rw [units, withUnits_mread whole, if_pos (by omega), Nat.add_sub_cancel_left]
    · rw [units, withUnits_mread whole, if_neg (by omega), unchanged]
    · rw [units]; exact withUnits_good ..
  · refine act_serve_of_eq serves up mine arrived ?_
    rw [serveWrite_of_bulk bulk, applyWrite_of_outside outside]

/-! ## Atomics (R353) -/

theorem ofBytes_lt (bs : List Byte) : ofBytes bs < 256 ^ bs.length := by
  induction bs with
  | nil => exact Nat.one_pos
  | cons b bs ih =>
    have byte := b.isLt
    rw [ofBytes, List.length_cons, Nat.pow_succ]
    omega

theorem ofBytes_take_lt (bs : List Byte) (n : Nat) : ofBytes (bs.take n) < 2 ^ (8 * n) := by
  rw [Nat.pow_mul]
  exact (ofBytes_lt _).trans_le (Nat.pow_le_pow_right (by decide) (List.length_take_le ..))

theorem lpNat_lt (d : Device) (a n : Nat) : d.lpNat a n < 2 ^ (8 * n) := by
  have bound := ofBytes_lt (mreads 0 d.lp a n)
  rw [length_mreads] at bound
  rw [Nat.pow_mul]
  exact bound

/-- The model's two's-complement reading is that of bit vectors. -/
theorem signedOf_eq_toInt {n v : Nat} (size : 0 < n) (lt : v < 2 ^ (8 * n)) :
    signedOf n v = (BitVec.ofNat (8 * n) v).toInt := by
  have double : 2 ^ (8 * n) = 2 * 2 ^ (8 * n - 1) := by rw [← Nat.pow_succ']; congr 1; omega
  rw [BitVec.toInt_eq_toNat_cond, BitVec.toNat_ofNat, Nat.mod_eq_of_lt lt, signedOf]
  congr 1
  simp only [eq_iff_iff]
  omega

theorem signedOf_lt_iff {n a b : Nat} (size : 0 < n) (ha : a < 2 ^ (8 * n)) (hb : b < 2 ^ (8 * n)) :
    signedOf n a < signedOf n b ↔ (BitVec.ofNat (8 * n) a).slt (BitVec.ofNat (8 * n) b) = true := by
  rw [signedOf_eq_toInt size ha, signedOf_eq_toInt size hb, BitVec.slt_iff_toInt_lt]

/-- The value an atomic of a type leaves where `old` stood. -/
def atomLeaves (type n old x y : Nat) : Nat := if type = 0x15 then if old = x then y else old else atomNew type n old x

section Atomic
variable {e : Env} {d : Device} {port : Nat} {k : Pkt} {n old x : Nat} (operand : n = atomBytes k.size)
  (aligned : pktOff k % n = 0) (inside : exported e (pktOff k) n = true) (good : d.anyPoison (pktOff k) n = false)
  (read : old = d.lpNat (pktOff k) n) (given : x = ofBytes (k.payload.take n))
include operand aligned inside good read given

theorem applyAtomic_of_sound (sized : if k.type = 0x15 then k.size = 1 ∨ k.size = 2 else k.size ≤ 1) :
    d.applyAtomic e k =
      (0, old, d.lpStore (pktOff k) n (atomLeaves k.type n old x (ofBytes ((k.payload.drop n).take n)))) := by
  have range : (if k.type = 0x15 then decide (k.size = 1) || decide (k.size = 2) else decide (k.size ≤ 1)) = true := by
    split at sized
    · next cas => rw [if_pos cas]; simpa using sized
    · next other => rw [if_neg other]; simpa using sized
  have sound : (!(if k.type = 0x15 then decide (k.size = 1) || decide (k.size = 2) else decide (k.size ≤ 1)) ||
      pktOff k % n != 0 || !exported e (pktOff k) n) = false := by
    rw [range, inside, aligned]; rfl
  subst operand read given
  unfold Device.applyAtomic
  rw [if_neg (by rw [sound]; decide), if_neg (by rw [good]; decide)]
  rfl

end Atomic

theorem atomBytes_pos (size : Nat) : 0 < atomBytes size := Nat.mul_pos (by decide) (Nat.pow_pos (by decide))

/-- Settles O56: each atomic by the value it leaves; the range of sizes is that of its type. -/
theorem atomicsStoreAndAnswerOld : Obligations.AtomicsStoreAndAnswerOld := by
  rintro t port n old x y c p k s e d rfl serves up mine operand arrived aligned inside good gone new read given form
  have old_lt : old < 2 ^ (8 * n) := by rw [read]; exact lpNat_lt ..
  have x_lt : x < 2 ^ (8 * n) := by rw [given]; exact ofBytes_take_lt ..
  have size : 0 < n := by rw [operand]; exact atomBytes_pos _
  have served : ∀ type, k.type = type → (if type = 0x15 then k.size = 1 ∨ k.size = 2 else k.size ≤ 1) → type ≠ 2 →
      y = atomLeaves type n old x (ofBytes ((k.payload.drop n).take n)) →
      d.serveAtomic (s.env.tick t) port k = ((d.lpStore (pktOff k) n y).remember (s.env.tick t) k 0 old).respond
        (s.env.tick t) port k 0 (toBytes 32 old) := by
    rintro _ rfl sized atomic rfl
    have answer : onceAnswer k 0 old = toBytes 32 old := by rw [onceAnswer, if_neg atomic, if_pos rfl]
    rw [Device.serveAtomic, once_of_new gone new (applyAtomic_of_sound operand aligned inside good read given sized),
      answer]
  rcases form with ⟨small, ⟨rfl, rfl, hy⟩ | ⟨rfl, rfl, hy⟩ | ⟨rfl, rfl, hy⟩ | ⟨rfl, rfl, hy⟩ | ⟨rfl, rfl, hy⟩⟩ |
    ⟨sized, rfl, rfl, hy⟩
  all_goals refine act_serve_of_eq serves up mine arrived ?_
  · refine served 0x10 rfl small (by decide) (hy.trans ?_)
    change _ = (old + x) % 2 ^ (8 * n)
    rw [BitVec.toNat_add, BitVec.toNat_ofNat, BitVec.toNat_ofNat, ← Nat.add_mod]
  · refine served 0x11 rfl small (by decide) (hy.trans ?_)
    change _ = if signedOf n x < signedOf n old then x else old
    exact if_congr (signedOf_lt_iff size x_lt old_lt).symm rfl rfl
  · refine served 0x12 rfl small (by decide) (hy.trans ?_)
    change _ = if signedOf n old < signedOf n x then x else old
    exact if_congr (signedOf_lt_iff size old_lt x_lt).symm rfl rfl
  · refine served 0x13 rfl small (by decide) (hy.trans ?_)
    change _ = if x < old then x else old
    split <;> omega
  · refine served 0x14 rfl small (by decide) (hy.trans ?_)
    change _ = if old < x then x else old
    split <;> omega
  · exact served 0x15 rfl sized (by decide) hy

end Sys2Proof.Machine
end
